-- ==== Sys2Proof/Word.lean ====
section
/-! DEFINITION. The word types of the KY7 and nothing else: bytes, the two register widths, the 128-bit instruction word
and byte strings. Multi-byte fields are little-endian (R6); the helpers that read them stand in Machine/Bytes.lean. -/

namespace Sys2Proof

/-- One byte. -/
abbrev Byte := BitVec 8

/-- A 32-bit register or field (R11). -/
abbrev W32 := BitVec 32

/-- A 64-bit register or field (R11). -/
abbrev W64 := BitVec 64

/-- An instruction word of a cluster program (R123). -/
abbrev IWord := BitVec 128

/-- A byte string in ascending address order. -/
abbrev Bytes := List Byte

end Sys2Proof
end

