-- ==== Sys2Proof/Config.lean ====
section
/-! DEFINITION. What an implementation fixes and the manual leaves open: free values. Each is an opaque constant without a
body, so no proof can see a value of it. The log entries that declare them: 4, 5, 7 and 56. -/

namespace Sys2Proof.Config

/-- Bits of a main-memory byte that nothing has written since its owner's keys were installed (R247: meaningless bits).
The first argument numbers the key installation, the second is the device address. Log entry 5. -/
opaque unwrittenByte : Nat → Nat → BitVec 8

/-- Bytes of the keys that the security island generates: memory keys (R246), port keys, by number and position. Log entry 4. -/
opaque keyByte : Nat → Nat → BitVec 8

/-- Severity of a trouble-log event (R516 lists the codes 0 to 4 and assigns none to an event). Log entry 7. -/
opaque severity : Nat → BitVec 4

/-- A fresh random value of the security island (R468, R481), numbered by State.free. Log entry 4. -/
opaque randomWord : Nat → BitVec 64

/-- A value the manual states no bits for, numbered by State.free. Log entry 4. -/
opaque freeWord : Nat → BitVec 64

/-- Bytes of a response whose encoding an outside standard fixes (SPDM, RFC messages): free bytes,
numbered by State.free and by position. Log entry 4. -/
opaque responseByte : Nat → Nat → BitVec 8

/-- The data bits of a granule or SRAM word whose code found it uncorrectable, and those read from a failed channel: poisoned
bits that the manual leaves open (R239, R243, R248). Numbered by State.free and by address. Log entry 5. -/
opaque lostByte : Nat → Nat → BitVec 8

/-- Bytes of the SHA-384 digests of the ROM (0 to 47) and of the part record with its signatures (48 to 95): measurement indices 1 and 3
(R473). Log entry 4. -/
opaque fixedDigestByte : Nat → BitVec 8

/-- Bytes of the meter's serial (0 to 7), public key (8 to 103) and certificate signature (104 to 199) (R493, R497). Log entry 4. -/
opaque meterByte : Nat → BitVec 8

/-- The parts of a certificate of the identity chain (R469): its fields apart from the HSS extension (part 0), its ECDSA P-384 signature
(part 1) and its HSS signature (part 2). The first argument numbers the certificate. Log entry 56. -/
opaque certPart : Nat → Nat → List (BitVec 8)

/-- The identity seed S, 48 bytes, which the PUF gives (R466): a secret of the part. Log entry 4. -/
opaque seedByte : Nat → BitVec 8

end Sys2Proof.Config
end

