-- ==== Sys2Proof/Syntax.lean ====
section
/-! DEFINITION. The commands the block takes: one constructor of Instr for each of the 220 rows of the opcode table.
Every command carries as its first operand `t` the moment at which it arrives, in ns since the cold reset (log entry 2);
the other operands are what the command's sender, a wire, a sensor or a peer decides. What the block holds itself (the
instruction word at a sequencer's position, an accepted ticket, a queued batt) is taken from State. -/

namespace Sys2Proof

/-- Who makes an access or writes a register (R464, and the writer lists of each register chapter). -/
inductive Requester where
  | app (hart : Fin 16)
  | sec
  | pmc
  | sched
  | loader
  | clcore (c : Fin 64)
  | cluster (c : Fin 64)
  | upd (e : Fin 4)
  | col (e : Fin 4)
deriving DecidableEq, Repr

/-- Which bits of a 64-bit register a write covers (R11): its lower half, its upper half or all of it. -/
inductive RegPart where
  | lower
  | upper
  | whole
deriving DecidableEq, Repr

/-- What the check code of a granule or the SECDED code of an SRAM word finds (R239, R248). -/
inductive Ecc where
  | clean
  | correctable
  | uncorrectable
  /-- Uncorrectable, and another granule of its stripe as well (R253). -/
  | stripe
deriving DecidableEq, Repr

/-- Data rate at which a memory-controller group trains (R234, R255). -/
inductive Rate where
  | r10667
  | r12800
  | r14400
deriving DecidableEq, Repr

/-- The on-die stores of R248. -/
inductive Store where
  | operand (c : Fin 64)
  | bankA (c : Fin 64)
  | bankB (c : Fin 64)
  | vreg (c : Fin 64)
  | spine (d : Fin 2)
deriving DecidableEq, Repr

/-- Why a cluster is frozen: a freeze of the plank alone (R114, R212), a stall of the vector engine alone (R211), throttle (R453), hot
cluster (R455), thermal trip (R455), hardware limit (R454), clock handover (R439). Every cause but the first two holds the plank and the
engine; a unit advances only while no cause of its own holds (R456). -/
inductive FreezeCause where
  | plankOnly
  | engineOnly
  | throttle
  | hot
  | trip
  | hwLimit
  | handover
deriving DecidableEq, Repr

/-- The four switchable clocks (R435); their codes in events are 0 ARR, 1 FAB, 2 CTL, 3 APP (R438). -/
inductive Clock where
  | arr
  | fab
  | ctl
  | app
deriving DecidableEq, Repr

/-- A clock reference (R434). -/
inductive Ref where
  | loc
  | recP
  | recA
deriving DecidableEq, Repr

/-- A thermal sensor (R455): one on each cluster, two on each link die and two on the control die. -/
inductive Sensor where
  | cluster (c : Fin 64)
  | link (die : Fin 2) (i : Fin 2)
  | control (i : Fin 2)
deriving DecidableEq, Repr

/-- The triggers of a retrain (R267); `fec` carries the uncorrectable codewords that arrived within 1 ms. -/
inductive RetrainTrigger where
  | resends
  | fec (codewords : Nat)
  | blockLock
  | register
deriving DecidableEq, Repr

/-- What the SPDM exchange of a brim port ends with (R269, R270, R474): whether authentication succeeded, what the peer
attested, and whether the peer's measurement of the owner keys equals the own one. -/
structure AttestResult where
  authOk    : Bool
  peerPkg   : BitVec 16
  peerPort  : BitVec 4
  domain    : BitVec 64
  sameOwner : Bool
deriving DecidableEq, Repr

/-- A received flit (R263): header fields and the 224 bytes of data, in plaintext. -/
structure Flit where
  seq    : Nat
  typ    : BitVec 4
  vc     : BitVec 2
  key    : Bool
  poison : BitVec 8
  ack    : Nat
  cvc    : BitVec 2
  credit : BitVec 14
  data   : Bytes
deriving DecidableEq, Repr

/-- The header of a contribution message (R279). -/
structure ContribHdr where
  src     : BitVec 16
  phase   : BitVec 2
  hop     : Nat
  collId  : BitVec 32
  chunk   : Nat
  step    : BitVec 32
  discord : Bool
deriving DecidableEq, Repr

/-- A management request (R381, R383): its session and number, and the source address and port to which its reply returns. -/
structure MgmtReq where
  session : Nat
  reqId   : Nat
  addr    : BitVec 32
  port    : BitVec 16
deriving DecidableEq, Repr

/-- How a controller group trains when a load powers it (R234, R243): the rate, and the channels that could not be trained at it. -/
structure Training where
  group : Fin 8
  rate  : Rate
  bad   : BitVec 24
deriving DecidableEq, Repr

/-- Bytes with the numbers of those of their 32-byte granules that carry the poison flag (R240). -/
structure Marked where
  bytes  : Bytes
  poison : List Nat
deriving DecidableEq, Repr

/-- What a DHCPACK says of the boot server (R323): siaddr, and the server of option 66 where the option is present. -/
structure DhcpServer where
  siaddr : BitVec 32
  opt66  : Option (BitVec 32)
deriving DecidableEq, Repr

/-- What the security core's checks of signatures find for an image (R353, check 5): the two verdicts of R347. -/
structure SigVerdict where
  ecdsaOk : Bool
  hssOk   : Bool
deriving DecidableEq, Repr

/-- Outcome of stage 2 (R466, R467): what the flash, the PUF and the part record's signatures answer. -/
structure IdentResult where
  flashOk    : Bool
  pufA       : Bool
  pufB       : Bool
  counterOk  : Bool
  partSigOk  : Bool
  idHashOk   : Bool
deriving DecidableEq, Repr

/-- The sessions of R470. -/
inductive Role where
  | owner
  | tenant (p : Fin 8)
  | relying
deriving DecidableEq, Repr

/-- The fields of a debug token (R480). -/
structure Token where
  magic  : BitVec 32
  ver    : BitVec 16
  issuer : Nat
  part   : Nat
  serial : BitVec 64
  boot   : Nat
  scope  : BitVec 32
  nonce  : BitVec 128
  life   : Nat
deriving DecidableEq, Repr

/-- The part of an SPDM request that the security core's state decides on (R470, R474). -/
inductive SpdmReq where
  | getMeasurements (index : Nat)
  | keyExchange (role : Role) (algorithmsOk : Bool) (authOk : Bool)
  | endSession
  | challenge
  | getCertificate (slot offset length : Nat)
  | other
deriving DecidableEq, Repr

/-- Frames of the firmware endpoint (R335). -/
inductive FwFrame where
  | arp (ip : BitVec 32)
  | icmpEcho (data : Bytes)
  | udpMgmt (data : Bytes) (inSession : Bool)
  | udpSpdm (src : BitVec 48) (data : Bytes)
  | other
deriving DecidableEq, Repr

/-- What a request to host two checkpoint slots (R406) is: one that this package sends and the peer's answer to it, or one
that arrives on a port from a peer. -/
inductive BuddyEvent where
  | answered (accepted : Bool)
  | received (slotBytes : Nat)
deriving DecidableEq, Repr

/-- The commands, one constructor per row of the opcode table. -/
inductive Instr where
  -- CSR and memory map
  | csrWrite (t : Nat) (who : Requester) (addr : Nat) (width : Nat) (val : W64)
  | unmappedAccess (t : Nat) (who : Requester) (addr : Nat) (isWrite : Bool)
  | deniedAccess (t : Nat) (who : Requester) (addr : Nat) (isWrite : Bool)
  -- cluster programs: the word at the sequencer's position issues
  | nop (t : Nat) (c : Fin 64)
  | endstep (t : Nat) (c : Fin 64)
  | jump (t : Nat) (c : Fin 64)
  | callv (t : Nat) (c : Fin 64)
  | ret (t : Nat) (c : Fin 64)
  | loop (t : Nat) (c : Fin 64)
  | trap (t : Nat) (c : Fin 64)
  | pass (t : Nat) (c : Fin 64)
  | copy (t : Nat) (c : Fin 64)
  | fill (t : Nat) (c : Fin 64)
  | moveDone (t : Nat) (c : Fin 64)
  | sig (t : Nat) (c : Fin 64)
  | sigDelivery (t : Nat) (src : Fin 64) (tgt : Fin 64) (seq : Nat) (ackLost : Bool)
  | sigRepeat (t : Nat) (src : Fin 64) (tgt : Fin 64) (seq : Nat) (ackLost : Bool)
  | wait (t : Nat) (c : Fin 64)
  | bar (t : Nat) (c : Fin 64)
  | flush (t : Nat) (c : Fin 64)
  | trace (t : Nat) (c : Fin 64)
  | seqCtrlGo (t : Nat) (who : Requester) (c : Fin 64)
  | seqCtrlRelease (t : Nat) (who : Requester) (c : Fin 64)
  | seqCtrlTrapDone (t : Nat) (who : Requester) (c : Fin 64)
  | seqCtrlClrStop (t : Nat) (who : Requester) (c : Fin 64)
  | seqCtrlPause (t : Nat) (who : Requester) (c : Fin 64)
  | seqCtrlResume (t : Nat) (who : Requester) (c : Fin 64)
  | pausePoint (t : Nat) (c : Fin 64)
  | plkCtrlClrFaulted (t : Nat) (who : Requester) (c : Fin 64)
  | passCommit (t : Nat) (c : Fin 64)
  | pounceCheckDone (t : Nat) (c : Fin 64)
  | shadowParity (t : Nat) (c : Fin 64) (seq : Nat) (tile : Nat)
  | plankResidue (t : Nat) (c : Fin 64) (seq : Nat) (tile : Nat)
  | accEcc (t : Nat) (c : Fin 64) (seq : Nat) (tile : Nat)
  | passReexecute (t : Nat) (c : Fin 64)
  | freezeRequest (t : Nat) (c : Fin 64) (cause : FreezeCause)
  | freezeRelease (t : Nat) (c : Fin 64) (cause : FreezeCause)
  | vecComplete (t : Nat) (c : Fin 64)
  | add (t : Nat) (c : Fin 64)
  | sub (t : Nat) (c : Fin 64)
  | mul (t : Nat) (c : Fin 64)
  | fma (t : Nat) (c : Fin 64)
  | neg (t : Nat) (c : Fin 64)
  | abs (t : Nat) (c : Fin 64)
  | min (t : Nat) (c : Fin 64)
  | max (t : Nat) (c : Fin 64)
  | cmpeq (t : Nat) (c : Fin 64)
  | cmplt (t : Nat) (c : Fin 64)
  | cmple (t : Nat) (c : Fin 64)
  | iadd (t : Nat) (c : Fin 64)
  | isub (t : Nat) (c : Fin 64)
  | imul (t : Nat) (c : Fin 64)
  | mulbs (t : Nat) (c : Fin 64)
  | and (t : Nat) (c : Fin 64)
  | or (t : Nat) (c : Fin 64)
  | xor (t : Nat) (c : Fin 64)
  | shl (t : Nat) (c : Fin 64)
  | shr (t : Nat) (c : Fin 64)
  | sra (t : Nat) (c : Fin 64)
  | cvt (t : Nat) (c : Fin 64)
  | cvtsr (t : Nat) (c : Fin 64)
  | split3 (t : Nat) (c : Fin 64)
  | exp2 (t : Nat) (c : Fin 64)
  | log2 (t : Nat) (c : Fin 64)
  | rcp (t : Nat) (c : Fin 64)
  | rsqrt (t : Nat) (c : Fin 64)
  | redsum (t : Nat) (c : Fin 64)
  | redprod (t : Nat) (c : Fin 64)
  | redmax (t : Nat) (c : Fin 64)
  | redmin (t : Nat) (c : Fin 64)
  | argmax (t : Nat) (c : Fin 64)
  | argmin (t : Nat) (c : Fin 64)
  | dropout (t : Nat) (c : Fin 64)
  | streamsoftmax (t : Nat) (c : Fin 64)
  | turn (t : Nat) (c : Fin 64)
  | rngSeed (t : Nat) (who : Requester) (c : Fin 64) (part : RegPart) (val : W64)
  -- memory
  | mgTrain (t : Nat) (g : Fin 8) (rate : Option (Rate × BitVec 24))
  | memRead (t : Nat) (who : Requester) (addr : Nat) (ecc : Ecc)
  | memWrite (t : Nat) (who : Requester) (addr : Nat) (data : Bytes) (poison : Bool) (ecc : Ecc)
  | scrub (t : Nat) (g : Fin 8) (n : Fin 24) (off : Nat) (ecc : Ecc)
  | rebuildRetry (t : Nat) (g : Fin 8) (m : Fin 2) (ok : Bool)
  | memCtrlRebuildNow0 (t : Nat) (who : Requester) (g : Fin 8) (ok : Bool)
  | memCtrlRebuildNow1 (t : Nat) (who : Requester) (g : Fin 8) (ok : Bool)
  | rebuildDone (t : Nat) (g : Fin 8) (m : Fin 2)
  | periodicRetraining (t : Nat) (g : Fin 8) (n : Fin 24) (ok : Bool)
  | hatbandFlit (t : Nat) (die : Fin 2) (addr : Nat) (data : Bytes) (poison : BitVec 8) (failures : Nat)
  | sramAccess (t : Nat) (store : Store) (off : Nat) (ecc : Ecc)
  -- brim ports and collectives
  | linkTrain (t : Nat) (p : Fin 16) (lanes : BitVec 8) (reversed : Bool)
  | trainRetry (t : Nat) (p : Fin 16) (lanes : BitVec 8) (reversed : Bool)
  | attest (t : Nat) (p : Fin 16) (r : AttestResult)
  | flitReceive (t : Nat) (p : Fin 16) (f : Flit) (crcOk : Bool) (tagOk : Bool)
  | nak (t : Nat) (p : Fin 16) (ack : Nat)
  | retrain (t : Nat) (p : Fin 16) (why : RetrainTrigger) (lanes : BitVec 8)
  | keyUpdate (t : Nat) (p : Fin 16) (transmit : Bool)
  | brmCtrlRetrain (t : Nat) (who : Requester) (p : Fin 16)
  | brmCtrlFullWidth (t : Nat) (who : Requester) (p : Fin 16)
  | time (t : Nat) (p : Fin 16) (peerNs : Nat)
  | timeExchange (t : Nat)
  | colStep (t : Nat) (who : Requester) (e : Fin 4) (val : W32)
  | colCtrlAbort (t : Nat) (who : Requester) (e : Fin 4)
  | collectiveStart (t : Nat) (e : Fin 4)
  | contribution (t : Nat) (p : Fin 16) (h : ContribHdr) (data : Bytes) (poisoned : List Nat)
  | notify (t : Nat) (e : Fin 4)
  | collTimeout (t : Nat) (e : Fin 4)
  -- update engines
  | battReceive (t : Nat) (e : Fin 4)
  | close (t : Nat) (e : Fin 4)
  | updCtrlClrDiscord (t : Nat) (who : Requester) (e : Fin 4)
  | updSeed (t : Nat) (who : Requester) (e : Fin 4) (part : RegPart) (val : W64)
  -- step boundary, tickets, management
  | decide (t : Nat) (p : Fin 8)
  | stageB5 (t : Nat) (p : Fin 8)
  | ledgerSample (t : Nat)
  | run (t : Nat) (p : Fin 8) (buddyCopy : Option Marked)
  | pause (t : Nat) (p : Fin 8)
  | resume (t : Nat) (p : Fin 8)
  | checkpoint (t : Nat) (p : Fin 8)
  | dump (t : Nat) (p : Fin 8)
  | selftest (t : Nat) (p : Fin 8) (result : Nat)
  | claim (t : Nat) (p : Fin 8)
  | detach (t : Nat) (p : Fin 8)
  | load (t : Nat) (p : Fin 8) (v : SigVerdict) (trained : List Training)
  | partialReload (t : Nat) (p : Fin 8)
  | tktBase (t : Nat) (who : Requester) (p : Fin 8) (part : RegPart) (val : W64)
  | leaseLapsed (t : Nat) (p : Fin 8)
  | status (t : Nat) (r : MgmtReq)
  | logRead (t : Nat) (r : MgmtReq) (start : Nat) (count : Nat)
  | traceSet (t : Nat) (r : MgmtReq) (proc : Nat) (mask : BitVec 256)
  | mgmtSelftest (t : Nat) (r : MgmtReq) (test : Nat) (target : Nat) (timeoutMs : Nat) (token : W64) (allowStep : Bool) (result : Nat)
  | fwBegin (t : Nat) (r : MgmtReq) (total : Nat)
  | fwData (t : Nat) (r : MgmtReq) (off : Nat) (data : Bytes)
  | fwCommit (t : Nat) (r : MgmtReq) (v : SigVerdict)
  | fwAbort (t : Nat) (r : MgmtReq)
  | procRestart (t : Nat) (r : MgmtReq) (proc : Nat) (savePoisoned : Bool)
  | cntRead (t : Nat) (r : MgmtReq) (bank : Nat) (first : Nat) (count : Nat)
  | schedulerWatchdog (t : Nat) (savePoisoned : Bool)
  | clusterWatchdog (t : Nat) (c : Fin 64) (savePoisoned : Bool)
  | fwActivate (t : Nat)
  | clusterKat (t : Nat) (c : Fin 64) (result : Nat)
  | slack (t : Nat) (p : Fin 8) (entry : Nat)
  | wakeOnPoint (t : Nat) (p : Fin 8) (entry : Nat)
  | sleepOnPoint (t : Nat) (p : Fin 8) (entry : Nat)
  -- twin operation and recovery
  | hello (t : Nat) (port : Fin 16) (p : Fin 8) (finger : Bytes)
  | digest (t : Nat) (port : Fin 16) (p : Fin 8) (step : Nat) (value : W64)
  | recover (t : Nat) (port : Fin 16) (p : Fin 8) (reason : Nat) (r : Nat) (gen : Nat) (target : Nat)
  | parked (t : Nat) (port : Fin 16) (p : Fin 8)
  | fenced (t : Nat) (port : Fin 16) (p : Fin 8)
  | rebuild (t : Nat) (port : Fin 16) (p : Fin 8)
  | join (t : Nat) (port : Fin 16) (p : Fin 8) (j : Nat)
  | waitRejoin (t : Nat) (p : Fin 8)
  | twinRebuildDone (t : Nat) (p : Fin 8) (shard : Option Marked)
  | twinSolo (t : Nat) (p : Fin 8)
  | buddyRequest (t : Nat) (port : Fin 16) (p : Fin 8) (ev : BuddyEvent)
  | ckptDone (t : Nat) (p : Fin 8)
  | restore (t : Nat) (p : Fin 8) (buddyCopy : Option Marked)
  -- clocks and power
  | clkSelArr (t : Nat) (who : Requester) (code : BitVec 2)
  | clkSelFab (t : Nat) (who : Requester) (code : BitVec 2)
  | clkSelCtl (t : Nat) (who : Requester) (code : BitVec 2)
  | clkSelApp (t : Nat) (who : Requester) (code : BitVec 2)
  | clkSwitch (t : Nat) (k : Clock)
  | refLost (t : Nat) (r : Ref)
  | clkFallbackRetry (t : Nat)
  | arrPllStop (t : Nat) (die : Fin 2)
  | powerUp (t : Nat) (dom : Fin 96)
  | powerFault (t : Nat) (dom : Fin 96)
  | powerDecision (t : Nat) (p1 : Nat) (dyn : List (Fin 64 × Nat))
  | hwIlimit (t : Nat)
  | hwLimitRelease (t : Nat)
  | thermalRead (t : Nat) (readings : List (Sensor × Int))
  | thermTrip (t : Nat) (sensor : Sensor) (reading : Int)
  | pwrReqApp1On (t : Nat) (who : Requester) (on : Bool)
  | pwrAppStart (t : Nat) (who : Requester) (harts : BitVec 16)
  -- security
  | setOwner (t : Nat) (role : Role) (newRecord : Bytes) (hssOk : Bool)
  | authKey (t : Nat) (role : Role) (keyDigest : Bytes) (bitmap : BitVec 8)
  | revokeKey (t : Nat) (role : Role) (keyDigest : Bytes)
  | grantSlot (t : Nat) (role : Role) (p : Fin 8) (keyDigest : Bytes)
  | bindTenant (t : Nat) (keyDigest : Bytes) (p : Fin 8) (request : Bytes) (qd : Bytes) (ct : Bytes) (ss1 : Bytes) (ss2 : Bytes) (pub : Bytes)
  | raiseFloor (t : Nat) (role : Role) (floor : Nat)
  | debugOpen (t : Nat) (role : Role) (tok : Token) (tokDigest : Bytes) (sigOk : Bool)
  | tokenLoad (t : Nat) (tok : Token) (tokDigest : Bytes) (sigOk : Bool)
  | debugClose (t : Nat)
  | enableRetire (t : Nat) (role : Role)
  | pqSig (t : Nat) (role : Role)
  | spdmMessage (t : Nat) (viaPort : Option (Fin 16)) (session : Option Nat) (r : SpdmReq)
  | alarm (t : Nat) (sensor : Fin 6)
  | alarmEnd (t : Nat)
  | secZeroise (t : Nat) (who : Requester) (level : BitVec 3)
  -- start-up, management port, sideband
  | coldReset (t : Nat)
  | strapLatch (t : Nat) (cool : BitVec 2)
  | ctlPllLock (t : Nat) (r : IdentResult)
  | mgtLinkUp (t : Nat)
  | dhcpack (t : Nat) (ip : BitVec 32) (server : DhcpServer) (file : Bytes)
  | dhcpRetry (t : Nat)
  | tftpData (t : Nat) (block : Nat) (data : Bytes) (v : SigVerdict)
  | tftpError (t : Nat)
  | tftpRetransmit (t : Nat)
  | bootRetry (t : Nat)
  | bootDone (t : Nat)
  | hostPortSample (t : Nat)
  | hostFrameReceive (t : Nat) (frame : Bytes) (fcsOk : Bool)
  | hostFrameSent (t : Nat)
  | firmwareFrame (t : Nat) (f : FwFrame)
  | dhcpRenew (t : Nat) (ip : Option (BitVec 32))
  | mgtLinkLost (t : Nat)
  | i3cPrivateRead (t : Nat)
  -- energy meter
  | energy (t : Nat) (uj : BitVec 32) (peakMw : BitVec 32) (railFault : Bool) (sig : Bytes)
  | meterPowerUp (t : Nat)
  | ident (t : Nat) (who : Requester)
  | setTag (t : Nat) (who : Requester) (p : Fin 8)
  | readStatus (t : Nat) (who : Requester)
  | selfCheck (t : Nat) (who : Requester)
  | periodicSelfCheck (t : Nat)
  | check (t : Nat) (result : BitVec 8) (rails : BitVec 8)
  | meterRecord (t : Nat)
  | meterSilent (t : Nat)
  -- observability and the rest
  | traceDrain (t : Nat) (c : Fin 64)
  | dumpDeliver (t : Nat) (p : Fin 8)
  | powerLoss (t : Nat)
  | loadAlarmTimeout (t : Nat) (p : Fin 8)
  | selftestTimeout (t : Nat) (p : Fin 8)
  | brmCtrlDisable (t : Nat) (who : Requester) (p : Fin 16) (value : Bool)
  | pgoodOrResetNLow (t : Nat) (pgood : Bool) (resetN : Bool)
deriving DecidableEq, Repr

end Sys2Proof
end

