-- ==== Sys2Proof/Machine/Bytes.lean ====
section
/-! DEFINITION. Byte strings: little-endian fields (R6), bit fields, CRC-32 (R177), and lists kept in ascending order of a key. -/

namespace Sys2Proof.Machine

/-- The number a byte string spells, byte 0 least significant (R6). -/
def leNat : Bytes → Nat
  | [] => 0
  | b :: t => b.toNat + 256 * leNat t

/-- The `n` bytes of a number, least significant first (R6). -/
def natLe : Nat → Nat → Bytes
  | 0, _ => []
  | n + 1, v => BitVec.ofNat 8 v :: natLe n (v / 256)

/-- Bits [lo + w - 1 : lo] of a number. -/
def bitsAt (v lo w : Nat) : Nat := v / 2 ^ lo % 2 ^ w

/-- Bit `i` of a number. -/
def bitAt (v i : Nat) : Bool := v / 2 ^ i % 2 == 1

/-- The number with bits [lo + w - 1 : lo] replaced. -/
def putBits (v lo w x : Nat) : Nat := v - bitsAt v lo w * 2 ^ lo + x % 2 ^ w * 2 ^ lo

/-- The `n` bytes of a byte string from offset `off`; bytes past its end read as 0. -/
def sliceB (b : Bytes) (off n : Nat) : Bytes :=
  let s := (b.drop off).take n
  s ++ List.replicate (n - s.length) 0

/-- The unsigned little-endian field of `n` bytes at `off`. -/
def fieldU (b : Bytes) (off n : Nat) : Nat := leNat (sliceB b off n)

/-- The signed little-endian field of `n` bytes at `off`. -/
def fieldS (b : Bytes) (off n : Nat) : Int :=
  let v := fieldU b off n
  if v < 2 ^ (8 * n - 1) then v else (v : Int) - 2 ^ (8 * n)

/-- The byte string with the bytes from `off` replaced (its length stays). -/
def patchB (b : Bytes) (off : Nat) (x : Bytes) : Bytes := b.take off ++ x ++ b.drop (off + x.length)

def zeroB (n : Nat) : Bytes := List.replicate n 0

/-- One bit of the reflected CRC-32 (R177). -/
def crc32Bit (c : Nat) : Nat := if c % 2 = 1 then Nat.xor (c / 2) 0xEDB88320 else c / 2

def crc32Byte (c : Nat) (b : Byte) : Nat :=
  crc32Bit (crc32Bit (crc32Bit (crc32Bit (crc32Bit (crc32Bit (crc32Bit (crc32Bit (Nat.xor c b.toNat))))))))

/-- CRC-32 of IEEE 802.3 over bytes in ascending address order (R177). -/
def crc32 (b : Bytes) : Nat := Nat.xor (b.foldl crc32Byte 0xFFFFFFFF) 0xFFFFFFFF

/-- The value kept under a key in a list sorted by key. -/
def alGet {α : Type} : List (Nat × α) → Nat → Option α
  | [], _ => none
  | (k, v) :: t, a => if k = a then some v else if a < k then none else alGet t a

/-- The list with the key's value set, or removed where `v` is none; the order of keys is kept. -/
def alPut {α : Type} : List (Nat × α) → Nat → Option α → List (Nat × α)
  | [], _, none => []
  | [], a, some v => [(a, v)]
  | (k, x) :: t, a, v =>
    if k = a then
      match v with
      | none => t
      | some y => (k, y) :: t
    else if a < k then
      match v with
      | none => (k, x) :: t
      | some y => (a, y) :: (k, x) :: t
    else (k, x) :: alPut t a v

/-- Whether the keys rise strictly from a lower bound. -/
def alRises {α : Type} : Nat → List (Nat × α) → Bool
  | _, [] => true
  | lo, (k, _) :: t => decide (lo ≤ k) && alRises (k + 1) t

/-- Membership in a strictly rising list of numbers. -/
def nsMem : List Nat → Nat → Bool
  | [], _ => false
  | k :: t, a => if k = a then true else if a < k then false else nsMem t a

/-- A strictly rising list with a number put in or taken out. -/
def nsSet : List Nat → Nat → Bool → List Nat
  | [], _, false => []
  | [], a, true => [a]
  | k :: t, a, b =>
    if k = a then (if b then k :: t else t)
    else if a < k then (if b then a :: k :: t else k :: t)
    else k :: nsSet t a b

/-- Whether a list of numbers rises strictly from a lower bound. -/
def nsRises : Nat → List Nat → Bool
  | _, [] => true
  | lo, k :: t => decide (lo ≤ k) && nsRises (k + 1) t

/-- The numbers a to a + n - 1. -/
def span (a n : Nat) : List Nat := (List.range n).map (a + ·)

/-- ceil(a / b), and 0 for b = 0. -/
def cdiv (a b : Nat) : Nat := if b = 0 then 0 else (a + b - 1) / b

end Sys2Proof.Machine
end

