-- ==== Sys2Proof/Machine/Sha.lean ====
section
/-! DEFINITION. SHA-384 (FIPS 180-4), HMAC-SHA-384 and HKDF-SHA-384 (RFC 5869), which R325, R347, R360, R473, R476, R478, R479 and R515
name. Words are big-endian, as those standards give. -/

namespace Sys2Proof.Machine

def shaK0 : List Nat :=
  [0x428A2F98D728AE22, 0x7137449123EF65CD, 0xB5C0FBCFEC4D3B2F, 0xE9B5DBA58189DBBC,
   0x3956C25BF348B538, 0x59F111F1B605D019, 0x923F82A4AF194F9B, 0xAB1C5ED5DA6D8118,
   0xD807AA98A3030242, 0x12835B0145706FBE, 0x243185BE4EE4B28C, 0x550C7DC3D5FFB4E2,
   0x72BE5D74F27B896F, 0x80DEB1FE3B1696B1, 0x9BDC06A725C71235, 0xC19BF174CF692694,
   0xE49B69C19EF14AD2, 0xEFBE4786384F25E3, 0x0FC19DC68B8CD5B5, 0x240CA1CC77AC9C65]

def shaK1 : List Nat :=
  [0x2DE92C6F592B0275, 0x4A7484AA6EA6E483, 0x5CB0A9DCBD41FBD4, 0x76F988DA831153B5,
   0x983E5152EE66DFAB, 0xA831C66D2DB43210, 0xB00327C898FB213F, 0xBF597FC7BEEF0EE4,
   0xC6E00BF33DA88FC2, 0xD5A79147930AA725, 0x06CA6351E003826F, 0x142929670A0E6E70,
   0x27B70A8546D22FFC, 0x2E1B21385C26C926, 0x4D2C6DFC5AC42AED, 0x53380D139D95B3DF,
   0x650A73548BAF63DE, 0x766A0ABB3C77B2A8, 0x81C2C92E47EDAEE6, 0x92722C851482353B]

def shaK2 : List Nat :=
  [0xA2BFE8A14CF10364, 0xA81A664BBC423001, 0xC24B8B70D0F89791, 0xC76C51A30654BE30,
   0xD192E819D6EF5218, 0xD69906245565A910, 0xF40E35855771202A, 0x106AA07032BBD1B8,
   0x19A4C116B8D2D0C8, 0x1E376C085141AB53, 0x2748774CDF8EEB99, 0x34B0BCB5E19B48A8,
   0x391C0CB3C5C95A63, 0x4ED8AA4AE3418ACB, 0x5B9CCA4F7763E373, 0x682E6FF3D6B2B8A3,
   0x748F82EE5DEFB2FC, 0x78A5636F43172F60, 0x84C87814A1F0AB72, 0x8CC702081A6439EC]

def shaK3 : List Nat :=
  [0x90BEFFFA23631E28, 0xA4506CEBDE82BDE9, 0xBEF9A3F7B2C67915, 0xC67178F2E372532B,
   0xCA273ECEEA26619C, 0xD186B8C721C0C207, 0xEADA7DD6CDE0EB1E, 0xF57D4F7FEE6ED178,
   0x06F067AA72176FBA, 0x0A637DC5A2C898A6, 0x113F9804BEF90DAE, 0x1B710B35131C471B,
   0x28DB77F523047D84, 0x32CAAB7B40C72493, 0x3C9EBE0A15C9BEBC, 0x431D67C49C100D4C,
   0x4CC5D4BECB3E42B6, 0x597F299CFC657E2A, 0x5FCB6FAB3AD6FAEC, 0x6C44198C4A475817]

/-- Round constants. -/
def shaK : List Nat := shaK0 ++ shaK1 ++ shaK2 ++ shaK3

/-- Initial hash value of SHA-384. -/
def sha384H : List W64 :=
  [0xCBBB9D5DC1059ED8, 0x629A292A367CD507, 0x9159015A3070DD17, 0x152FECD8F70E5939,
   0x67332667FFC00B31, 0x8EB44A8768581511, 0xDB0C2E0D64F98FA7, 0x47B5481DBEFA4FA4]

def beNat (b : Bytes) : Nat := b.foldl (fun (a : Nat) x => a * 256 + x.toNat) 0

/-- The 16 words of a 128-byte block. -/
def shaWords : Nat → Bytes → List W64
  | 0, _ => []
  | n + 1, b => BitVec.ofNat 64 (beNat (b.take 8)) :: shaWords n (b.drop 8)

def shaRot (x : W64) (n : Nat) : W64 := x.rotateRight n

/-- The message schedule, newest word first: each new word from those 2, 7, 15 and 16 back. -/
def shaSched : Nat → List W64 → List W64
  | 0, w => w
  | n + 1, w =>
    let g (i : Nat) : W64 := w.getD i 0
    let s0 := shaRot (g 14) 1 ^^^ shaRot (g 14) 8 ^^^ (g 14 >>> 7)
    let s1 := shaRot (g 1) 19 ^^^ shaRot (g 1) 61 ^^^ (g 1 >>> 6)
    shaSched n ((s1 + g 6 + s0 + g 15) :: w)

structure ShaSt where
  a : W64
  b : W64
  c : W64
  d : W64
  e : W64
  f : W64
  g : W64
  h : W64
deriving DecidableEq, Repr

def shaRound (s : ShaSt) (kw : Nat × W64) : ShaSt :=
  let t1 := s.h + (shaRot s.e 14 ^^^ shaRot s.e 18 ^^^ shaRot s.e 41) + ((s.e &&& s.f) ^^^ (~~~s.e &&& s.g)) + BitVec.ofNat 64 kw.1 + kw.2
  let t2 := (shaRot s.a 28 ^^^ shaRot s.a 34 ^^^ shaRot s.a 39) + ((s.a &&& s.b) ^^^ (s.a &&& s.c) ^^^ (s.b &&& s.c))
  { a := t1 + t2, b := s.a, c := s.b, d := s.c, e := s.d + t1, f := s.e, g := s.f, h := s.g }

/-- One block folded into the hash value. -/
def shaBlock (h : List W64) (b : Bytes) : List W64 :=
  let w := (shaSched 64 (shaWords 16 b).reverse).reverse
  let g (i : Nat) : W64 := h.getD i 0
  let s0 : ShaSt := { a := g 0, b := g 1, c := g 2, d := g 3, e := g 4, f := g 5, g := g 6, h := g 7 }
  let s := (shaK.zip w).foldl shaRound s0
  [g 0 + s.a, g 1 + s.b, g 2 + s.c, g 3 + s.d, g 4 + s.e, g 5 + s.f, g 6 + s.g, g 7 + s.h]

def shaBlocks : Nat → List W64 → Bytes → List W64
  | 0, h, _ => h
  | n + 1, h, b => shaBlocks n (shaBlock h (b.take 128)) (b.drop 128)

/-- The `n` bytes of a number, most significant first. -/
def natBe (n v : Nat) : Bytes := (natLe n v).reverse

/-- SHA-384 of a byte string: 48 bytes. -/
def sha384 (m : Bytes) : Bytes :=
  let z := (128 + 112 - (m.length + 1) % 128) % 128
  let p := m ++ [0x80] ++ zeroB z ++ natBe 16 (8 * m.length)
  ((shaBlocks (p.length / 128) sha384H p).take 6).flatMap (fun (w : W64) => natBe 8 w.toNat)

/-- HMAC-SHA-384. -/
def hmac384 (key m : Bytes) : Bytes :=
  let k0 := if 128 < key.length then sha384 key else key
  let k := sliceB k0 0 128
  sha384 (k.map (fun (x : Byte) => x ^^^ 0x5C) ++ sha384 (k.map (fun (x : Byte) => x ^^^ 0x36) ++ m))

/-- HKDF-Expand (RFC 5869) for at most 48 bytes. -/
def hkdfExpand (prk info : Bytes) (n : Nat) : Bytes := (hmac384 prk (info ++ [1])).take n

/-- Characters of a network request as octets. -/
def ascii (x : String) : Bytes := x.toList.map (fun c => BitVec.ofNat 8 c.toNat)

/-- A key derived from the identity seed (R466): HKDF-SHA-384 with the label as info: "KY7 IDK-E", "KY7 IDK-H", "KY7 RPMC" or "KY7 STATE".
Its length, 48 bytes, is the model's choice (log
entry 57). -/
def seedKey (label : String) : Bytes := hkdfExpand (hmac384 (zeroB 48) ((List.range 48).map Config.seedByte)) (ascii label) 48

/-- An owner record as the flash holds it (R476): its first 2,224 bytes, then their HMAC under K_state. -/
def ownerRecord (r : Bytes) : Bytes := r ++ hmac384 (seedKey "KY7 STATE") r

end Sys2Proof.Machine
end

