-- ==== Sys2Proof/Machine/Aes.lean ====
section
/-! DEFINITION. AES-256-GCM with a 96-bit nonce (FIPS 197, SP 800-38D), under which dumps of a bound partition are delivered (R515). -/

namespace Sys2Proof.Machine

/-- Multiplication in the field of AES, by the bits of the second factor. -/
def gfMul (a b : Byte) : Byte :=
  ((List.range 8).foldl (fun (r : Byte × Byte) i =>
    (if b.getLsbD i then r.1 ^^^ r.2 else r.1, (r.2 <<< 1) ^^^ (if r.2.getLsbD 7 then 0x1B else 0))) (0, a)).1

/-- The inverse a^254, with 0 for 0. -/
def gfInv (a : Byte) : Byte :=
  let a2 := gfMul a a
  let a4 := gfMul a2 a2
  let a8 := gfMul a4 a4
  let a16 := gfMul a8 a8
  let a32 := gfMul a16 a16
  let a64 := gfMul a32 a32
  let a128 := gfMul a64 a64
  gfMul a2 (gfMul a4 (gfMul a8 (gfMul a16 (gfMul a32 (gfMul a64 a128)))))

/-- The S-box. -/
def aesSub (a : Byte) : Byte :=
  let b := gfInv a
  b ^^^ b.rotateLeft 1 ^^^ b.rotateLeft 2 ^^^ b.rotateLeft 3 ^^^ b.rotateLeft 4 ^^^ 0x63

def xorB (a b : Bytes) : Bytes := (a.zip b).map (fun x => x.1 ^^^ x.2)

/-- One word of the key schedule of AES-256: word i from words i - 8 and i - 1. -/
def aesWord (i : Nat) (old prev : Bytes) : Bytes :=
  let rc : Byte := 1#8 <<< (i / 8 - 1)
  let g : Bytes :=
    if i % 8 = 0 then xorB ((prev.drop 1 ++ prev.take 1).map aesSub) [rc, 0, 0, 0]
    else if i % 8 = 4 then prev.map aesSub else prev
  xorB old g

/-- The 60 words of the schedule, of 4 bytes each. -/
def aesSchedule (key : Bytes) : List Bytes :=
  let w0 := (List.range 8).map (fun i => sliceB key (4 * i) 4)
  (List.range 52).foldl (fun (w : List Bytes) j => w ++ [aesWord (j + 8) (w.getD j []) (w.getD (j + 7) [])]) w0

def roundKey (w : List Bytes) (r : Nat) : Bytes := (List.range 4).flatMap (fun i => w.getD (4 * r + i) [])

/-- SubBytes and ShiftRows of a state in column order. -/
def subShift (s : Bytes) : Bytes := (List.range 16).map (fun i => aesSub (s.getD ((i + 4 * (i % 4)) % 16) 0))

def mixColumn (c : Bytes) : Bytes :=
  (List.range 4).map (fun i =>
    gfMul 2 (c.getD i 0) ^^^ gfMul 3 (c.getD ((i + 1) % 4) 0) ^^^ c.getD ((i + 2) % 4) 0 ^^^ c.getD ((i + 3) % 4) 0)

def mixColumns (s : Bytes) : Bytes := (List.range 4).flatMap (fun i => mixColumn (sliceB s (4 * i) 4))

/-- One block enciphered under a schedule. -/
def aesBlock (w : List Bytes) (b : Bytes) : Bytes :=
  let s := (List.range 13).foldl (fun (s : Bytes) r => xorB (mixColumns (subShift s)) (roundKey w (r + 1))) (xorB b (roundKey w 0))
  xorB (subShift s) (roundKey w 14)

/-- A block of 16 bytes as a number whose first bit is the most significant. -/
def blockNat (b : Bytes) : Nat := (sliceB b 0 16).foldl (fun (a : Nat) x => a * 256 + x.toNat) 0

/-- Multiplication in the field of GCM. -/
def ghashMul (x y : Nat) : Nat :=
  ((List.range 128).foldl (fun (r : Nat × Nat) i =>
    (if bitAt x (127 - i) then r.1 ^^^ r.2 else r.1, if bitAt r.2 0 then (r.2 / 2) ^^^ (0xE1 * 2 ^ 120) else r.2 / 2)) (0, y)).1

/-- GHASH over whole blocks. -/
def ghash (h : Nat) (b : Bytes) : Nat :=
  (List.range (b.length / 16)).foldl (fun (y : Nat) i => ghashMul (y ^^^ blockNat (sliceB b (16 * i) 16)) h) 0

def padBlock (b : Bytes) : Bytes := b ++ zeroB ((16 - b.length % 16) % 16)

/-- Ciphertext and tag. -/
def gcmEncrypt (key nonce aad plain : Bytes) : Bytes × Bytes :=
  let w := aesSchedule key
  let ctr (i : Nat) : Bytes := aesBlock w (nonce ++ natBe 4 i)
  let ks := (List.range ((plain.length + 15) / 16)).flatMap (fun i => ctr (i + 2))
  let c := xorB plain (ks.take plain.length)
  let h := blockNat (aesBlock w (zeroB 16))
  let y := ghash h (padBlock aad ++ padBlock c ++ natBe 8 (8 * aad.length) ++ natBe 8 (8 * c.length))
  (c, xorB (natBe 16 y) (ctr 1))

end Sys2Proof.Machine
end

