-- ==== Sys2Proof/Machine/Store.lean ====
section
/-! DEFINITION. On-die SRAM as data: the bytes that are not zero, in rising order of address, and the poisoned units. A unit is a
32-byte granule (R248), or a 4-byte unit in an accumulator bank, two of which make a compensated element (R77, R78). -/

namespace Sys2Proof.Machine

/-- The contents of one SRAM: what is not listed reads as zero (R443) without poison. -/
structure Sram where
  cells  : List Host.Cell
  poison : List Nat
deriving DecidableEq, Repr

/-- An SRAM as power-up leaves it (R443). -/
def Sram.empty : Sram := { cells := [], poison := [] }

/-- The canonical form: addresses strictly rising, no byte zero, poisoned units strictly rising. -/
def Sram.wf (s : Sram) : Bool := alRises 0 s.cells && s.cells.all (fun c => c.2 != 0) && nsRises 0 s.poison

/-- One byte. -/
def Sram.get (s : Sram) (a : Nat) : Byte := (alGet s.cells a).getD 0

/-- Writes one byte. -/
def Sram.put (s : Sram) (a : Nat) (b : Byte) : Sram :=
  { s with cells := alPut s.cells a (if b = 0 then none else some b) }

/-- Sets or clears the flag of one unit. -/
def Sram.mark (s : Sram) (u : Nat) (p : Bool) : Sram := { s with poison := nsSet s.poison u p }

/-- `n` bytes from `a`. -/
def Sram.read (s : Sram) (a n : Nat) : Bytes := (span a n).map s.get

/-- The units of `g` bytes that `n` bytes from `a` touch. -/
def unitsOf (g a n : Nat) : List Nat := if n = 0 then [] else span (a / g) ((a + n - 1) / g - a / g + 1)

/-- Whether any unit that `n` bytes from `a` touch is poisoned. -/
def Sram.poisoned (s : Sram) (g a n : Nat) : Bool := (unitsOf g a n).any (nsMem s.poison)

/-- One byte that an engine or a requester writes, with the poison it carries (R240). -/
structure WByte where
  addr : Nat
  byte : Byte
  poi  : Bool
deriving DecidableEq, Repr

/-- The writes of one access gathered by address, a later byte over an earlier one. -/
def gather (ws : List WByte) : List (Nat × Byte × Bool) :=
  ws.foldl (fun l w => alPut l w.addr (some (w.byte, w.poi))) []

/-- The flag of one unit after an access: a unit written whole takes the poison of what was written; a unit written in part keeps
its flag as well (R239, R240). -/
def unitFlag (g u : Nat) (old : Bool) (ws : List (Nat × Byte × Bool)) : Bool :=
  let mine := ws.filter (fun w => w.1 / g == u)
  let p := mine.any (fun w => w.2.2)
  if mine.length = g then p else old || p

/-- The units that a list of writes touches, rising. -/
def unitsTouched (g : Nat) (ws : List (Nat × Byte × Bool)) : List Nat :=
  ws.foldl (fun l w => nsSet l (w.1 / g) true) []

/-- Carries out the writes of one access: every byte, then the flag of every unit touched. -/
def Sram.commit (s : Sram) (g : Nat) (ws : List WByte) : Sram :=
  let l := gather ws
  let s1 := l.foldl (fun (t : Sram) w => t.put w.1 w.2.1) s
  (unitsTouched g l).foldl (fun (t : Sram) u => t.mark u (unitFlag g u (nsMem s.poison u) l)) s1

/-- The 4-byte units of the accumulator element that holds byte `a` of a bank: two where its block is compensated (R77, R78). -/
def elemUnits (wide : Nat → Bool) (a : Nat) : List Nat := if wide (a / 16384) then [a / 8 * 2, a / 8 * 2 + 1] else [a / 4]

/-- Carries out the writes of one access to an accumulator bank: every element written, wholly or in part, takes the poison of what was
written, and none of the flag it had (R77). `wide` tells the blocks whose elements are compensated pairs. -/
def Sram.commitBank (s : Sram) (wide : Nat → Bool) (ws : List WByte) : Sram :=
  let l := gather ws
  let s1 := l.foldl (fun (t : Sram) w => t.put w.1 w.2.1) s
  let us (bad : Bool) : List Nat := ((l.filter (fun w => w.2.2 == bad)).map (fun w => elemUnits wide w.1)).flatten
  (us true).foldl (fun (t : Sram) u => t.mark u true) ((us false).foldl (fun (t : Sram) u => t.mark u false) s1)

/-- Writes of a byte string at `a`, all with one poison. -/
def wbytes (a : Nat) (b : Bytes) (p : Bool) : List WByte :=
  b.zipIdx.map (fun (x : Byte × Nat) => { addr := a + x.2, byte := x.1, poi := p })

/-- Writes a byte string. -/
def Sram.write (s : Sram) (g a : Nat) (b : Bytes) (p : Bool) : Sram := s.commit g (wbytes a b p)

end Sys2Proof.Machine
end

