-- ==== Sys2Proof/Machine/MemState.lean ====
section
/-! DEFINITION. The state of main memory (chapter 9 of the manual): controller groups, channels, parity groups, owner ranges, and
the stored bytes. -/

namespace Sys2Proof.Machine

/-- One LPDDR6 channel (R243, R259). STATE: 0 OFF, 1 ACTIVE, 2 RETRAIN, 3 FAILED, 4 REBUILD. -/
structure Chan where
  state   : BitVec 4
  owner   : BitVec 4
  parity  : Bool
  ceCount : BitVec 16
  /-- Moments (ns) of uncorrectable granules within the last 1 ms, newest first (R243). -/
  ueAt    : List Nat
deriving DecidableEq, Repr

/-- One parity group (R242 to R244, R260). -/
structure Pgrp where
  enabled  : Bool
  state    : BitVec 2
  failed   : BitVec 4
  /-- The moment (ns) at which REBUILD began: PROGRESS runs from it (R244). -/
  since    : Nat
  /-- Training retries made since the failure, and the moment of the failure or of the last of them (R244). -/
  retries  : Nat
  retryAt  : Nat
  /-- Channel indices that have failed while the group is LOST (R243). -/
  lostSet  : List Nat
deriving DecidableEq, Repr

/-- A MEM_SCRUB self-test under way (R391): the ticket, or the management request, that it answers; its result; and how many granules its
scrub pass has still to read. -/
structure ScrubTest where
  slot   : Fin 8
  ticket : Option Nat
  mgmt   : Option MgmtReq
  result : Nat
  left   : Nat
deriving DecidableEq, Repr

/-- One memory-controller group (R254 to R260). -/
structure Mg where
  trained   : Bool
  failed    : Bool
  rate      : BitVec 2
  /-- The next granule of the scrub pass (R241): 24 times its channel offset in granules, plus the channel's index in the group. -/
  scrubAt   : Nat
  rebuild   : Bool
  scrubEn   : Bool
  /-- MEM_ERR: HB_FAIL, TRAIN_FB, PGRP_LOST, CHAN_FAIL, UE, CE in bits 5 to 0 (R257). -/
  err       : BitVec 6
  ce        : W64
  ue        : W64
  ueChan    : BitVec 8
  ueOwner   : BitVec 4
  ueOff     : BitVec 35
  chans     : Vector Chan 24
  pgrps     : Vector Pgrp 2
  /-- MEM_SCRUB self-tests under way (R391). -/
  tests     : List ScrubTest
deriving DecidableEq, Repr

/-- The keys of an owner range (R246): the number of the installation, and the two keys of AES-256-XTS. -/
structure MemKey where
  num   : Nat
  data  : List Byte
  tweak : List Byte
deriving DecidableEq, Repr

/-- An owner range (R235): base, data channels in ascending order, and the keys in force, or none once they are zeroised (R246, R247). -/
structure Owner where
  base  : Nat
  chans : List Nat
  key   : Option MemKey
deriving DecidableEq, Repr

/-- Main memory: controller groups, the nine possible owners (0 to 7 partitions, 8 host), the bytes written since their owner's
keys were installed, by device physical address, and the poisoned granules. The bits stored in the channels and the content of the parity
channels follow from these (`storedGranule`, `parityGranule`). The last field counts the corrected errors of each on-die store (R248). -/
structure Mem where
  mgs    : Vector Mg 8
  owners : Vector (Option Owner) 9
  cells  : List Host.Cell
  poison : List Nat
  sramCe : Vector Nat 258
deriving DecidableEq, Repr

/-- PROGRESS (R244, R260): at 4 GB/s a unit of 256 bytes takes 64 ns; the last unit stays next until the rebuild ends (log entry 22). -/
def Pgrp.progress (x : Pgrp) (now : Nat) : Nat := if x.state = 2 then min ((now - x.since) / 64) (2 ^ 26 - 1) else 0

/-- Granules of a channel (R232), and of a scrub pass over the 24 channels of a group (R241). -/
def chanGranules : Nat := 2 ^ 34 / 32
def passGranules : Nat := 24 * chanGranules

def Chan.reset : Chan := { state := 0, owner := 15, parity := false, ceCount := 0, ueAt := [] }

def Pgrp.reset : Pgrp := { enabled := false, state := 0, failed := 0, since := 0, retries := 0, retryAt := 0, lostSet := [] }

/-- A group when MG_g powers up (R254 to R260). -/
def Mg.reset : Mg :=
  { trained := false, failed := false, rate := 0, scrubAt := 0, rebuild := true, scrubEn := true, err := 0, ce := 0,
    ue := 0, ueChan := 0, ueOwner := 0, ueOff := 0, chans := Vector.replicate 24 Chan.reset, pgrps := Vector.replicate 2 Pgrp.reset,
    tests := [] }

def Mem.reset : Mem :=
  { mgs := Vector.replicate 8 Mg.reset, owners := Vector.replicate 9 none, cells := [], poison := [], sramCe := Vector.replicate 258 0 }

/-- The canonical form of main memory: addresses strictly rising, poisoned granules strictly rising. An unlisted byte reads a
free value, so no listed byte can equal it by rule. -/
def Mem.wf (m : Mem) : Bool := alRises 0 m.cells && nsRises 0 m.poison

end Sys2Proof.Machine
end

