-- ==== Sys2Proof/Machine/BootState.lean ====
section
/-! DEFINITION. The state of start-up, of the management port and of the scheduler core's own records (chapters 12 and 14). -/

namespace Sys2Proof.Machine

/-- The state in which a released hart starts (R331). -/
structure Hart where
  pc      : Nat
  a0      : Nat
  a1      : Nat
  machine : Bool
deriving DecidableEq, Repr

/-- Start-up (R318 to R331, R339 to R344). -/
structure Boot where
  pgood    : Bool
  resetN   : Bool
  stage    : BitVec 4
  fail     : BitVec 8
  cool     : BitVec 2
  attempt  : BitVec 8
  running  : BitVec 16
  /-- DHCP repetitions made without a DHCPACK, and the moment of the latest DHCPDISCOVER (R323). -/
  discover : Nat
  askedAt  : Nat
  lease    : Option (BitVec 32 × BitVec 32 × Bytes)
  /-- Block size of the transfer (0 before its first block), next block number, bytes received (R324). -/
  blk      : Nat
  next     : Nat
  got      : Nat
  ackAt    : Nat
  resends  : Nat
  /-- The moment at which a failed fetch or a rejected bundle is tried again (R340). -/
  retryAt  : Option Nat
  /-- Fetches failed in a row (R339). -/
  failed   : Nat
  /-- SVN of the bundle that runs, and its HOST_MEM section (R326). -/
  svn      : W32
  hostMem  : Bytes
  /-- Sections 0x01 and 0x02 as the security and power-management cores run them (R326), in the working memory of the control SRAM, whose
  layout is the firmware's (R321, log entry 53). -/
  secCode  : Bytes
  pmcCode  : Bytes
  /-- LOAD of the application loader, and how each released hart started there (R331). -/
  load     : Nat
  harts    : Vector (Option Hart) 16
  /-- The DHCP lease expired during a fetch: DHCP follows it (R341). -/
  expired  : Bool
deriving DecidableEq, Repr

/-- A descriptor ring that the host endpoint has latched: base and number of descriptors (R336). -/
structure Ring where
  base : Nat
  n    : Nat
deriving DecidableEq, Repr

/-- The management port (R335, R336, R341, R471). -/
structure Net where
  link    : Bool
  rx      : Option Ring
  tx      : Option Ring
  rxHead  : W64
  txHead  : W64
  rxDrops : W64
  /-- Tails as last sampled (R336). -/
  rxTail  : W64
  txTail  : W64
  /-- A transmit frame is on its way out (R336). -/
  sending : Bool
  /-- Datagrams answered within the last second, with their responses (R471). -/
  cache   : List (BitVec 48 × Bytes × Nat × Bytes)
deriving DecidableEq, Repr

/-- A cached management reply (R383). -/
structure MReply where
  session : Nat
  reqId   : Nat
  bytes   : Bytes
deriving DecidableEq, Repr

/-- A LOAD that has been read and waits (R351, R359, R363): its slot and ticket, the bytes read, the verdicts on its signatures, the
moment since which a level-1 alarm holds it, and whether it is a full load. A full load has its resources and keys already. -/
structure LoadJob where
  slot     : Fin 8
  num      : Nat
  image    : Bytes
  verdict  : SigVerdict
  full     : Bool
  waitFrom : Option Nat
  /-- Poisoned granules of the image as read (R240). -/
  poison   : List Nat
  /-- Controller groups that this load has powered, and the owner ranges that stood before it (R356). -/
  powered  : List (Fin 8)
  before   : List (Fin 9 × Option Owner)
deriving DecidableEq, Repr

/-- The image of a load with its poison. -/
def LoadJob.marked (j : LoadJob) : Marked := { bytes := j.image, poison := j.poison }

/-- The scheduler core and firmware (R381 to R398). -/
structure Sched where
  failed    : Bool
  sampling  : Bool
  wdogSch   : BitVec 8
  wdogCl    : BitVec 8
  restarts  : W64
  clfail    : W64
  /-- Moments of the scheduler core's restarts within the last second, and their count (R385, R386); the moment of the latest one, which
  lasts 200 µs. -/
  schAt     : List Nat
  schCount  : Nat
  restartAt : Option Nat
  /-- Trace-point masks of the security, power-management and scheduler cores (R387). -/
  masks     : Vector (BitVec 256) 3
  /-- Staged update: TOTAL of FW_BEGIN, and whether it has been committed (R388). -/
  fwTotal   : Option Nat
  fwCommit  : Bool
  /-- Committed sections not yet activated: the scheduler firmware, and the clusters whose cores await new code (R389). -/
  pendSch   : Bool
  pendCl    : List (Fin 64)
  /-- The replies kept, the newest first, and how many have been kept in all: each takes the next entry of the reserve (R376, R383). -/
  cache     : List MReply
  replies   : Nat
  /-- Highest REQ_ID per session (R383). -/
  highest   : List (Nat × Nat)
  job       : Option LoadJob
  /-- The code that the scheduler core runs: the resident copy as it was loaded (R321, R326, R385). -/
  code      : List Host.Cell
  /-- Tickets accepted so far, over all ledgers (R351). -/
  accepted  : Nat
deriving DecidableEq, Repr

/-- Start-up when a cold reset begins (R343, R344): PGOOD and RESET_N are high. -/
def Boot.reset : Boot :=
  { pgood := true, resetN := true, stage := 0, fail := 0, cool := 0, attempt := 0, running := 0, discover := 0, askedAt := 0, lease := none,
    blk := 0, next := 0, got := 0, ackAt := 0, resends := 0, retryAt := none, failed := 0, svn := 0, hostMem := [],
    secCode := [], pmcCode := [], load := 0, harts := Vector.replicate 16 none, expired := false }

def Net.reset : Net :=
  { link := false, rx := none, tx := none, rxHead := 0, txHead := 0, rxDrops := 0, rxTail := 0, txTail := 0, sending := false, cache := [] }

/-- SCH_ registers after a cold reset (R397, R398). -/
def Sched.reset : Sched :=
  { failed := false, sampling := true, wdogSch := 0x32, wdogCl := 0x0A, restarts := 0, clfail := 0, schAt := [], schCount := 0,
    restartAt := none,
    masks := Vector.replicate 3 0,
    fwTotal := none, fwCommit := false, pendSch := false, pendCl := [], cache := [], replies := 0, highest := [], job := none, code := [], accepted := 0 }

end Sys2Proof.Machine
end

