-- ==== Sys2Proof/Machine/Num.lean ====
section
/-! DEFINITION. Number formats (chapter 2 of the manual): format codes, decoding, the two rounding functions, batts, TT8, INT8 with
row scale and FP32P. Codes are held as natural numbers; every definition reduces in the kernel. -/

namespace Sys2Proof.Machine

/-- The formats of R32. -/
inductive Fmt where
  | fp32 | bf16 | fp16 | e4m3 | e5m2 | e2m3 | e3m2 | e2m1 | mxint8 | int8row | tt8 | fp32p | int32 | int16 | e8m0 | sidecar
deriving DecidableEq, Repr

/-- The format of a code; none for a reserved code (R32, R33). -/
def fmtOfCode : Nat → Option Fmt
  | 0x00 => some .fp32
  | 0x01 => some .bf16
  | 0x02 => some .fp16
  | 0x03 => some .e4m3
  | 0x04 => some .e5m2
  | 0x05 => some .e2m3
  | 0x06 => some .e3m2
  | 0x07 => some .e2m1
  | 0x08 => some .mxint8
  | 0x09 => some .int8row
  | 0x0A => some .tt8
  | 0x0B => some .fp32p
  | 0x0C => some .int32
  | 0x0D => some .int16
  | 0x10 => some .e8m0
  | 0x11 => some .sidecar
  | _ => none

/-- Bits of one element (R32). -/
def fmtBits : Fmt → Nat
  | .fp32 => 32
  | .bf16 => 16
  | .fp16 => 16
  | .e4m3 => 8
  | .e5m2 => 8
  | .e2m3 => 6
  | .e3m2 => 6
  | .e2m1 => 4
  | .mxint8 => 8
  | .int8row => 8
  | .tt8 => 8
  | .fp32p => 64
  | .int32 => 32
  | .int16 => 16
  | .e8m0 => 8
  | .sidecar => 32

/-- Formats whose elements share a batt scale: the block-scaled formats and TT8 (R40). -/
def fmtBlock : Fmt → Bool
  | .e4m3 | .e5m2 | .e2m3 | .e3m2 | .e2m1 | .mxint8 | .tt8 => true
  | _ => false

/-- Formats that may be peeled (R52). -/
def fmtPeels : Fmt → Bool
  | .e4m3 | .e5m2 | .e2m3 | .e3m2 | .e2m1 | .mxint8 => true
  | _ => false

/-- Plank operand formats; TT8 as weight only (R32). -/
def fmtPlank : Fmt → Bool
  | .fp32 | .bf16 | .fp16 | .e4m3 | .e5m2 | .e2m3 | .e3m2 | .e2m1 | .mxint8 | .int8row | .tt8 => true
  | _ => false

/-- Formats that an output-shaper result may take (R32). -/
def fmtShaper : Fmt → Bool
  | .fp32 | .bf16 | .fp16 | .e4m3 | .e5m2 | .e2m3 | .e3m2 | .e2m1 | .mxint8 | .int8row | .fp32p | .int32 | .int16 => true
  | _ => false

/-- Bytes of 32 consecutive elements (R44). -/
def battBytes (f : Fmt) : Nat := fmtBits f * 4

/-- The constants of a floating-point format (R37). -/
structure FpK where
  ebits   : Nat
  mbits   : Nat
  bias    : Int
  emax    : Int
  maxfrac : Nat
deriving DecidableEq, Repr

def fpFP32 : FpK := { ebits := 8, mbits := 23, bias := 127, emax := 127, maxfrac := 0x7FFFFF }
def fpBF16 : FpK := { ebits := 8, mbits := 7, bias := 127, emax := 127, maxfrac := 0x7F }
def fpFP16 : FpK := { ebits := 5, mbits := 10, bias := 15, emax := 15, maxfrac := 0x3FF }
def fpE4M3 : FpK := { ebits := 4, mbits := 3, bias := 7, emax := 8, maxfrac := 6 }
def fpE5M2 : FpK := { ebits := 5, mbits := 2, bias := 15, emax := 15, maxfrac := 3 }
def fpE2M3 : FpK := { ebits := 2, mbits := 3, bias := 1, emax := 2, maxfrac := 7 }
def fpE3M2 : FpK := { ebits := 3, mbits := 2, bias := 3, emax := 4, maxfrac := 3 }
def fpE2M1 : FpK := { ebits := 2, mbits := 1, bias := 1, emax := 2, maxfrac := 1 }

/-- The constants of the floating-point formats; none for the others. -/
def fpOf : Fmt → Option FpK
  | .fp32 => some fpFP32
  | .bf16 => some fpBF16
  | .fp16 => some fpFP16
  | .e4m3 => some fpE4M3
  | .e5m2 => some fpE5M2
  | .e2m3 => some fpE2M3
  | .e3m2 => some fpE3M2
  | .e2m1 => some fpE2M1
  | _ => none

/-- The code of a format's largest finite magnitude (R37). -/
def maxFiniteCode (K : FpK) : Nat := (K.emax + K.bias).toNat * 2 ^ K.mbits + K.maxfrac

/-- A value as the units decode it: NaN, or a sign and sig * 2^e, exact. Zero keeps its sign (R34). -/
inductive Num where
  | nan
  | fin (neg : Bool) (sig : Nat) (e : Int)
deriving DecidableEq, Repr

/-- The zero of sign plus. -/
def Num.zero : Num := .fin false 0 0

def Num.isNan : Num → Bool
  | .nan => true
  | .fin _ _ _ => false

def Num.isZero : Num → Bool
  | .nan => false
  | .fin _ g _ => g == 0

/-- How a result is rounded: to nearest with ties to even, or stochastically with 16 random bits (R37). -/
inductive RMode where
  | rne
  | sr (r16 : Nat)
deriving DecidableEq, Repr

/-- Compares the low `sh` bits of `sig` with half of 2^sh (R37). -/
def cmpHalf (sig sh : Nat) : Ordering := compare (sig % 2 ^ sh * 2) (2 ^ sh)

/-- The 16 bits just below the last kept place (R37). -/
def top16 (sig sh : Nat) : Nat := sig % 2 ^ sh * 2 ^ 16 / 2 ^ sh

/-- `sig` with its low `sh` bits rounded away (R37, R38). -/
def roundShift (sig sh : Nat) (mode : RMode) : Nat :=
  let kept := sig / 2 ^ sh
  let up := match mode with
    | .rne => match cmpHalf sig sh with
      | .gt => true
      | .eq => kept % 2 == 1
      | .lt => false
    | .sr r => decide (top16 sig sh + r % 0x10000 ≥ 0x10000)
  if up then kept + 1 else kept

/-- Position of the highest set bit plus the weight: floor of the binary logarithm (R39). -/
def fexp (sig : Nat) (e : Int) : Int := Int.ofNat sig.log2 + e

/-- round_fp of R37: the code and whether the result saturated. -/
def roundFp (neg : Bool) (sig : Nat) (e : Int) (K : FpK) (mode : RMode) : Nat × Bool :=
  let sbit := if neg then 2 ^ (K.ebits + K.mbits) else 0
  if sig = 0 then (sbit, false) else
  let emin := 1 - K.bias
  let q0 := max (fexp sig e) emin - K.mbits
  let kept0 := if q0 ≤ e then sig * 2 ^ (e - q0).toNat else roundShift sig (q0 - e).toNat mode
  let carry := kept0 == 2 ^ (K.mbits + 1)
  let kept := if carry then kept0 / 2 else kept0
  let q := if carry then q0 + 1 else q0
  let E := q + K.mbits
  let sub := decide (kept < 2 ^ K.mbits)
  let bexp := if sub then 0 else (E + K.bias).toNat
  let frac := if sub then kept else kept - 2 ^ K.mbits
  if E > K.emax ∨ (E = K.emax ∧ frac > K.maxfrac)
  then (sbit + maxFiniteCode K, true)
  else (sbit + bexp * 2 ^ K.mbits + frac, false)

/-- round_int of R38: the integer and whether it saturated. -/
def roundInt (neg : Bool) (sig : Nat) (e : Int) (lim : Nat) (mode : RMode) : Int × Bool :=
  if sig = 0 then (0, false) else
  if fexp sig e ≥ 62 then (if neg then -(lim : Int) else lim, true) else
  let kept := if e ≥ 0 then sig * 2 ^ e.toNat else roundShift sig (-e).toNat mode
  let k := min kept lim
  (if neg then -(k : Int) else k, decide (kept > lim))

/-- Decode of a floating-point code: the value, and true where an infinity was replaced by the largest finite value, which
counts as one saturation (R34, R35, R40). E4M3 has one NaN code and no infinity; E2M3, E3M2 and E2M1 have neither. -/
def decodeFp (f : Fmt) (K : FpK) (code : Nat) : Num × Bool :=
  let frac := code % 2 ^ K.mbits
  let bexp := code / 2 ^ K.mbits % 2 ^ K.ebits
  let neg := code / 2 ^ (K.mbits + K.ebits) % 2 == 1
  let top := bexp == 2 ^ K.ebits - 1
  let plain : Num := if bexp = 0 then .fin neg frac (1 - K.bias - K.mbits)
    else .fin neg (2 ^ K.mbits + frac) (bexp - K.bias - K.mbits)
  match f with
  | .e4m3 => if top && frac == 7 then (.nan, false) else (plain, false)
  | .e2m3 | .e3m2 | .e2m1 => (plain, false)
  | _ =>
    if top then
      if frac = 0 then (.fin neg (2 ^ K.mbits + K.maxfrac) (K.emax - K.mbits), true) else (.nan, false)
    else (plain, false)

/-- Two's complement value of the low `w` bits (R38, R56). -/
def signed (w : Nat) (code : Nat) : Int :=
  let c := code % 2 ^ w
  if c < 2 ^ (w - 1) then c else (c : Int) - 2 ^ w

/-- The low `w` bits of an integer. -/
def unsigned (w : Nat) (i : Int) : Nat := (i % 2 ^ w).toNat

def numOfInt (i : Int) (e : Int) : Num := .fin (decide (i < 0)) i.natAbs e

/-- Value of a TT8 code relative to its batt scale (R53), as an integer in units of 2^-12. -/
def tt8Units (code : Nat) : Int :=
  let S := code / 128 % 2
  let A := code / 16 % 8
  let T := code / 8 % 2
  let D := code % 8
  if A = 0 then 0 else
  let a := A + 7
  let hi : Int := 2 ^ a
  let v : Int := if D = 7 then hi else
    let lo : Int := 2 ^ (a - 1 - D)
    if T = 1 then hi - lo else hi + lo
  if S = 1 then -v else v

/-- Decode of one element code without its batt or row scale (R40, R53, R55, R56). -/
def decodeElem (f : Fmt) (code : Nat) : Num × Bool :=
  match f with
  | .mxint8 => (numOfInt (signed 8 code) (-6), false)
  | .int8row => (numOfInt (signed 8 code) 0, false)
  | .tt8 => (numOfInt (tt8Units code) (-12), false)
  | .int32 => (numOfInt (signed 32 code) 0, false)
  | .int16 => (numOfInt (signed 16 code) 0, false)
  | .e8m0 => (numOfInt (code % 256) 0, false)
  | .sidecar => (numOfInt (code % 2 ^ 32) 0, false)
  | .fp32p => (.nan, false)
  | .fp32 => decodeFp .fp32 fpFP32 code
  | .bf16 => decodeFp .bf16 fpBF16 code
  | .fp16 => decodeFp .fp16 fpFP16 code
  | .e4m3 => decodeFp .e4m3 fpE4M3 code
  | .e5m2 => decodeFp .e5m2 fpE5M2 code
  | .e2m3 => decodeFp .e2m3 fpE2M3 code
  | .e3m2 => decodeFp .e3m2 fpE3M2 code
  | .e2m1 => decodeFp .e2m1 fpE2M1 code

/-- A value times 2^k. -/
def Num.scale (k : Int) : Num → Num
  | .nan => .nan
  | .fin n g e => .fin n g (e + k)

/-- Decode of an element of a batt with E8M0 scale code S (R41, R50). A scale of 0xFF makes every element NaN; a TT8 or
MXINT8 zero carries no sign. -/
def decodeScaled (f : Fmt) (S : Nat) (code : Nat) : Num × Bool :=
  if S % 256 = 0xFF then (.nan, false) else
  let d := decodeElem f code
  (d.1.scale ((S % 256 : Nat) - 127 : Int), d.2)

/-- The canonical NaN codes (R36); 0 for the formats without a NaN. -/
def canonicalNan : Fmt → Nat
  | .fp32 => 0x7FC00000
  | .bf16 => 0x7FC0
  | .fp16 => 0x7E00
  | .e4m3 => 0x7F
  | .e5m2 => 0x7E
  | _ => 0

/-- An exact sum of dyadic numbers: m * 2^e. -/
structure Dy where
  m : Int
  e : Int
deriving DecidableEq, Repr

/-- Exact sum. -/
def Dy.add (a b : Dy) : Dy :=
  if a.e ≤ b.e then { m := a.m + b.m * 2 ^ (b.e - a.e).toNat, e := a.e }
  else { m := a.m * 2 ^ (a.e - b.e).toNat + b.m, e := b.e }

/-- Exact product. -/
def Dy.mul (a b : Dy) : Dy := { m := a.m * b.m, e := a.e + b.e }

def Dy.neg (a : Dy) : Dy := { m := -a.m, e := a.e }

/-- The exact value of a finite number; a NaN has none and reads as 0 (its users test for NaN first). -/
def Num.toDy : Num → Dy
  | .nan => { m := 0, e := 0 }
  | .fin n g e => { m := if n then -(g : Int) else g, e := e }

/-- A dyadic number as a value; a zero takes the sign given. -/
def Dy.toNum (a : Dy) (zeroNeg : Bool) : Num :=
  if a.m = 0 then .fin zeroNeg 0 0 else .fin (decide (a.m < 0)) a.m.natAbs a.e

/-- Comparison of two dyadic numbers. -/
def Dy.cmp (a b : Dy) : Ordering := compare (a.add b.neg).m 0

/-- Codes of a rounding of a value into a scalar floating-point format, with the saturation flag and whether it is a NaN
(R36, R37). -/
def roundTo (f : Fmt) (K : FpK) (x : Num) (mode : RMode) : Nat × Bool :=
  match x with
  | .nan => (canonicalNan f, false)
  | .fin n g e => roundFp n g e K mode

/-- Round to FP32 in RNE mode. -/
def toFp32 (x : Num) : Nat × Bool := roundTo .fp32 fpFP32 x .rne

/-- Counts that a quantiser or a converter reports (R62). -/
structure Counts where
  sat     : Nat := 0
  nan     : Nat := 0
  empty   : Nat := 0
  crushed : Nat := 0
  peeled  : Nat := 0
  poison  : Nat := 0
deriving DecidableEq, Repr

def Counts.add (a b : Counts) : Counts :=
  { sat := a.sat + b.sat, nan := a.nan + b.nan, empty := a.empty + b.empty, crushed := a.crushed + b.crushed,
    peeled := a.peeled + b.peeled, poison := a.poison + b.poison }

def b2n (b : Bool) : Nat := if b then 1 else 0

/-- Nearest TT8 code of a scaled value: the nearest of the 256 values, a tie to the smaller magnitude, then the smallest
unsigned code; true when the magnitude exceeds 6 (R54). -/
def tt8Nearest (neg : Bool) (sig : Nat) (e : Int) : Nat × Bool :=
  let w : Dy := { m := if neg then -(sig : Int) else sig, e := e }
  let dist (c : Nat) : Dy :=
    let d := (Dy.add { m := tt8Units c, e := -12 } w.neg)
    { m := d.m.natAbs, e := d.e }
  let best := (List.range 256).foldl (fun (b : Nat) c =>
    match (dist c).cmp (dist b) with
    | .lt => c
    | .eq => if (tt8Units c).natAbs < (tt8Units b).natAbs then c else b
    | .gt => b) 0
  (best, Dy.cmp { m := sig, e := e } { m := 6, e := 0 } == .gt)

/-- emax_elem of R40. -/
def emaxElem : Fmt → Int
  | .e4m3 => 8
  | .e5m2 => 15
  | .e2m3 => 2
  | .e3m2 => 4
  | .e2m1 => 2
  | .tt8 => 1
  | _ => 0

def hasElemNan : Fmt → Bool
  | .e4m3 | .e5m2 => true
  | _ => false

/-- round_elem of R47: the code and the saturation flag of a value already divided by its batt scale. -/
def roundElem (f : Fmt) (neg : Bool) (sig : Nat) (e : Int) (mode : RMode) : Nat × Bool :=
  match f with
  | .mxint8 =>
    let r := roundInt neg sig (e + 6) 127 mode
    (unsigned 8 r.1, r.2)
  | .tt8 => if sig = 0 then (0, false) else tt8Nearest neg sig e
  | _ => match fpOf f with
    | some K => roundFp neg sig e K mode
    | none => (0, false)

/-- Whether an element code has magnitude zero (R49). -/
def elemMagZero (f : Fmt) (code : Nat) : Bool :=
  match decodeElem f code with
  | (.fin _ g _, _) => g == 0
  | (.nan, _) => false

/-- One quantised batt: scale code, 32 element codes, sidecar value and index where it is peeled, counts (R47, R51). -/
structure Batt where
  scale  : Nat
  elems  : List Nat
  peel   : Option (Nat × Nat)
  counts : Counts
deriving DecidableEq, Repr

/-- The 32-bit sidecar of a batt (R51). -/
def Batt.sidecar (b : Batt) : Nat :=
  match b.peel with
  | none => b.scale
  | some (value, index) => value * 2 ^ 16 + index * 2 ^ 9 + 2 ^ 8 + b.scale

/-- The element codes with the rest of the 32 positions padded by code 0 (R43). -/
def padTo (n : Nat) (l : List Nat) : List Nat := l ++ List.replicate (n - l.length) 0

/-- The lane of the largest magnitude among the non-NaN lanes other than `skip`, the lowest index on a tie (R47). -/
def argmaxAbs (v : List Num) (skip : Option Nat) : Option (Nat × Nat × Int) :=
  (v.zipIdx).foldl (fun best (p : Num × Nat) =>
    if some p.2 = skip then best else
    match p.1 with
    | .nan => best
    | .fin _ g e => match best with
      | none => some (p.2, g, e)
      | some (_, bg, be) =>
        if Dy.cmp { m := g, e := e } { m := bg, e := be } == .gt then some (p.2, g, e) else best) none

/-- quantise_batt of R47 over the non-padding elements `v` (at most 32 FP32 codes), peeled where peeling is enabled and the
distance is reached. `mode` gives the rounding of each element: RNE, but stochastic for MXFP8 moments (R59). -/
def quantiseBatt (v : List Nat) (f : Fmt) (peelEn : Bool) (peelDist : Nat) (mode : Nat → RMode) : Batt :=
  let ds := v.map (decodeFp .fp32 fpFP32)
  let vals := ds.map Prod.fst
  let infs := (ds.filter Prod.snd).length
  let nans := (vals.filter Num.isNan).length
  let base : Counts := { sat := infs, nan := nans }
  if nans > 0 && !hasElemNan f then
    { scale := 0xFF, elems := List.replicate 32 0, peel := none, counts := base }
  else if nans = 0 && vals.all Num.isZero then
    { scale := 0, elems := List.replicate 32 0, peel := none, counts := { base with empty := 1 } }
  else
  let top := argmaxAbs vals none
  let second := argmaxAbs vals (top.map (·.1))
  let (i1, g1, e1) := top.getD (0, 0, 0)
  let (_, g2, e2) := second.getD (0, 0, 0)
  let peel := peelEn && nans == 0 && g1 != 0 &&
    (g2 == 0 || decide (fexp g1 e1 - fexp g2 e2 ≥ peelDist))
  let (ga, ea) := if peel then (g2, e2) else (g1, e1)
  let X : Int := if ga = 0 then -127 else max (-127) (min 127 (fexp ga ea - emaxElem f))
  let rs := vals.zipIdx.map (fun (p : Num × Nat) =>
    match p.1 with
    | .nan => (canonicalNan f, 0, 0)
    | .fin n g e =>
      if peel && p.2 == i1 then (0, 0, 0) else
      let r := roundElem f n g (e - X) (mode p.2)
      (r.1, b2n r.2, b2n (g != 0 && elemMagZero f r.1)))
  let sats := (rs.map (fun r => r.2.1)).sum
  let crushed := (rs.map (fun r => r.2.2)).sum
  let side : Option (Nat × Bool) := if peel then
      match vals[i1]? with
      | some (.fin n g e) => some (roundFp n g e fpBF16 .rne)
      | _ => none
    else none
  { scale := (X + 127).toNat
    elems := padTo 32 (rs.map Prod.fst)
    peel := side.map (fun r => (r.1, i1))
    counts := { base with
      sat := infs + sats + (match side with | some (_, true) => 1 | _ => 0)
      crushed := crushed
      peeled := b2n peel } }

/-- Packs element codes of `w` bits each into bytes, element 0 lowest (R44). -/
def packBits (w : Nat) (codes : List Nat) : Bytes :=
  let word := (codes.zipIdx).foldl (fun acc (p : Nat × Nat) => acc + p.1 % 2 ^ w * 2 ^ (w * p.2)) 0
  (List.range ((codes.length * w + 7) / 8)).map (fun i => BitVec.ofNat 8 (word / 2 ^ (8 * i)))

/-- The largest magnitude in a list of values, and 0 where there is none. -/
def amaxOf (v : List Num) : Nat × Int := ((argmaxAbs v none).map (·.2)).getD (0, 0)

/-- The FP32 code nearest to a quotient of positive dyadic numbers, ties to even: the quotient is formed with 40 extra bits and a
sticky bit, so one rounding gives it (R55). -/
def quotFp32 (gn : Nat) (en : Int) (gd : Nat) (ed : Int) : Nat × Bool :=
  if gd = 0 then (0, false) else
  let k := 200 + gd.log2
  let num := gn * 2 ^ k
  let q := num / gd
  let sticky := if num % gd = 0 then 0 else 1
  roundFp false (2 * q + sticky) (en - ed - k - 1) fpFP32 .rne

/-- Nearest integer to a quotient of dyadic numbers, ties to even. -/
def quotRne (n : Dy) (d : Dy) : Int :=
  if d.m = 0 then 0 else
  let k := n.e - d.e
  let num := if k ≥ 0 then n.m * 2 ^ k.toNat else n.m
  let den := if k ≥ 0 then d.m else d.m * 2 ^ (-k).toNat
  let neg := decide (num < 0) != decide (den < 0)
  let a := num.natAbs
  let b := den.natAbs
  let q := a / b
  let r := a % b
  let q' := if 2 * r > b || (2 * r == b && q % 2 == 1) then q + 1 else q
  if neg then -(q' : Int) else q'

/-- Quantisation of one segment of INT8 with row scale (R55): scale, element codes, counts. -/
def quantiseSegment (v : List Nat) : Nat × List Nat × Counts :=
  let ds := v.map (decodeFp .fp32 fpFP32)
  let vals := ds.map Prod.fst
  let infs := (ds.filter Prod.snd).length
  let nans := (vals.filter Num.isNan).length
  let (g, e) := amaxOf vals
  let s0 := (quotFp32 g e 127 0).1
  let s := if g = 0 then 0 else if s0 = 0 then 1 else s0
  let sd := (decodeFp .fp32 fpFP32 s).1.toDy
  let q := vals.map (fun x => match x with
    | .nan => 0
    | .fin _ 0 _ => 0
    | x => unsigned 8 (max (-127) (min 127 (quotRne x.toDy sd))))
  (s, q, { sat := infs, nan := nans })

/-- An FP32P pair: the codes of hi and lo (R57). -/
structure Pair where
  hi : Nat
  lo : Nat
deriving DecidableEq, Repr

/-- The pair of an exact value: hi is its FP32 rounding, lo the remainder rounded once; canonical for zero, NaN and saturation
(R57). The flag says whether it saturated. -/
def pairOf (x : Num) : Pair × Bool :=
  match x with
  | .nan => ({ hi := 0x7FC00000, lo := 0 }, false)
  | .fin n g e =>
    let h := roundFp n g e fpFP32 .rne
    if h.2 then ({ hi := h.1, lo := 0 }, true) else
    let rest := (Num.toDy (.fin n g e)).add (decodeFp .fp32 fpFP32 h.1).1.toDy.neg
    if rest.m = 0 then ({ hi := h.1, lo := 0 }, false) else
    let l := (roundFp (decide (rest.m < 0)) rest.m.natAbs rest.e fpFP32 .rne).1
    ({ hi := h.1, lo := if l % 2 ^ 31 = 0 then 0 else l }, false)

/-- The exact value of a pair, with the sign of a zero as R58 gives it and the saturations of replaced infinities (R35). -/
def pairNum (p : Pair) : Num × Nat :=
  let h := decodeFp .fp32 fpFP32 p.hi
  let l := decodeFp .fp32 fpFP32 p.lo
  let sats := b2n h.2 + b2n l.2
  match h.1, l.1 with
  | .fin nh gh eh, .fin nl gl el =>
    let bothZero := gh == 0 && gl == 0
    (((Num.fin nh gh eh).toDy.add (Num.fin nl gl el).toDy).toNum (bothZero && nh), sats)
  | _, _ => (.nan, sats)

/-- Conversion of a value into a scalar format by one rounding (R36, R38, R39): code and counts. -/
def convertScalar (f : Fmt) (x : Num) (mode : RMode) : Nat × Counts :=
  match f with
  | .fp32p =>
    let p := pairOf x
    (p.1.lo * 2 ^ 32 + p.1.hi, { sat := b2n p.2, nan := b2n x.isNan })
  | .int32 | .int16 | .int8row | .mxint8 =>
    let lim := match f with
      | .int32 => 2147483647
      | .int16 => 32767
      | _ => 127
    let w := fmtBits f
    match x with
    | .nan => (0, { nan := 1 })
    | .fin n g e =>
      let r := roundInt n g e lim mode
      (unsigned w r.1, { sat := b2n r.2 })
  | f => match fpOf f with
    | some K =>
      let r := roundTo f K x mode
      (r.1, { sat := b2n r.2, nan := b2n x.isNan })
    | none => (0, {})

end Sys2Proof.Machine
end

