-- ==== Sys2Proof/Machine/BrimState.lean ====
section
/-! DEFINITION. The state of the brim ports, the collective engines and the update engines (chapters 10 and 11 of the manual). -/

namespace Sys2Proof.Machine

/-- A key of AES-256-GCM with its 32-bit salt (R269); both empty before UP and once zeroised (R271). -/
structure FlitKey where
  key  : Bytes
  salt : Bytes
deriving DecidableEq, Repr

def FlitKey.none : FlitKey := { key := [], salt := [] }

/-- A flit as its transmitter keeps it for resending (R263, R266): its sequence number and its 256 bytes as first sent. -/
structure TxFlit where
  seq   : Nat
  bytes : Bytes
deriving DecidableEq, Repr

/-- A flit that waits for a credit (R265): its type, virtual channel, poison and data. -/
structure WaitFlit where
  typ    : BitVec 4
  vc     : BitVec 2
  poison : BitVec 8
  data   : Bytes
deriving DecidableEq, Repr

/-- One brim port (R261 to R271, R285 to R288). -/
structure Port where
  /-- 0 OFF, 1 TRAIN, 2 ATTEST, 3 UP, 4 RETRAIN, 5 DENIED, 6 FAILED (R268). -/
  state    : BitVec 3
  width    : BitVec 2
  laneOk   : BitVec 8
  keyTx    : Bool
  keyRx    : Bool
  reversed : Bool
  disable  : Bool
  /-- BRM_ERR bits 7 to 0 (R287). -/
  err      : BitVec 8
  peerPkg  : BitVec 16
  peerPort : BitVec 4
  txFlits  : W64
  rxFlits  : W64
  replays  : W64
  dups     : W64
  fec      : W64
  /-- Offer all 8 lanes at the retrain in progress (R267). -/
  allLanes : Bool
  /-- Failed initial trainings, and the moment of the latest (R268). -/
  fails    : Nat
  failAt   : Nat
  /-- The moment at which the port last left UP. -/
  leftUp   : Nat
deriving DecidableEq, Repr

/-- The flit layer of a port (R263 to R266, R270, R271). -/
structure LinkL where
  txSeq    : Nat
  rxSeq    : Nat
  replay   : List TxFlit
  waiting  : List WaitFlit
  nakFor   : Option Nat
  /-- Credits used and granted in total per VC by this transmitter; flits of each VC this receiver has freed. -/
  used     : Vector Nat 3
  granted  : Vector Nat 3
  freed    : Vector Nat 3
  /-- COLL flits delivered whose credits are withheld while the staging store is full (R280). -/
  owed     : Nat
  /-- Place in the 16 turns of the weighted round robin (R265). -/
  turn     : Nat
  /-- Flits of a type with data delivered since this side last sent a flit: an IDLE then carries ACK and CREDIT (R264). -/
  unacked  : Bool
  /-- The flit resent last and how often in a row (R267). -/
  resent   : Nat × Nat
  tagFails : List Nat
  /-- Flits sent under the current transmit key, and the moment it came into use (R271). -/
  keyFlits : Nat
  keyAt    : Nat
  rxKeyAt  : Nat
  /-- The keys in use (R269), and the old transmit keys kept, each with the SEQ that follows its last flit (R271). -/
  txKey    : FlitKey
  rxKey    : FlitKey
  oldTx    : List (FlitKey × Nat)
deriving DecidableEq, Repr

/-- An element of a collective: a value with its poison, or a carder record (R276, R277). -/
inductive CElem where
  | val (x : Num) (poi : Bool)
  | card (b : Bytes)
deriving DecidableEq, Repr

/-- A contribution in an engine (R279, R280): the dimension of its ring, its key, its transport data, the poisoned granules of its
message, and DISCORD. -/
structure CMsg where
  dim     : Nat
  chunk   : Nat
  phase   : Nat
  hop     : Nat
  data    : Bytes
  poi     : List Nat
  discord : Bool
deriving DecidableEq, Repr

/-- A contribution held for a later entry of the schedule (R280): its port, header and message. -/
structure Held where
  port  : Fin 16
  hdr   : ContribHdr
  data  : Bytes
  poi   : List Nat
deriving DecidableEq, Repr

/-- A collective in flight (R274 to R282): its schedule entry and descriptor, the moment of its start or latest expected
contribution, its own input and MULT as read at the start, the contributions used and the messages sent. -/
structure Coll where
  entry : Nat
  desc  : Bytes
  since : Nat
  inp   : List CElem
  mult  : Nat
  got   : List CMsg
  sent  : List (Nat × Nat × Nat × Nat)
  /-- Chunks of the result already written or passed to the update engine. -/
  given : List Nat
deriving DecidableEq, Repr

/-- A collective engine (R274 to R284, R289 to R291). STATE: 0 IDLE, 1 WAIT_READY, 2 RUN, 3 ABORTED. -/
structure Col where
  state   : BitVec 3
  timeout : BitVec 24
  step    : W32
  err     : BitVec 5
  count   : BitVec 16
  base    : BitVec 41
  done    : W64
  dups    : W64
  strays  : W64
  next    : Nat
  aborted : Nat
  fly     : List Coll
  held    : List Held
  /-- COLL_IDs whose duplicates have been logged in this step (R280). -/
  dupLog  : List Nat
  /-- Collectives of the current step that have completed: entry and the keys received, so that repeats are told from strays. -/
  past    : List (Nat × List (Nat × Nat × Nat × Nat))
deriving DecidableEq, Repr

/-- A reduced chunk on its way from a collective engine to its update engine (R294): the engine and schedule entry it comes from,
its first parameter batt, the step, the batts still to be applied with 32 FP32 codes and poison each, its DISCORD flag, the MULT
read at the start (R298), and whether its checks have been made (R304). -/
structure UChunk where
  col     : Fin 4
  entry   : Nat
  batt    : Nat
  step    : W32
  batts   : List (List Nat × Bool)
  discord : Bool
  mult    : Nat
  checked : Bool
deriving DecidableEq, Repr

/-- The step values of a group, as FP32 codes (R298). -/
structure StepVals where
  sg   : Nat
  lr   : Nat
  lrs  : Nat
  lrwd : Nat
  b1t  : Nat
  b2t  : Nat
  rc1  : Nat
  rc2  : Nat
  k1   : Nat
  k2   : Nat
  kh   : Nat
deriving DecidableEq, Repr

/-- Registers of an update engine (R313 to R316). STATE: 0 IDLE, 1 RUN, 2 CLOSED, 3 DISCORD. -/
structure UeRegs where
  state     : BitVec 3
  seed      : W64
  seedValid : Bool
  assigned  : Bool
  part      : BitVec 3
  gcount    : BitVec 17
  err       : BitVec 4
  gtab      : BitVec 48
  stab      : BitVec 48
  mw        : BitVec 48
  rate      : BitVec 48
  loss      : BitVec 48
  drec      : BitVec 48
  parkStep  : W32
  parkGroup : BitVec 16
  parkWhy   : BitVec 8
  digest    : W64
deriving DecidableEq, Repr

/-- Counters of an update engine (R317). -/
structure UeCnt where
  applied   : W64
  fallbacks : W64
  skipped   : W64
  discards  : W64
  nan       : W64
  sat       : W64
deriving DecidableEq, Repr

/-- What an update engine holds of the step in progress (R298 to R310). -/
structure UeStep where
  inbox  : List UChunk
  vals   : List (Nat × StepVals)
  /-- Groups of which a batt that was not held back has been received (R308). -/
  recv   : List Nat
  /-- Parameters whose weight was written, with the BF16 codes, by ascending index (R309). -/
  wrote  : List (Nat × Nat)
  /-- POISON_SKIP, NAN and FALLBACK in bits 0 to 2 (R310). -/
  flags  : BitVec 3
  /-- Event and group pairs logged in the step (R301, R306, R307). -/
  logged : List (Nat × Nat)
  /-- DEST = 1 collectives that have completed: engine and entry (R308). -/
  dones  : List (Nat × Nat)
  /-- DEST = 1 collectives of which a chunk was parked or discarded: engine and entry (R304). -/
  dead   : List (Nat × Nat)
deriving DecidableEq, Repr

/-- An update engine (R292 to R317). -/
structure Ue where
  regs : UeRegs
  cnt  : UeCnt
  st   : UeStep
  /-- Failed blocks per group in the engine so far (R301). -/
  fails : List (Nat × Nat)
deriving DecidableEq, Repr

def UeStep.reset : UeStep :=
  { inbox := [], vals := [], recv := [], wrote := [], flags := 0, logged := [], dones := [], dead := [] }

/-- An update engine when UE_e powers up (R314 to R317). -/
def Ue.reset : Ue :=
  { regs := { state := 0, seed := 0, seedValid := false, assigned := false, part := 0, gcount := 0, err := 0, gtab := 0, stab := 0, mw := 0,
              rate := 0, loss := 0, drec := 0, parkStep := 0, parkGroup := 0, parkWhy := 0, digest := 0 }
    cnt := { applied := 0, fallbacks := 0, skipped := 0, discards := 0, nan := 0, sat := 0 }
    st := UeStep.reset, fails := [] }

def Port.reset : Port :=
  { state := 0, width := 0, laneOk := 0, keyTx := false, keyRx := false, reversed := false, disable := false, err := 0, peerPkg := 0,
    peerPort := 0, txFlits := 0, rxFlits := 0, replays := 0, dups := 0, fec := 0, allLanes := false, fails := 0, failAt := 0, leftUp := 0 }

/-- Credits at UP are the receiver's buffers (R265): 128 CTRL, 1,536 COLL, 384 BULK. -/
def LinkL.reset : LinkL :=
  { txSeq := 0, rxSeq := 0, replay := [], waiting := [], nakFor := none, used := Vector.replicate 3 0, granted := #v[128, 1536, 384],
    freed := Vector.replicate 3 0, owed := 0, turn := 0, unacked := false, resent := (0, 0), tagFails := [], keyFlits := 0, keyAt := 0,
    rxKeyAt := 0, txKey := FlitKey.none, rxKey := FlitKey.none, oldTx := [] }

def Col.reset : Col :=
  { state := 0, timeout := 100000, step := 0, err := 0, count := 0, base := 0, done := 0, dups := 0, strays := 0, next := 0,
    aborted := 0, fly := [], held := [], dupLog := [], past := [] }

end Sys2Proof.Machine
end

