-- ==== Sys2Proof/Machine/Dot.lean ====
section
/-! DEFINITION. The reference dot product (chapter 3 of the manual): exact products, STRICT and ALIGNED summation, FP32 and
compensated accumulation, peeled terms, the three-way split. -/

namespace Sys2Proof.Machine

/-- The canonical NaN of FP32. -/
def nan32 : Nat := 0x7FC00000

/-- The value of an FP32 code; none for a NaN, an infinity replaced by the largest finite value (R69, R35). -/
def val32 (u : Nat) : Option Dy :=
  match (decodeFp .fp32 fpFP32 u).1 with
  | .nan => none
  | x => some x.toDy

def isNan32 (u : Nat) : Bool := (val32 u).isNone

/-- round_x into FP32 in RNE mode, an exact zero giving +0; the flag says that it saturated (R69). -/
def round32 (x : Dy) : Nat × Bool :=
  if x.m = 0 then (0, false) else roundFp (decide (x.m < 0)) x.m.natAbs x.e fpFP32 .rne

/-- floor of log2 of a non-zero value. -/
def Dy.flog2 (x : Dy) : Int := fexp x.m.natAbs x.e

/-- Truncation toward zero to a multiple of 2^q. -/
def Dy.truncTo (x : Dy) (q : Int) : Dy :=
  if x.e ≥ q then x else
  let a := x.m.natAbs / 2 ^ (q - x.e).toNat
  { m := if x.m < 0 then -(a : Int) else a, e := q }

/-- One group of 32 consecutive values of k of one operand (R65): the element values without the group factor, zero in a peeled
lane and in padding; the factor, none where it is a NaN; the peeled lane with its value; whether its unit is poisoned (R60); and how
many infinities were replaced in reading it (R35). -/
structure OpGroup where
  elems  : List Num
  factor : Option Dy
  peel   : Option (Nat × Num)
  poison : Bool
  inf    : Nat
deriving DecidableEq, Repr

/-- Whether the group holds a NaN element (R65). -/
def OpGroup.hasNan (g : OpGroup) : Bool := g.factor.isNone || g.elems.any Num.isNan

/-- The exact products of the lanes (R66); meaningful where neither group holds a NaN. -/
def groupProducts (a w : OpGroup) : List Dy := List.zipWith (fun x y => x.toDy.mul y.toDy) a.elems w.elems

/-- The decoded value of lane k with its factor applied, or the sidecar's value where it is peeled (R75). -/
def laneValue (g : OpGroup) (k : Nat) : Num :=
  match g.peel with
  | some (i, v) => if i = k then v else
    match g.elems[k]?, g.factor with
    | some (.fin n s e), some f => ((Num.fin n s e).toDy.mul f).toNum n
    | _, _ => .nan
  | none =>
    match g.elems[k]?, g.factor with
    | some (.fin n s e), some f => ((Num.fin n s e).toDy.mul f).toNum n
    | _, _ => .nan

/-- Exact sum of the peeled terms of a group; none where one is a NaN (R75). -/
def peeledTerms (a w : OpGroup) : Option Dy :=
  let lanes := (a.peel.map (·.1)).toList ++ ((w.peel.map (·.1)).toList.filter (fun k => (a.peel.map (·.1)) != some k))
  lanes.foldl (fun acc k =>
    match acc, laneValue a k, laneValue w k with
    | some s, .fin n1 g1 e1, .fin n2 g2 e2 => some (s.add ((Num.fin n1 g1 e1).toDy.mul (Num.fin n2 g2 e2).toDy))
    | _, _, _ => none) (some { m := 0, e := 0 })

/-- The largest flog2 of the non-zero values. -/
def windowTop (ps : List Dy) : Option Int :=
  ps.foldl (fun (t : Option Int) (p : Dy) => if p.m = 0 then t else
    match t with
    | none => some p.flog2
    | some x => some (max x p.flog2)) none

/-- Sum of the values truncated to a window of `bits` bits (R71, R73). -/
def windowSum (ps : List Dy) (bits : Int) : Dy :=
  match windowTop ps with
  | none => { m := 0, e := 0 }
  | some T => ps.foldl (fun s p => s.add (p.truncTo (T - (bits - 1)))) { m := 0, e := 0 }

/-- An accumulator element: hi, and lo where the accumulation is compensated (R78). -/
structure Acc where
  hi : Nat
  lo : Nat
deriving DecidableEq, Repr

/-- add_acc of R69: the new code and the count of saturations. -/
def addAcc (acc : Nat) (v : Option Dy) : Nat × Nat :=
  match v, val32 acc with
  | some x, some a =>
    let r := round32 (a.add x)
    (r.1, b2n r.2)
  | _, _ => (nan32, 0)

/-- comp_add of R78. -/
def compAdd (acc : Acc) (v : Option Dy) : Acc × Nat :=
  match v, val32 acc.hi, val32 acc.lo with
  | some x, some h, some l =>
    let t := h.add x
    let s := round32 t
    if s.2 then ({ hi := s.1, lo := 0 }, 1) else
    let sv := (val32 s.1).getD { m := 0, e := 0 }
    let u := l.add (t.add sv.neg)
    let r := round32 u
    ({ hi := s.1, lo := r.1 }, b2n r.2)
  | _, _, _ => ({ hi := nan32, lo := 0 }, 0)

/-- One addition into an accumulator element, compensated or not (R69, R78). -/
def accStep (comp : Bool) (acc : Acc) (v : Option Dy) : Acc × Nat :=
  if comp then compAdd acc v else
  let r := addAcc acc.hi v
  ({ hi := r.1, lo := 0 }, r.2)

/-- The STRICT value of one group: exact group value rounded to FP32, none for NaN, and the count of saturations (R70). -/
def strictValue (a w : OpGroup) : Option Dy × Nat :=
  if a.hasNan || w.hasNan then (none, 0) else
  match a.factor, w.factor, peeledTerms a w with
  | some fa, some fw, some pt =>
    let v := ((windowSum (groupProducts a w) 64).mul (fa.mul fw)).add pt
    let r := round32 v
    (val32 r.1, b2n r.2)
  | _, _, _ => (none, 0)

/-- The STRICT sum of a pass: groups in ascending k (R70, R72). -/
def strictDot (comp : Bool) (acc : Acc) (gs : List (OpGroup × OpGroup)) : Acc × Nat :=
  gs.foldl (fun st g =>
    let v := strictValue g.1 g.2
    let r := accStep comp st.1 v.1
    (r.1, st.2 + v.2 + r.2)) (acc, 0)

/-- The products of a group with both factors applied; none where one is NaN (R73). -/
def scaledProducts (a w : OpGroup) : Option (List Dy) :=
  if a.hasNan || w.hasNan then none else
  match a.factor, w.factor with
  | some fa, some fw => some ((groupProducts a w).map (fun p => p.mul (fa.mul fw)))
  | _, _ => none

/-- The exact ALIGNED value of one superblock: none for NaN (R73, R75). -/
def alignedValue (gs : List (OpGroup × OpGroup)) : Option Dy :=
  let ps := gs.foldl (fun acc g =>
    match acc, scaledProducts g.1 g.2 with
    | some l, some q => some (l ++ q)
    | _, _ => none) (some [])
  match ps with
  | none => none
  | some l => gs.foldl (fun acc g =>
      match acc, peeledTerms g.1 g.2 with
      | some s, some t => some (s.add t)
      | _, _ => none) (some (windowSum l 96))

/-- A list cut into runs of `n` (fuel `k` bounds their number). -/
def runsOf {α : Type} (n : Nat) : Nat → List α → List (List α)
  | 0, _ => []
  | _ + 1, [] => []
  | k + 1, l => l.take n :: runsOf n k (l.drop n)

/-- The ALIGNED sum of a pass: superblocks of up to eight groups counted from the pass's first (R73). -/
def alignedDot (comp : Bool) (acc : Acc) (gs : List (OpGroup × OpGroup)) : Acc × Nat :=
  (runsOf 8 gs.length gs).foldl (fun st g =>
    let r := accStep comp st.1 (alignedValue g)
    (r.1, st.2 + r.2)) (acc, 0)

/-- One output element of one pass: its mode, accumulator and groups (R63, R70, R73). -/
def passDot (aligned comp : Bool) (acc : Acc) (gs : List (OpGroup × OpGroup)) : Acc × Nat :=
  if aligned then alignedDot comp acc gs else strictDot comp acc gs

/-- comp_out of R79: the canonical pair and the count of saturations. -/
def compOut (acc : Acc) : Pair × Nat :=
  match val32 acc.hi, val32 acc.lo with
  | some h, some l =>
    let t := h.add l
    let r := round32 t
    if t.m = 0 then ({ hi := 0, lo := 0 }, 0) else
    if r.2 then ({ hi := r.1, lo := 0 }, 1) else
    let rest := t.add ((val32 r.1).getD { m := 0, e := 0 }).neg
    ({ hi := r.1, lo := (round32 rest).1 }, 0)
  | _, _ => ({ hi := nan32, lo := 0 }, 0)

/-- The three BF16 pieces of an FP32 value (R80). -/
def split3 (x0 : Nat) : Nat × Nat × Nat :=
  match (decodeFp .fp32 fpFP32 x0).1 with
  | .nan => (0x7FC0, 0, 0)
  | .fin n g e =>
    let x := (roundFp n g e fpFP32 .rne).1
    let x1 := x / 2 ^ 16
    let v (c : Nat) : Dy := (val32 c).getD { m := 0, e := 0 }
    let r1 := (round32 ((v x).add (v (x1 * 2 ^ 16)).neg)).1
    let x2 := r1 / 2 ^ 16
    let r2 := (round32 ((v r1).add (v (x2 * 2 ^ 16)).neg)).1
    (x1, x2, r2 / 2 ^ 16)

/-- Whether a group of an activation or a weight is one that zero-batt skipping passes over: all products zero and not NaN for
any partner, no peeled lane (R105). -/
def OpGroup.skippable (g : OpGroup) : Bool := g.factor.isSome && g.peel.isNone && g.elems.all Num.isZero

end Sys2Proof.Machine
end

