-- ==== Sys2Proof/Machine/Gen.lean ====
section
/-! DEFINITION. The counter-based generator (chapter 8 of the manual): ky_gen, words and lanes, purpose classes, pounce draws. -/

namespace Sys2Proof.Machine

def genCA : W32 := 0x9E3779B9
def genCB : W32 := 0xBB67AE85

/-- Rotation amounts of the ten rounds (R216). -/
def genRots : List (Nat × Nat) :=
  [(19, 16), (12, 8), (7, 27), (23, 14), (13, 21), (29, 6), (5, 18), (17, 30), (11, 9), (25, 20)]

/-- The four words of the generator's state. -/
structure Gen4 where
  x0 : W32
  x1 : W32
  x2 : W32
  x3 : W32
deriving DecidableEq, Repr

/-- One round of ky_gen (R216): key injection, two mixes, exchange of the odd words. -/
def genRound (k0 k1 : W32) (r : Nat) (rot : Nat × Nat) (s : Gen4) : Gen4 :=
  let x0 := s.x0 + k0 + BitVec.ofNat 32 r * genCA
  let x2 := s.x2 + k1 + BitVec.ofNat 32 r * genCB
  let x0 := x0 + s.x1
  let x1 := s.x1.rotateLeft rot.1 ^^^ x0
  let x2 := x2 + s.x3
  let x3 := s.x3.rotateLeft rot.2 ^^^ x2
  { x0 := x0, x1 := x3, x2 := x2, x3 := x1 }

/-- ky_gen of R216: four words from seed, stream tag, step and counter index. -/
def kyGen (seed : W64) (tag step : W32) (index : W64) : Gen4 :=
  let k0 : W32 := seed.setWidth 32
  let k1 : W32 := (seed >>> 32).setWidth 32
  let s0 : Gen4 := { x0 := index.setWidth 32, x1 := (index >>> 32).setWidth 32, x2 := step, x3 := tag }
  let s := (genRots.zipIdx).foldl (fun (s : Gen4) (p : (Nat × Nat) × Nat) => genRound k0 k1 p.2 p.1 s) s0
  { x0 := s.x0 + k0, x1 := s.x1 ^^^ k1, x2 := s.x2 + k1, x3 := s.x3 ^^^ k0 }

/-- Word w of an evaluation (R217). -/
def Gen4.word (g : Gen4) : Nat → Nat
  | 0 => g.x0.toNat
  | 1 => g.x1.toNat
  | 2 => g.x2.toNat
  | _ => g.x3.toNat

/-- Lane l, 16 bits: the low or the high half of word l/2 (R217). -/
def Gen4.lane (g : Gen4) (l : Nat) : Nat :=
  let w := g.word (l / 2)
  if l % 2 = 0 then w % 2 ^ 16 else w / 2 ^ 16

/-- r16 of an element index under a DROPOUT or SROUND tag (R218). -/
def drawR16 (seed : W64) (tag step : W32) (e : Nat) : Nat :=
  let e := e % 2 ^ 64
  (kyGen seed tag step (BitVec.ofNat 64 (e / 8))).lane (e % 8)

/-- The pounce draw of a pass: element index (LAYER << 32) | n under a POUNCE tag (R225). -/
def pounceDraw (seed : W64) (tag step : W32) (layer n : Nat) : Gen4 :=
  kyGen seed tag step (BitVec.ofNat 64 (layer * 2 ^ 32 + n % 2 ^ 32))

/-- Whether a draw samples its pass, with sampling exponent k (R166, R225). -/
def drawSamples (g : Gen4) (k : Nat) : Bool := g.word 0 % 2 ^ k == 0

/-- The sampled tile among T (R225). -/
def drawTile (g : Gen4) (T : Nat) : Nat := if T = 0 then 0 else g.word 1 % 2 ^ 16 % T

/-- First column and number of columns of the sampled block (R225). -/
def drawCols (g : Gen4) (n : Nat) : Nat × Nat :=
  if n ≤ 32 then (0, n) else
  let b := g.word 1 / 2 ^ 16 % cdiv n 32
  (min (32 * b) (n - 32), 32)

/-- The sampled rows among M, ascending (R225). -/
def drawRows (g : Gen4) (M : Nat) : List Nat :=
  if M < 32 then List.range M else
  (List.range 32).map (fun i =>
    let lo := i * M / 32
    let size := (i + 1) * M / 32 - lo
    lo + (g.word 2 + i * g.word 3) % 2 ^ 64 % size)

end Sys2Proof.Machine
end

