-- ==== Sys2Proof/Machine/ClusterState.lean ====
section
/-! DEFINITION. The state of one cluster (chapters 4 to 8 of the manual): stores, plank, pounce unit, sequencer, carder, vector
engine, DMA engine, generator, trace. Each field names the rule that gives it. -/

namespace Sys2Proof.Machine

/-- Statistics of rows of output values that count (R162): number, zeros, histogram, and the largest magnitude of each row. -/
structure RowStats where
  values : Nat
  zeros  : Nat
  hist   : List Nat
  rowmax : List Nat
deriving DecidableEq, Repr

/-- What the rows of a pass that are complete have given: quantiser and shaper counts, elements quantised, statistics, accumulator
saturations (R62, R77, R104). -/
structure PassRes where
  counts : Counts
  quant  : Nat
  stats  : RowStats
  accSat : Nat
deriving DecidableEq, Repr

/-- Groups of one row or column of an operand, as read. -/
abbrev OpRow := List OpGroup

/-- How far a pass has run in the array (R86, R91): its staged weight tiles, column by column; the activation rows that have entered and
are not complete, each with its streams; how many rows have entered, how many are complete; what those have given; and the narrow values
captured for a pounce check, row by row with their poison (R106). -/
structure PassRun where
  wts    : Option (List (List OpRow))
  feed   : List (List OpRow)
  fed    : Nat
  done   : Nat
  res    : PassRes
  narrow : List (Nat × List (Nat × Bool))
deriving DecidableEq, Repr

/-- A pass that the plank has accepted and that has neither committed nor been dropped (R94, R112, R121). The records are those
read at issue (R101, R135). Cycles are advancing array cycles since power-up (R93). -/
structure Pass where
  word    : IWord
  tile    : Bytes
  recs    : List Bytes
  plans   : List Bytes
  seqNo   : Nat
  layer   : Nat
  ladder  : Nat
  index   : Nat
  draw    : Option Gen4
  zskip   : Bool
  step    : W32
  chain   : Nat
  issueC  : Nat
  stagedC : Nat
  firstC  : Nat
  attempt : Nat
  /-- Abandoned in this cycle, awaiting re-execution (R112), and the kinds of fault that acted on the pass in it (R111). -/
  aband   : Option Nat
  kinds   : List Nat
  /-- An ACC_ECC fault has acted on an earlier attempt (R414). -/
  ecc     : Bool
  /-- Counted in OUT_P; CLR_FAULTED clears the count of what was in flight (R113, R119). -/
  counted : Bool
  run     : PassRun
deriving DecidableEq, Repr

/-- The accumulation that last claimed an accumulator block with NEW = 1 (R99). -/
structure Claim where
  acc   : Nat
  shape : Nat
  mm1   : Nat
  nm1   : Nat
  mode  : Bool
  comp  : Bool
deriving DecidableEq, Repr

/-- A pounce check under way: what it will fold; `d4` is none where the check is discarded (R167). -/
structure Check where
  seqNo  : Nat
  layer  : Nat
  ladder : Nat
  d4     : Option Int
deriving DecidableEq, Repr

/-- First-row and commit cycle, fusion, shape, chain and activation set of the pass issued last (R85, R93). -/
structure LastPass where
  firstC  : Nat
  m       : Nat
  commitC : Nat
  fusion  : Nat
  shape   : Nat
  chain   : Nat
  aset    : Bytes
deriving DecidableEq, Repr

/-- The rows that the edge buffer holds for a VECMAT chain (R88): the chain, the cycle in which row 0 is loaded, word and tile record of
its first pass, and the rows loaded so far. -/
structure Edge where
  chain : Nat
  start : Nat
  word  : IWord
  tile  : Bytes
  rows  : List OpRow
deriving DecidableEq, Repr

/-- The plank (R83 to R121). -/
structure Plank where
  passes    : List Pass
  last      : Option LastPass
  /-- The next pass starts a new chain (R110, R112). -/
  brk       : Bool
  /-- The plank is in FAULTED (R113). -/
  faulted   : Bool
  claims    : List (Nat × Claim)
  nextAcc   : Nat
  checks    : List Check
  accSel    : W64
  retryMax  : BitVec 2
  zskipEn   : Bool
  retries   : Nat
  fltExh    : Bool
  fltShadow : Bool
  fltEcc    : Bool
  fltRes    : Bool
  fltSeq    : W32
  issued    : Nat
  /-- Passes dropped in FAULTED that stay counted in OUT_P (R113). -/
  dropped   : List Pass
  /-- Mode and shape of the last chain that ran (R118). -/
  fusion    : Nat
  shape     : Nat
  edges     : List Edge
  /-- An alarm has overridden the freeze in effect: the plank reads IDLE (R115). -/
  overridden : Bool
deriving DecidableEq, Repr

/-- The 64-bit counters of the plank (R121). -/
structure PlankCounters where
  passes : W64
  frozen : W64
  zskip  : W64
  pounce : W64
deriving DecidableEq, Repr

/-- The states of the sequencer apart from PAUSED, which overlays them (R157, R155). -/
inductive SeqMode where
  | idle | run | wait | held | done | stopped
deriving DecidableEq, Repr

/-- The target of a JUMP or CALLV of a block that has been read (R128): the index of that word, and either the target's address and words
or the reason for which the transfer is invalid. -/
structure Target where
  idx   : Nat
  fail  : Option Nat
  addr  : Nat
  words : List IWord
deriving DecidableEq, Repr

/-- An instruction block that the sequencer has read: its address, its words, and the targets read with it (R127, R128). -/
structure Block where
  addr  : Nat
  words : List IWord
  tgts  : List Target
deriving DecidableEq, Repr

/-- A return point with the layer and ladder of its CALLV (R130, R161). -/
structure RetPoint where
  block  : Block
  idx    : Nat
  layer  : Nat
  ladder : Nat
deriving DecidableEq, Repr

/-- A loop being executed: first and last word of the body and the repetitions left (R130, R131). -/
structure LoopFrame where
  first : Nat
  last  : Nat
  left  : Nat
deriving DecidableEq, Repr

/-- A SIG that its target has not acknowledged (R148): logical target, physical target, sequence number, semaphore, increment. -/
structure SigOut where
  tgt : Fin 64
  seq : Nat
  sem : Nat
  inc : Nat
deriving DecidableEq, Repr

/-- The sequencer (R122 to R160). -/
structure Seq where
  mode     : SeqMode
  pauseReq : Bool
  paused   : Bool
  /-- Advancing array cycle in which the PAUSE reached the cluster (R109). -/
  pauseC   : Nat
  block    : Option Block
  idx      : Nat
  calls    : List RetPoint
  loops    : List LoopFrame
  coreRst  : Bool
  /-- RELEASE has been written for the held transfer (R154, R155). -/
  released : Bool
  trap     : Option Nat
  /-- This generation of the barrier has been joined and is awaited (R149). -/
  barWait  : Option Nat
  sems     : Vector (BitVec 16) 32
  sigNext  : List (Nat × Nat)
  sigOut   : List SigOut
  sigSeen  : List (Nat × Nat)
  barGen   : List (Nat × Nat)
  passIdx  : List (Nat × Nat)
  /-- CLR_FAULTED has discarded the queued instructions; IDLE follows once the units have drained (R113). -/
  draining : Bool
  /-- A stop that takes effect once every instruction issued before it has completed (R151): REASON, CLASS, word index, block. -/
  stopPend : Option (Nat × Nat × Nat × Nat)
deriving DecidableEq, Repr

/-- The registers of the sequencer that hold values of their own (R157 to R160). -/
structure SeqRegs where
  stop   : Bool
  semOvf : Bool
  semRes : Bool
  part   : BitVec 3
  lcl    : BitVec 6
  step   : W32
  entry  : W64
  vtBase : W64
  rvBase : W64
  info   : W64
  issued : W64
deriving DecidableEq, Repr

/-- A vector instruction accepted by the engine: its word and descriptor, the stream tag it draws under, its step, and, once it
has started, its completion record with INDEX 0, its active elements, SAT and NAN (R189, R200). -/
structure VecJob where
  word  : IWord
  desc  : Bytes
  tag   : W32
  step  : W32
  start : Option (Bytes × Nat × Nat × Nat)
deriving DecidableEq, Repr

/-- The vector engine (R187 to R215). -/
structure Vec where
  jobs   : List VecJob
  index  : W64
  /-- VOP of the last instruction completed (R214). -/
  vop    : BitVec 8
  done   : W64
  sat    : W64
  nan    : W64
  stall  : W64
deriving DecidableEq, Repr

/-- One ladder's section of a carder slot (R162, R165); counts as the record holds them. -/
structure Section where
  amax    : Nat
  rmin    : Nat
  values  : Nat
  quant   : Nat
  crushed : Nat
  empty   : Nat
  peeled  : Nat
  sat     : Nat
  accSat  : Nat
  nan     : Nat
  poison  : Nat
  passes  : Nat
  checks  : Nat
  dsum    : Int
  dmax    : Int
  zeros   : Nat
  hist    : List Nat
deriving DecidableEq, Repr

/-- A carder slot: its layer and the sections of the three ladders (R163). -/
structure CardSlot where
  layer : Nat
  fwd   : Section
  bwdD  : Section
  bwdW  : Section
deriving DecidableEq, Repr

/-- A STAT.FLUSH that waits for earlier passes and checks of its layer: its own copy of the slot, which only those still
update, and their sequence numbers (R150, R164). -/
structure FlushJob where
  layer : Nat
  addr  : Nat
  ovf   : Bool
  slot  : CardSlot
  waitP : List Nat
  waitC : List Nat
deriving DecidableEq, Repr

/-- What the DMA engine has outstanding (R125, R126). -/
inductive DmaJob where
  /-- A MOVE: its word and descriptor, the bytes it writes, and how many of them it has written; none before it starts. -/
  | move (word : IWord) (desc : Bytes) (bytes : Nat) (written : Option Nat)
  | flush (f : FlushJob)
deriving DecidableEq, Repr

/-- The carder (R161 to R186). -/
structure Carder where
  slots   : List CardSlot
  ovf     : Bool
  /-- A pass has been dropped since GO (R163). -/
  ovfCond : Bool
  layer   : BitVec 16
  d4      : BitVec 8
  ladder  : BitVec 2
  dropped : W64
deriving DecidableEq, Repr

/-- The generator of a cluster (R222, R227 to R231). -/
structure Rng where
  seed   : W64
  valid  : Bool
  reuse  : Bool
  evals  : W64
  reuses : W64
  /-- Step, stream-table index and consumer of the reuses logged (R227). -/
  logged : List (Nat × Nat × Nat)
deriving DecidableEq, Repr

/-- The trace controls and the record counter (R510, R523). -/
structure Trc where
  pass    : Bool
  vec     : Bool
  freeze  : Bool
  recno   : W64
  /-- Records the drain has copied (R511). -/
  drained : Nat
deriving DecidableEq, Repr

/-- The cluster control core (R384 to R386): restart moments within the last second, whether it has failed, the trace-point mask
(R387), and its code. -/
structure ClCore where
  restarts : List Nat
  count    : Nat
  failed   : Bool
  mask     : BitVec 256
  /-- The code that the core runs: the resident copy as it was loaded (R321, R326, R389). -/
  code     : List Host.Cell
deriving DecidableEq, Repr

/-- One cluster (R17). -/
structure Cluster where
  ops   : Sram
  bankA : Sram
  bankB : Sram
  vreg  : Sram
  trace : Sram
  plk   : Plank
  cnt   : PlankCounters
  seq   : Seq
  sreg  : SeqRegs
  vec   : Vec
  dma   : List DmaJob
  card  : Carder
  rng   : Rng
  trc   : Trc
  core  : ClCore
  /-- Freeze causes in effect (R456), and the moments at which the plank's freeze and the engine's stall began (R114, R211). -/
  frz   : List FreezeCause
  frzAt : Nat
  stlAt : Nat
deriving DecidableEq, Repr

/-- The plank after CL_cc powers up (R97, R117 to R121). -/
def Plank.reset : Plank :=
  { passes := [], last := none, brk := false, faulted := false, claims := [], nextAcc := 0, checks := [], accSel := 0,
    retryMax := 2, zskipEn := true, retries := 0, fltExh := false, fltShadow := false, fltEcc := false, fltRes := false,
    fltSeq := 0, issued := 0, dropped := [], fusion := 0, shape := 0, edges := [], overridden := false }

def PlankCounters.reset : PlankCounters := { passes := 0, frozen := 0, zskip := 0, pounce := 0 }

/-- The sequencer after CL_cc powers up (R156 to R160). -/
def Seq.reset : Seq :=
  { mode := .idle, pauseReq := false, paused := false, pauseC := 0, block := none, idx := 0, calls := [], loops := [],
    coreRst := false, released := false, trap := none, barWait := none, sems := Vector.replicate 32 0, sigNext := [],
    sigOut := [], sigSeen := [], barGen := [], passIdx := [], draining := false, stopPend := none }

def SeqRegs.reset : SeqRegs :=
  { stop := false, semOvf := false, semRes := false, part := 0, lcl := 0, step := 0, entry := 0, vtBase := 0, rvBase := 0,
    info := 0, issued := 0 }

def Vec.reset : Vec := { jobs := [], index := 0, vop := 0, done := 0, sat := 0, nan := 0, stall := 0 }

/-- A section without any statistics (R162, R164): RMIN is the largest finite value, DMAX is -128. -/
def Section.clear : Section :=
  { amax := 0, rmin := 0x7F7FFFFF, values := 0, quant := 0, crushed := 0, empty := 0, peeled := 0, sat := 0, accSat := 0,
    nan := 0, poison := 0, passes := 0, checks := 0, dsum := 0, dmax := -128, zeros := 0, hist := List.replicate 32 0 }

def CardSlot.clear (layer : Nat) : CardSlot :=
  { layer := layer, fwd := Section.clear, bwdD := Section.clear, bwdW := Section.clear }

def Carder.reset : Carder := { slots := [], ovf := false, ovfCond := false, layer := 0, d4 := 0x80, ladder := 0, dropped := 0 }

def Rng.reset : Rng := { seed := 0, valid := false, reuse := false, evals := 0, reuses := 0, logged := [] }

def Trc.reset : Trc := { pass := false, vec := false, freeze := false, recno := 0, drained := 0 }

def ClCore.reset : ClCore := { restarts := [], count := 0, failed := false, mask := 0, code := [] }

/-- A cluster after CL_cc powers up: contents lost and read as zero, registers at their reset values (R17, R443). -/
def Cluster.reset : Cluster :=
  { ops := Sram.empty, bankA := Sram.empty, bankB := Sram.empty, vreg := Sram.empty, trace := Sram.empty, plk := Plank.reset,
    cnt := PlankCounters.reset, seq := Seq.reset, sreg := SeqRegs.reset, vec := Vec.reset, dma := [], card := Carder.reset,
    rng := Rng.reset, trc := Trc.reset, core := ClCore.reset, frz := [], frzAt := 0, stlAt := 0 }

def RowStats.none : RowStats := { values := 0, zeros := 0, hist := List.replicate 32 0, rowmax := [] }

/-- A pass whose tile is not staged and of which nothing has run. -/
def PassRun.idle : PassRun :=
  { wts := none, feed := [], fed := 0, done := 0, res := { counts := {}, quant := 0, stats := RowStats.none, accSat := 0 }, narrow := [] }

/-- Whether a freeze holds the plank, or a stall the vector engine (R114, R211, R456). -/
def Cluster.frozen (k : Cluster) : Bool := k.frz.any (fun x => x != .engineOnly)
def Cluster.stalled (k : Cluster) : Bool := k.frz.any (fun x => x != .plankOnly)

end Sys2Proof.Machine
end

