-- ==== Sys2Proof/Machine/MeterState.lean ====
section
/-! DEFINITION. The state of the meter die and of the meter record window (chapter 19 of the manual). -/

namespace Sys2Proof.Machine

/-- The meter die, on its own supply (R490 to R501). It keeps its state across every reset of the package. -/
structure MeterDie where
  powered  : Bool
  /-- SEQ of the newest ENERGY record issued; numbers continue across a loss of VMET (R495). -/
  seq      : W64
  /-- No ENERGY record has been issued since power-up (R496). -/
  first    : Bool
  tags     : Vector W64 8
  tagSeq   : W32
  /-- SET_TAGs accepted in this interval, which take effect from the next (R499). -/
  newTags  : List (Fin 8 × W64)
  /-- A SET_TAG took effect at the start of this interval (R496). -/
  changed  : Bool
  prev     : Option Bytes
  checking : Bool
  /-- A self-check has run in this interval (R496). -/
  checked  : Bool
  result   : BitVec 8
  rails    : BitVec 8
  /-- The end of the latest self-check, and the power-up of the meter, in ns since the package's cold reset; negative where it was earlier. -/
  checkAt  : Option Int
  upAt     : Int
  discards : W64
  /-- Records sent on the record channel and not yet stored (R498). -/
  sent     : List Bytes
deriving DecidableEq, Repr

/-- The meter record window and the request registers (R498, R503 to R505). -/
structure MeterWin where
  live    : Bool
  lastAt  : Nat
  /-- METER_SILENT has been logged since the latest record (R502). -/
  silent  : Bool
  restart : Bool
  fault   : Bool
  chk     : Bool
  head    : W64
  /-- An ENERGY record has been stored since the cold reset. -/
  any     : Bool
  gaps    : W64
  pend    : Option (BitVec 8 × Fin 8 × W64)
  arg     : W64
  resp    : Vector Bytes 4
  ring    : List (Nat × Bytes)
deriving DecidableEq, Repr

structure Meter where
  die : MeterDie
  win : MeterWin
deriving DecidableEq, Repr

/-- The meter die before VMET first rises. -/
def MeterDie.made : MeterDie :=
  { powered := false, seq := 0, first := true, tags := Vector.replicate 8 0, tagSeq := 0, newTags := [], changed := false, prev := none, checking := false,
    checked := false, result := 0, rails := 0, checkAt := none, upAt := 0, discards := 0, sent := [] }

/-- The window after a cold reset (R503 to R505). -/
def MeterWin.reset : MeterWin :=
  { live := false, lastAt := 0, silent := false, restart := false, fault := false, chk := false, head := 0, any := false, gaps := 0, pend := none, arg := 0,
    resp := Vector.replicate 4 (List.replicate 256 0), ring := [] }

end Sys2Proof.Machine
end

