-- ==== Sys2Proof/Machine/PartState.lean ====
section
/-! DEFINITION. The state of a partition slot: image, ledger, run, twin, checkpoints, counters and dump (chapters 13 to 15 and 20 of the
manual). -/

namespace Sys2Proof.Machine

/-- The partition states, in the order of their codes (R380, R396). -/
inductive PState where
  | empty | idle | running | paused | parked | recovering
deriving DecidableEq, Repr

/-- What the loader keeps of a partition's image (R345 to R355): identity, resources, and the sections it consumes. -/
structure Img where
  imageId   : Nat
  digest    : Bytes
  keyDigest : Bytes
  /-- The twin fingerprint (R399). -/
  finger    : Bytes
  loadArea  : Nat
  total     : Nat
  part      : Bytes
  clusters  : Bytes
  layers    : Bytes
  ladders   : Bytes
  streams   : Bytes
  groups    : Bytes
  links     : Bytes
  barriers  : Bytes
  symbols   : Bytes
  wake      : Bytes
  /-- Engine, COL_SCHED.BASE and section bytes of each SCHEDULE section (R346). -/
  scheds    : List (Nat × Nat × Bytes)
  /-- DEST of GROUPS, 0 where there is none (R346). -/
  gtab      : Nat
  /-- DEST ranges of the sections: partition address and length (R346, R406). -/
  dests     : List (Nat × Nat)
deriving DecidableEq, Repr

/-- What the loader assigned (R349): the cluster map, the spares, and the two spine allocations as offset and length in bytes. -/
structure Assign where
  cmap   : List (Fin 64)
  spares : List (Fin 64)
  spine0 : Nat × Nat
  spine1 : Nat × Nat
deriving DecidableEq, Repr

/-- An accepted ticket that has no reply (R373): `ord` is its place in the order in which the scheduler core accepts the tickets of all
ledgers (R351); `begun` is set once it is being carried out. -/
structure Ticket where
  num   : Nat
  ord   : Nat
  epoch : Nat
  typ   : Nat
  raw   : Bytes
  begun : Bool
deriving DecidableEq, Repr

/-- A stored ticket entry (R375, R376). -/
structure Stored where
  num     : Nat
  reply   : Bytes
  crc     : Nat
  replied : Bool
deriving DecidableEq, Repr

/-- A ticket ledger as the scheduler core holds it (R364 to R379, R395, R396). -/
structure Ledger where
  base    : W64
  head    : Nat
  high    : W64
  epoch   : W32
  step    : W32
  claimed : Bool
  live    : Bool
  lease   : W64
  /-- The moment the lease word was last seen to change (R378). -/
  leaseAt : Nat
  rejects : W32
  repeats : W32
  queue   : List Ticket
  stored  : List (Nat × Stored)
  /-- Reads so far of a slot whose CRC fails (R367). -/
  badReads : Nat
deriving DecidableEq, Repr

/-- Where a run stands between two steps (R28, R359). -/
inductive Stage where
  /-- The clusters run the step. -/
  | inStep
  /-- B3 waits for a partial reload (R359). -/
  | atB3
  /-- B4 has completed; B5 is due. -/
  | atB5
deriving DecidableEq, Repr

/-- A RUN in progress (R369, R380): its ticket, the steps still to complete, the step in progress or due, and its first GO. -/
structure Run where
  num     : Nat
  left    : Nat
  step    : Nat
  stage   : Stage
  fresh   : Bool
  started : Bool
  /-- The moment at which B5 became due (R403). -/
  dueAt   : Nat
  /-- An update engine of the partition has applied a batt in the step (R414). -/
  applied : Bool
deriving DecidableEq, Repr

/-- Twin states, in the order of their codes (R421). -/
inductive TwinSt where
  | unpaired | paired | solo | fenced | waitRejoin | rebuild
deriving DecidableEq, Repr

/-- Twin operation of a slot (R399 to R403, R409 to R416, R421, R422). -/
structure Twin where
  st       : TwinSt
  /-- s_p; none until a step starts after pairing (R402). -/
  pairStep : Option Nat
  /-- The verified bound V (R402). -/
  v        : Int
  own      : List (Nat × W64)
  theirs   : List (Nat × W64)
  helloOn  : List Nat
  recov    : Bool
  cause    : BitVec 4
  r        : Nat
  gen      : Nat
  target   : Option Nat
  /-- The partition has stopped, and the moment of the latest change of GEN or T (R411). -/
  stopped  : Bool
  changed  : Nat
  /-- Step, own and partner's first digest of the latest MISMATCH recovery (R413). -/
  first    : Option (Nat × W64 × W64)
  /-- CLUSTER_KATs of R413 still to run, and whether one has failed. -/
  kats     : Option (List (Fin 64) × Bool)
  /-- J of a rebuild (R415). -/
  j        : Option Nat
  ckint    : BitVec 16
  silence  : BitVec 16
  /-- The moment of the latest REBUILD sent (R415). -/
  rebuiltAt : Option Nat
  /-- A recovery of this partition has ended in a COLL_TIMEOUT once already (R415). -/
  timedOut : Bool
deriving DecidableEq, Repr

/-- A buddy slot of this partition in the peer's region (R406, R407). -/
structure BuddySlot where
  step     : Nat
  complete : Bool
  agreed   : Bool
  solo     : Bool
deriving DecidableEq, Repr

/-- A checkpoint being streamed: the ticket it answers, its target (a buddy slot, or an address in memory), its step, and the
bytes and poisoned granules of the shard state as they stood at B4 (R240, R407). -/
structure CkStream where
  ticket : Option Nat
  memory : Option Nat
  slot   : Nat
  step   : Nat
  shard  : Marked
deriving DecidableEq, Repr

/-- Checkpoints of a slot (R404 to R408, R423). -/
structure Ckpt where
  /-- The peer hosts the two slots (R406). -/
  hosted : Bool
  asked  : Bool
  slots  : Vector (Option BuddySlot) 2
  stream : Option CkStream
  handle : W64
  /-- Memory checkpoints that are COMPLETE: address, step, AGREED (R407). -/
  mems   : List (Nat × Nat × Bool)
  /-- Regions this slot's owner range hosts for a peer: port, range offset, length (R406). -/
  hosts  : List (Nat × Nat × Nat)
deriving DecidableEq, Repr

/-- An armed or delivering DUMP (R513 to R515). -/
structure DumpJob where
  num   : Nat
  entry : Bytes
  step  : Nat
  dest  : Nat
  /-- The capture has been made: data bytes and poisoned granules. -/
  taken : Option (Bytes × List Nat)
deriving DecidableEq, Repr

/-- Counters, dump and drain of a slot (R506 to R515, R523). -/
structure Obs where
  live    : Vector W64 96
  closed  : Vector W64 96
  tag     : W64
  gen     : W64
  /-- NUM of the RUN whose work the live half counts (R508). -/
  liveNum : W64
  dumpOut : W64
  dumpLen : W64
  drain   : W64
  drainHd : W64
  dump    : Option DumpJob
deriving DecidableEq, Repr

/-- A CLUSTER_KAT that waits for a slack window or for B3 (R392): the ticket or the management request that it answers; the number by which the request names the cluster, and the cluster; the deadline (ns); ALLOW_STEP; the step and index of the window that a
deferral token names; and whether its window has opened or its B3 has come. -/
structure KatWait where
  ticket   : Option Nat
  mgmt     : Option MgmtReq
  target   : Nat
  cluster  : Fin 64
  deadline : Nat
  allow    : Bool
  token    : Option (Nat × Nat)
  ready    : Bool
deriving DecidableEq, Repr

/-- One of the eight partition slots. -/
structure Slot where
  st      : PState
  /-- The state it parked from (R380). -/
  parkFrom : PState
  img     : Option Img
  asg     : Assign
  led     : Ledger
  run     : Option Run
  twin    : Twin
  ck      : Ckpt
  obs     : Obs
  /-- A lapse waits for the boundary (R379). -/
  parking : Bool
  /-- A PAUSE accepted and not yet at its pause point: its ticket number (R380). -/
  pauseNum : Option Nat
  kat     : List KatWait
  /-- Logical clusters with an open slack window, and the moment it closes (R392). -/
  slack   : List (Nat × Nat)
  /-- Wake-hint entries whose trigger has occurred and whose delay runs (R448). -/
  hints   : List Nat
deriving DecidableEq, Repr

def Assign.none : Assign := { cmap := [], spares := [], spine0 := (0, 0), spine1 := (0, 0) }

/-- A ledger after a cold reset (R393, R395, R396). -/
def Ledger.reset : Ledger :=
  { base := 0, head := 0, high := 0, epoch := 0, step := 0, claimed := false, live := false, lease := 0, leaseAt := 0,
    rejects := 0, repeats := 0, queue := [], stored := [], badReads := 0 }

/-- Twin registers after a cold reset (R421, R422). -/
def Twin.reset : Twin :=
  { st := .unpaired, pairStep := none, v := -1, own := [], theirs := [], helloOn := [], recov := false, cause := 0, r := 0, gen := 0,
    target := none, stopped := false, changed := 0, first := none, kats := none, j := none, ckint := 0, silence := 0x01F4,
    rebuiltAt := none, timedOut := false }

def Ckpt.reset : Ckpt :=
  { hosted := false, asked := false, slots := Vector.replicate 2 none, stream := none, handle := 0, mems := [], hosts := [] }

/-- Counters and debug registers after a cold reset (R523). -/
def Obs.reset : Obs :=
  { live := Vector.replicate 96 0, closed := Vector.replicate 96 0, tag := 0, gen := 0, liveNum := 0, dumpOut := 0, dumpLen := 0, drain := 9,
    drainHd := 0, dump := none }

def Slot.reset : Slot :=
  { st := .empty, parkFrom := .empty, img := none, asg := Assign.none, led := Ledger.reset, run := none, twin := Twin.reset,
    ck := Ckpt.reset, obs := Obs.reset, parking := false, pauseNum := none, kat := [], slack := [], hints := [] }

end Sys2Proof.Machine
end

