-- ==== Sys2Proof/Machine/PowerState.lean ====
section
/-! DEFINITION. The state of clocks, power domains and throttling (chapter 17 of the manual). -/

namespace Sys2Proof.Machine

/-- Clocks (R434 to R442, R458 to R460). Vectors over clocks are in the order ARR, FAB, CTL, APP. -/
structure Clk where
  /-- COOL[1:0] as latched at the cold reset; none until stage 0 has latched it (R21, R319). -/
  cool      : Option (BitVec 2)
  /-- The current reference of each clock; CLK_SEL's fields name the same (R438). -/
  src       : Vector (BitVec 2) 4
  /-- The switch in progress: clock and target (R438). -/
  switching : Option (Clock × BitVec 2)
  holdover  : Vector Bool 4
  refused   : Bool
  lost      : Bool
  readyL    : Bool
  readyP    : Bool
  readyA    : Bool
  auto      : Bool
  en        : BitVec 7
  autoEn    : BitVec 7
  time      : W64
  /-- Correction towards the primary peer still to be slewed, in ns (R441). -/
  slew      : Int
  switches  : W64
  /-- Each fast clock runs (R437): ARR of die 0, ARR of die 1, FAB, CTL, APP. -/
  run       : Vector Bool 5
deriving DecidableEq, Repr

/-- Power management (R443 to R456, R460 to R462). Power is in mW and the bucket in nJ. -/
structure Pwr where
  on        : BitVec 96
  /-- Domains that something has asked to be powered (R355, R414, R448, R461) and that have not come up. -/
  want      : BitVec 96
  throttle  : Bool
  bucket    : Nat
  p1        : Nat
  /-- The hardware limit of R454 holds clusters frozen. -/
  hwActive  : Bool
  /-- PWR_STATUS.HWLIM and PWR_STATUS.TRIP, which stay until 1 is written (R460). -/
  hwLim     : Bool
  trip      : Bool
  pfault    : Bool
  /-- Tripped scopes: 0 and 1 compute dies, 2 and 3 link dies, 4 control die (R455, R540). -/
  scopes    : List Nat
  app1      : Bool
  temp      : BitVec 16
  tempCl    : BitVec 6
  throttled : W64
  /-- Rotating pointer of R453. -/
  ptr       : Fin 64
  /-- Clusters held frozen by throttle, with the moment of their freeze (R453). -/
  held      : List (Fin 64 × Nat)
  /-- Hot clusters, with the moment at which the current 8 µs interval began (R455). -/
  hot       : List (Fin 64 × Nat)
  /-- d_c of each cluster (R453). -/
  dyn       : Vector Nat 64
  /-- Moments of power-ups of CL_, SP_ and UE_ domains in the last 2 µs (R444). -/
  starts    : List Nat
  /-- The moment at which the last CL_ or SP_ domain of a die went down (R437). -/
  idleAt    : Vector (Option Nat) 2
  /-- The latest sensor readings (R455). -/
  sensors   : List (Sensor × Int)
deriving DecidableEq, Repr

/-- Clocks after a cold reset (R458 to R460). -/
def Clk.reset : Clk :=
  { cool := none, src := Vector.replicate 4 0, switching := none, holdover := Vector.replicate 4 false, refused := false, lost := false,
    readyL := false, readyP := false, readyA := false, auto := true, en := 0b0111110, autoEn := 0, time := 0, slew := 0, switches := 0,
    run := Vector.replicate 5 false }

/-- Power after a cold reset (R460 to R462): AO_0, AO_1 and CAO are on. -/
def Pwr.reset : Pwr :=
  { on := 1 <<< 66 ||| 1 <<< 67 ||| 1 <<< 93, want := 0, throttle := false, bucket := 0, p1 := 0, hwActive := false, hwLim := false, trip := false,
    pfault := false, scopes := [], app1 := false, temp := 0, tempCl := 0, throttled := 0, ptr := 0, held := [], hot := [],
    dyn := Vector.replicate 64 0, starts := [], idleAt := Vector.replicate 2 none, sensors := [] }

end Sys2Proof.Machine
end

