-- ==== Sys2Proof/Machine/SecState.lean ====
section
/-! DEFINITION. The state of the security island and of the identity flash (chapter 18 of the manual). -/

namespace Sys2Proof.Machine

/-- Whose key a certificate of SPDM slot 0 certifies (R469). -/
inductive CertName where
  | root
  | partCa
  | idk
  | bootKeys
deriving DecidableEq, Repr

/-- A certificate of the chain (R469): the subject whose keys it carries, the issuer whose keys sign it, and the number under which its free
parts stand. -/
structure Cert where
  subject : CertName
  issuer  : CertName
  num     : Nat
deriving DecidableEq, Repr

/-- The identity flash and its replay-protected counters (R465 to R467, R476); they survive every reset. The copies of the
owner record are 2,272 bytes with their HMAC (R476). -/
structure Flash where
  marker  : Bool
  helperA : Bool
  helperB : Bool
  ownerA  : Option Bytes
  ownerB  : Option Bytes
  /-- Bytes 0 to 127 of the part record, then its trims (R360). -/
  part    : Bytes
  /-- The identity certificate chain that Skezel writes at test (R465, R469). -/
  chain   : List Cert
  rpmc0   : W32
  rpmc1   : W32
deriving DecidableEq, Repr

/-- A tenant bound to a slot: the digest of its key, its ECDSA public key, TBS and the keys derived from it (R468, R478). -/
structure Tenant where
  keyDigest : Bytes
  pub       : Bytes
  tbs       : Bytes
  kAuth     : Bytes
  kDump     : Bytes
deriving DecidableEq, Repr

/-- An SPDM session (R470): number, role, the brim port that carries it, whether a signed response awaits PQ_SIG (R472), and its key and salt
per direction (R468). -/
structure Session where
  id     : Nat
  role   : Role
  port   : Option (Fin 16)
  signed : Bool
  txKey  : FlitKey
  rxKey  : FlitKey
deriving DecidableEq, Repr

/-- An alarm in effect: sensor code (0 for a firmware alarm), level, and the moment at which it was raised (R483). -/
structure AlarmOn where
  sensor : Nat
  level  : Nat
  since  : Nat
deriving DecidableEq, Repr

/-- An open debug token (R480, R481): tenant slot or none for the owner, scope, and the moment its life ends. -/
structure DbgOpen where
  slot  : Option (Fin 8)
  scope : BitVec 4
  endAt : Nat
deriving DecidableEq, Repr

/-- The security island (R463 to R489). -/
structure Sec where
  flash    : Flash
  /-- Bytes 0 to 2,223 of the owner record accepted at this boot or written since (R476). -/
  owner    : Option Bytes
  bootC    : BitVec 16
  authFail : W32
  /-- Moments of authentication failures within the last 60 s (R482). -/
  authAt   : List Nat
  alarms   : List AlarmOn
  seen     : BitVec 6
  cfg      : BitVec 18
  zdone    : Bool
  highest  : Nat
  grants   : Vector (Option Bytes) 8
  tenants  : Vector (Option Tenant) 8
  sessions : List Session
  nextSess : Nat
  dbg      : List DbgOpen
  nonce    : BitVec 128
  /-- Measurement registers that extend: index 2, partitions, debug (R473). -/
  meas2    : Bytes
  measP    : Vector Bytes 8
  meas14   : Bytes
  /-- BAK-E, BAK-H and the DRBG are usable (R468, R483), and the signatures BAK-H has made. -/
  bak      : Bool
  bakUsed  : Nat
  /-- The certificate of BAK-E and BAK-H, made in stage 2 (R468, R469). -/
  bakCert  : Option Cert
deriving DecidableEq, Repr

/-- Part record of a KY7-F64, revision A0, generation 1 (R360). Which part is modelled is a DESIGN CHOICE (log entry 6). -/
def partF64 : Bytes :=
  [0x4B, 0x59, 0x50, 0x52, 1, 0, 0, 0x10] ++ List.replicate 8 0xFF ++ List.replicate 24 0 ++ [1] ++ List.replicate 87 0

/-- The chain as Skezel writes it: the root, the part CA and the identity keys (R468, R469). -/
def madeChain : List Cert := [⟨.root, .root, 0⟩, ⟨.partCa, .root, 1⟩, ⟨.idk, .partCa, 2⟩]

/-- The certificate of the boot keys of the boot with counter value c: IDK-E and IDK-H sign it (R468, R469). -/
def bootCert (c : Nat) : Cert := ⟨.bootKeys, .idk, 3 + c⟩

/-- The identity flash as the part is delivered: unowned (DESIGN CHOICE, log entry 6). -/
def Flash.made : Flash :=
  { marker := true, helperA := true, helperB := true, ownerA := none, ownerB := none, part := partF64, chain := madeChain, rpmc0 := 0, rpmc1 := 0 }

/-- The security island after a cold reset (R473, R486 to R489), with the flash it finds. -/
def Sec.reset (f : Flash) : Sec :=
  { flash := f, owner := none, bootC := 0, authFail := 0, authAt := [], alarms := [], seen := 0, cfg := 0b010010011010010010,
    zdone := false, highest := 0, grants := Vector.replicate 8 none, tenants := Vector.replicate 8 none, sessions := [], nextSess := 1,
    dbg := [], nonce := 0, meas2 := List.replicate 48 0, measP := Vector.replicate 8 (List.replicate 48 0),
    meas14 := List.replicate 48 0, bak := false, bakUsed := 0, bakCert := none }

end Sys2Proof.Machine
end

