-- ==== Sys2Proof/Machine/State.lean ====
section
/-! DEFINITION. The state of the KY7 block: everything the manual gives it, as plain data, the queue of waiting commands, and the
state right after a cold reset has begun. -/

namespace Sys2Proof.Machine

/-- A trouble-log entry (R516). -/
structure LogEntry where
  time    : Nat
  source  : BitVec 16
  event   : BitVec 16
  part    : BitVec 4
  sev     : BitVec 4
  seq     : BitVec 24
  payload : Bytes
deriving DecidableEq, Repr

/-- The trouble log (R516, R523): the retained entries by slot, the entries appended and suppressed, and the time of the latest
logged entry of every rate-limited event and subject. -/
structure Log where
  entries : List (Nat × LogEntry)
  count   : W64
  supp    : W64
  last    : List ((Nat × Nat) × Nat)
deriving DecidableEq, Repr

/-- What leaves the package or answers a requester. -/
inductive OutKind where
  | read | flit | frame | udp | mgmt | spdm | uart | i3c | hostFrame | bulk
deriving DecidableEq, Repr

/-- One output of the latest command (log entry 2): its kind, where it goes (port, session or status, by kind), and its bytes. -/
structure Out where
  kind : OutKind
  dest : Nat
  data : Bytes
deriving DecidableEq, Repr

/-- A pending lower half (R11): register address, requester, value. -/
structure LowHalf where
  addr : Nat
  who  : Requester
  val  : W32
deriving DecidableEq, Repr

/-- The state of the block. -/
structure State where
  /-- Commands waiting, first in first out (log entry 1). -/
  pending  : List Instr
  /-- Nanoseconds since the cold reset (R321). -/
  now      : Nat
  /-- The MODEL's counter that numbers free values (log entry 4). -/
  free     : Nat
  /-- What the latest command sent or answered (log entry 2). -/
  out      : List Out
  low      : List LowHalf
  clk      : Clk
  pwr      : Pwr
  boot     : Boot
  net      : Net
  sched    : Sched
  sec      : Sec
  mem      : Mem
  clusters : Vector Cluster 64
  spines   : Vector Sram 2
  /-- Control SRAM from offset 0x20_0000 on; its first 2 MiB are the trouble log (R321). -/
  ctl      : Sram
  log      : Log
  ports    : Vector Port 16
  links    : Vector LinkL 16
  cols     : Vector Col 4
  ues      : Vector Ue 4
  slots    : Vector Slot 8
  /-- The global counter bank (R507). -/
  gbank    : Vector W64 96
  meter    : Meter
deriving DecidableEq, Repr

/-- No command of the KY7 stops the block: the manual gives each event an outcome. So no constructor. -/
inductive Fault where
deriving DecidableEq, Repr

/-- Why a command has no meaning in the model. -/
inductive Refusal where
  /-- Raised by exec's arm of a command that has no meaning yet. Safe: nothing is claimed of it. -/
  | notModelled (mnemonic : String)
deriving DecidableEq, Repr

def Log.reset : Log := { entries := [], count := 0, supp := 0, last := [] }

/-- The package right after a cold reset has begun, with the flash and the meter die it finds (R318, R520): every register at its
reset value, memory with nothing listed, no command waiting. -/
def State.cold (f : Flash) (m : MeterDie) : State :=
  { pending := [], now := 0, free := 0, out := [], low := [], clk := Clk.reset, pwr := Pwr.reset, boot := Boot.reset, net := Net.reset,
    sched := Sched.reset, sec := Sec.reset f, mem := Mem.reset, clusters := Vector.replicate 64 Cluster.reset,
    spines := Vector.replicate 2 Sram.empty, ctl := Sram.empty, log := Log.reset, ports := Vector.replicate 16 Port.reset,
    links := Vector.replicate 16 LinkL.reset, cols := Vector.replicate 4 Col.reset, ues := Vector.replicate 4 Ue.reset,
    slots := Vector.replicate 8 Slot.reset, gbank := Vector.replicate 96 0, meter := { die := m, win := MeterWin.reset } }

/-- The machine right after reset: a part as delivered, at its first cold reset (log entries 3 and 6). -/
def State.reset : State := State.cold Flash.made MeterDie.made

end Sys2Proof.Machine
end

