-- ==== Sys2Proof/Machine/Ops.lean ====
section
/-! DEFINITION. The named operations that the commands share: time, outputs, the trouble log, power, main memory and the device
address space, partition addresses, counters. -/

namespace Sys2Proof.Machine

/-- What a meaning answers. -/
abbrev Answer := Host.Outcome State Fault Refusal

/-- A vector with one element replaced. -/
def vset {α : Type} {n : Nat} (v : Vector α n) (i : Fin n) (x : α) : Vector α n := v.set i.val x i.isLt

/-- Nat subtraction and comparison helpers kept in one place: the moment is at least `d` after `t0`. -/
def elapsed (now t0 d : Nat) : Bool := decide (t0 + d ≤ now)

-- Parts of the state

def State.cl (s : State) (c : Fin 64) : Cluster := s.clusters.get c
def State.setCl (s : State) (c : Fin 64) (x : Cluster) : State := { s with clusters := vset s.clusters c x }
def State.slot (s : State) (p : Fin 8) : Slot := s.slots.get p
def State.setSlot (s : State) (p : Fin 8) (x : Slot) : State := { s with slots := vset s.slots p x }
def State.port (s : State) (p : Fin 16) : Port := s.ports.get p
def State.setPort (s : State) (p : Fin 16) (x : Port) : State := { s with ports := vset s.ports p x }
def State.link (s : State) (p : Fin 16) : LinkL := s.links.get p
def State.setLink (s : State) (p : Fin 16) (x : LinkL) : State := { s with links := vset s.links p x }
def State.col (s : State) (e : Fin 4) : Col := s.cols.get e
def State.setCol (s : State) (e : Fin 4) (x : Col) : State := { s with cols := vset s.cols e x }
def State.ue (s : State) (e : Fin 4) : Ue := s.ues.get e
def State.setUe (s : State) (e : Fin 4) (x : Ue) : State := { s with ues := vset s.ues e x }
def State.mg (s : State) (g : Fin 8) : Mg := s.mem.mgs.get g
def State.setMg (s : State) (g : Fin 8) (x : Mg) : State := { s with mem := { s.mem with mgs := vset s.mem.mgs g x } }

-- Time (R441, R516)

/-- CLK_TIME after `dt` ns, slewed towards the peer by at most 1 ns per µs and never backwards (R441). -/
def Clk.advance (k : Clk) (dt : Nat) : Clk :=
  let lim : Int := ((dt / 1000 : Nat) : Int)
  let c : Int := max (-lim) (min lim k.slew)
  { k with time := BitVec.ofNat 64 (k.time.toNat + ((dt : Int) + c).toNat), slew := k.slew - c }

/-- The arrival of a command at moment `t` (log entry 2): time advances and never goes back; the outputs of the previous command
are gone. -/
def tick (t : Nat) (s : State) : State :=
  { s with now := max s.now t, clk := s.clk.advance (max s.now t - s.now), out := [] }

def emit (s : State) (k : OutKind) (dest : Nat) (data : Bytes) : State :=
  { s with out := s.out ++ [{ kind := k, dest := dest, data := data }] }

/-- A fresh number for a free value (log entry 4). -/
def State.fresh (s : State) : Nat × State := (s.free, { s with free := s.free + 1 })

-- Trouble log (R516 to R518)

/-- 16 payload bytes from fields given as offset, width in bytes, value; bytes not named are 0 (R516). -/
def payload (fs : List (Nat × Nat × Nat)) : Bytes :=
  (fs.foldl (fun (b : Bytes) f => patchB b f.1 (natLe f.2.1 f.2.2)) (zeroB 16)).take 16

/-- Severity of an event: 0 for the trace points 0x7F00 to 0x7FFF (R387); R516 assigns none to the other events, so theirs is free (log entry 7). -/
def severityOf (event : Nat) : BitVec 4 := if 0x7F00 ≤ event ∧ event < 0x8000 then 0 else Config.severity event

/-- Appends an entry (R516). The log is recorded from stage 1 of start-up onward (R321). -/
def logEv (s : State) (source event part : Nat) (pl : Bytes) : State :=
  if s.boot.stage = 0 then s else
  let q := s.log.count.toNat
  let e : LogEntry :=
    { time := s.now, source := BitVec.ofNat 16 source, event := BitVec.ofNat 16 event, part := BitVec.ofNat 4 part,
      sev := severityOf event, seq := BitVec.ofNat 24 q, payload := pl }
  { s with log := { s.log with entries := alPut s.log.entries (q % 65536) (some e), count := s.log.count + 1 } }

/-- The last time an event was logged for a subject. -/
def lastLogged : List ((Nat × Nat) × Nat) → Nat × Nat → Option Nat
  | [], _ => none
  | (k, t) :: r, q => if k = q then some t else lastLogged r q

/-- A rate-limited event: logged unless an entry of the same event and subject lies within the preceding `ms` milliseconds;
otherwise it is counted as suppressed (R516). -/
def logRated (s : State) (ms source event part subject : Nat) (pl : Bytes) : State :=
  let again : Bool := match lastLogged s.log.last (event, subject) with
    | none => true
    | some t => elapsed s.now t (ms * 1000000)
  if again then
    let s1 := logEv s source event part pl
    { s1 with log := { s1.log with last := ((event, subject), s.now) :: s1.log.last.filter (fun x => x.1 != (event, subject)) } }
  else { s with log := { s.log with supp := s.log.supp + 1 } }

/-- The 32 bytes of an entry in the log window (R516). -/
def LogEntry.bytes (e : LogEntry) : Bytes :=
  natLe 8 e.time ++ natLe 2 e.source.toNat ++ natLe 2 e.event.toNat ++ natLe 1 (e.sev.toNat * 16 + e.part.toNat) ++
    natLe 3 e.seq.toNat ++ sliceB e.payload 0 16

/-- A byte of the trouble log's region of the control SRAM (R321, R519). -/
def logByte (s : State) (off : Nat) : Byte :=
  match alGet s.log.entries (off / 32) with
  | none => 0
  | some e => e.bytes.getD (off % 32) 0

-- Power domains (R27, R452)

def domOn (s : State) (i : Nat) : Bool := s.pwr.on.getLsbD i
def clOn (s : State) (c : Fin 64) : Bool := domOn s c.val
def spOn (s : State) (d : Fin 2) : Bool := domOn s (64 + d.val)
def mgOn (s : State) (g : Fin 8) : Bool := domOn s (68 + g.val)
def lgOn (s : State) (p : Fin 16) : Bool := domOn s (76 + p.val / 2)
def ueOn (s : State) (e : Fin 4) : Bool := domOn s (84 + e.val)

/-- One domain bit set or cleared. -/
def setDom (b : BitVec 96) (i : Nat) (on : Bool) : BitVec 96 :=
  if on then b ||| (1#96 <<< i) else b &&& ~~~(1#96 <<< i)

/-- Frequency of the array clock in MHz (R21); 0 while no class is latched or the class is invalid. -/
def arrMHz (s : State) : Nat :=
  match s.clk.cool with
  | some 0 => 2000
  | some 1 => 2900
  | some 2 => 3600
  | _ => 0

/-- Array cycles that elapse in `ns` nanoseconds. -/
def cycIn (s : State) (ns : Nat) : Nat := ns * arrMHz s / 1000

/-- Array cycles for which cluster c has been frozen, the freeze in progress included (R114, R121). -/
def frozenCyc (s : State) (c : Fin 64) : Nat :=
  let k := s.cl c
  k.cnt.frozen.toNat + if k.frozen then cycIn s s.now - cycIn s k.frzAt else 0

/-- The advancing array cycle of cluster c now (R93: all counts are of advancing cycles). -/
def arrCyc (s : State) (c : Fin 64) : Nat := cycIn s s.now - frozenCyc s c

-- Main memory (R235 to R247)

def dramEnd : Nat := 0x30000000000

/-- Bytes of an owner range (R235). -/
def Owner.size (o : Owner) : Nat := o.chans.length * 2 ^ 34

/-- The owner whose range covers a device physical address of main memory. -/
def ownerOf (m : Mem) (a : Nat) : Option (Fin 9 × Owner) :=
  (List.finRange 9).findSome? (fun i => match m.owners.get i with
    | some o => if o.base ≤ a ∧ a < o.base + o.size then some (i, o) else none
    | none => none)

/-- Channel and channel offset of an offset in an owner range (R237). -/
def locate (chans : List Nat) (A : Nat) : Nat × Nat :=
  let D := chans.length
  let u := A / 256
  let q := u / D
  let r := u % D
  let h := (q ^^^ (q / 2 ^ 5) ^^^ (q / 2 ^ 11) ^^^ (q / 2 ^ 17)) % 2 ^ 16
  (chans.getD ((r + h) % D) 0, q * 256 + A % 256)

/-- The offset in the owner range that lies at an offset of a data channel: the inverse of R237. -/
def unlocate (chans : List Nat) (c off : Nat) : Option Nat :=
  let D := chans.length
  match chans.idxOf? c with
  | none => none
  | some i =>
    let q := off / 256
    let h := (q ^^^ (q / 2 ^ 5) ^^^ (q / 2 ^ 11) ^^^ (q / 2 ^ 17)) % 2 ^ 16
    some ((q * D + (i + D - h % D) % D) * 256 + off % 256)

def chanOf (m : Mem) (c : Nat) : Chan :=
  if h : c / 24 < 8 then (m.mgs[c / 24]).chans[c % 24]'(Nat.mod_lt _ (by decide)) else Chan.reset

def pgrpOf (m : Mem) (c : Nat) : Pgrp :=
  if h : c / 24 < 8 then (m.mgs[c / 24]).pgrps[c / 12 % 2]'(Nat.mod_lt _ (by decide)) else Pgrp.reset

/-- Whether channel c answers reads and writes only with poison and loss: it has failed in a group without parity, or its group is
LOST and it is one of the failed channels (R243, R244); or it is off. -/
def chanLost (m : Mem) (c : Nat) : Bool :=
  let g := pgrpOf m c
  if g.enabled then g.state == 3 && g.lostSet.contains (c % 12) else (chanOf m c).state == 0 || (chanOf m c).state == 3

/-- How a main-memory address reads: not covered by an owner range, keys zeroised, lost, or stored under key installation k. -/
inductive DramAt where
  | nowhere
  | zeroised
  | lost
  | held (k : Nat)
deriving DecidableEq, Repr

def dramAt (m : Mem) (a : Nat) : DramAt :=
  match ownerOf m a with
  | none => .nowhere
  | some (_, o) =>
    match o.key with
    | none => .zeroised
    | some k => if chanLost m (locate o.chans (a - o.base)).1 then .lost else .held k.num

/-- One byte of main memory (R25, R243, R247). -/
def dramGet (m : Mem) (a : Nat) : Byte :=
  match dramAt m a with
  | .nowhere => 0
  | .zeroised => 0
  | .lost => Config.lostByte 0 a
  | .held k => (alGet m.cells a).getD (Config.unwrittenByte k a)

/-- The poison flag of the granule of an address (R239, R243, R247). -/
def dramPoi (m : Mem) (a : Nat) : Bool :=
  match dramAt m a with
  | .nowhere => false
  | .zeroised => true
  | .lost => true
  | .held _ => nsMem m.poison (a / 32)

/-- Carries out writes to main memory: those to covered, keyed and reachable granules take effect, the others are dropped (R239,
R240, R243). -/
def Mem.commit (m : Mem) (ws : List WByte) : Mem :=
  let l := gather (ws.filter (fun w => match dramAt m w.addr with
    | .held _ => true
    | _ => false))
  { m with
    cells := l.foldl (fun (t : List Host.Cell) w => alPut t w.1 (some w.2.1)) m.cells
    poison := (unitsTouched 32 l).foldl (fun (t : List Nat) u => nsSet t u (unitFlag 32 u (nsMem m.poison u) l)) m.poison }

/-- The bytes and flags of an owner range forgotten, as new keys leave it (R247). -/
def Mem.forget (m : Mem) (base size : Nat) : Mem :=
  { m with
    cells := m.cells.filter (fun x => !(decide (base ≤ x.1) && decide (x.1 < base + size)))
    poison := m.poison.filter (fun g => !(decide (base / 32 ≤ g) && decide (g < (base + size) / 32))) }

-- The device address space (R23, R24)

def winBase : Nat := 0x400000000000
def spineBase : Nat := 0x410000000000
def spineSize : Nat := 0x4000000
def ctlBase : Nat := 0x700000000000
def ctlSize : Nat := 0x800000
def csrBase : Nat := 0x7F0000000000
def csrSize : Nat := 0x8000000

/-- The regions that hold bytes. -/
inductive Loc where
  | dram (a : Nat)
  | ops (c : Fin 64) (off : Nat)
  | bankA (c : Fin 64) (off : Nat)
  | bankB (c : Fin 64) (off : Nat)
  | trace (c : Fin 64) (off : Nat)
  /-- Reserved bytes of a cluster window (R18). -/
  | hole (c : Fin 64)
  | spine (d : Fin 2) (off : Nat)
  | ctl (off : Nat)
  | csr (off : Nat)
  | unmapped
deriving DecidableEq, Repr

/-- The part of a cluster window that an offset falls in (chapter 1, the cluster; R18). -/
def winLoc (c : Fin 64) (off : Nat) : Loc :=
  if off < 0xA00000 then .ops c off
  else if off < 0xB00000 then .bankA c (off - 0xA00000)
  else if off < 0xC00000 then .bankB c (off - 0xB00000)
  else if off < 0xC04000 then .trace c (off - 0xC00000)
  else .hole c

def locOf (a : Nat) : Loc :=
  if a < dramEnd then .dram a
  else if a < winBase then .unmapped
  else if h : (a - winBase) / 0x1000000 < 64 then winLoc ⟨(a - winBase) / 0x1000000, h⟩ ((a - winBase) % 0x1000000)
  else if a < spineBase then .unmapped
  else if a < spineBase + spineSize then .spine 0 (a - spineBase)
  else if a < spineBase + 2 * spineSize then .spine 1 (a - spineBase - spineSize)
  else if ctlBase ≤ a ∧ a < ctlBase + ctlSize then .ctl (a - ctlBase)
  else if csrBase ≤ a ∧ a < csrBase + csrSize then .csr (a - csrBase)
  else .unmapped

/-- One byte at a device physical address, CSR space apart (R17, R18, R25). -/
def devGet (s : State) (a : Nat) : Byte :=
  match locOf a with
  | .dram x => dramGet s.mem x
  | .ops c o => if clOn s c then (s.cl c).ops.get o else 0
  | .bankA c o => if clOn s c then (s.cl c).bankA.get o else 0
  | .bankB c o => if clOn s c then (s.cl c).bankB.get o else 0
  | .trace c o => if clOn s c then (s.cl c).trace.get o else 0
  | .hole _ => 0
  | .spine d o => if spOn s d then (s.spines.get d).get o else 0
  | .ctl o => if o < 0x200000 then logByte s o else s.ctl.get o
  | .csr _ => 0
  | .unmapped => 0

/-- The poison flag of the granule that holds a device physical address; a granule of a bank reads as poisoned when any element it covers
is (R60, R77, R240). -/
def devPoi (s : State) (a : Nat) : Bool :=
  match locOf a with
  | .dram x => dramPoi s.mem x
  | .ops c o => clOn s c && nsMem (s.cl c).ops.poison (o / 32)
  | .bankA c o => clOn s c && (s.cl c).bankA.poisoned 4 (o / 32 * 32) 32
  | .bankB c o => clOn s c && (s.cl c).bankB.poisoned 4 (o / 32 * 32) 32
  | .trace _ _ => false
  | .hole _ => false
  | .spine d o => spOn s d && nsMem (s.spines.get d).poison (o / 32)
  | .ctl _ => false
  | .csr _ => false
  | .unmapped => false

def devRead (s : State) (a n : Nat) : Bytes := (span a n).map (devGet s)

def devPoiAny (s : State) (a n : Nat) : Bool := (span a n).any (devPoi s)

/-- Whether a block of the banks belongs to a compensated accumulation (R78, R99). -/
def Plank.wide (k : Plank) (b : Nat) : Bool :=
  match alGet k.claims b with
  | some c => c.comp
  | none => false

/-- Writes that fall in one cluster's stores; the trace buffer and reserved bytes take none (R18, R510). -/
def clCommit (k : Cluster) (c : Fin 64) (ws : List WByte) : Cluster :=
  let pick (f : Loc → Option Nat) : List WByte := ws.filterMap (fun w => (f (locOf w.addr)).map (fun o => { w with addr := o }))
  { k with
    ops := k.ops.commit 32 (pick (fun l => match l with | .ops d o => if d = c then some o else none | _ => none))
    bankA := k.bankA.commitBank k.plk.wide (pick (fun l => match l with | .bankA d o => if d = c then some o else none | _ => none))
    bankB := k.bankB.commitBank k.plk.wide (pick (fun l => match l with | .bankB d o => if d = c then some o else none | _ => none)) }

/-- The cluster whose window an address lies in. -/
def locCl : Loc → Option (Fin 64)
  | .ops c _ | .bankA c _ | .bankB c _ => some c
  | _ => none

/-- Carries out writes at device physical addresses (R17, R239, R240). CSR space and the trouble log take none here. -/
def devCommit (s : State) (ws : List WByte) : State :=
  let d := ws.filter (fun w => decide (w.addr < dramEnd))
  let cs := (ws.filterMap (fun w => locCl (locOf w.addr))).eraseDups
  let sp (i : Fin 2) : List WByte := ws.filterMap (fun w => match locOf w.addr with
    | .spine j o => if j = i then some { w with addr := o } else none
    | _ => none)
  let ct := ws.filterMap (fun w => match locOf w.addr with
    | .ctl o => if o < 0x200000 then none else some { w with addr := o, poi := false }
    | _ => none)
  let s1 := { s with mem := s.mem.commit d }
  let s2 := cs.foldl (fun (t : State) c => if clOn t c then t.setCl c (clCommit (t.cl c) c ws) else t) s1
  let s3 := (List.finRange 2).foldl (fun (t : State) i =>
    if spOn t i && !(sp i).isEmpty then { t with spines := vset t.spines i ((t.spines.get i).commit 32 (sp i)) } else t) s2
  { s3 with ctl := s3.ctl.commit 32 ct }

def devWrite (s : State) (a : Nat) (b : Bytes) (poi : Bool) : State := devCommit s (wbytes a b poi)

/-- The blocks of CSR space (R24), with the offset within the block; collective and update engines are one block each. -/
inductive CsrLoc where
  | glob (o : Nat)
  | cl (c : Fin 64) (o : Nat)
  | mg (g : Fin 8) (o : Nat)
  | port (q : Fin 16) (o : Nat)
  | col (o : Nat)
  | upd (o : Nat)
  | sec (o : Nat)
  | meter (o : Nat)
  | dbg (o : Nat)
  /-- Covered by no block (R25). -/
  | miss
deriving DecidableEq, Repr

def csrLoc (off : Nat) : CsrLoc :=
  if off < 0x1000000 then .glob off
  else if h : 0x1000000 ≤ off ∧ (off - 0x1000000) / 0x10000 < 64 then .cl ⟨(off - 0x1000000) / 0x10000, h.2⟩ (off % 0x10000)
  else if off < 0x2000000 then .miss
  else if h : (off - 0x2000000) / 0x100000 < 8 then .mg ⟨(off - 0x2000000) / 0x100000, h⟩ (off % 0x100000)
  else if off < 0x3000000 then .miss
  else if h : (off - 0x3000000) / 0x10000 < 16 then .port ⟨(off - 0x3000000) / 0x10000, h⟩ (off % 0x10000)
  else if off < 0x3800000 then .miss
  else if off < 0x4000000 then .col (off - 0x3800000)
  else if off < 0x5000000 then .upd (off - 0x4000000)
  else if off < 0x6000000 then .sec (off - 0x5000000)
  else if off < 0x7000000 then .meter (off - 0x6000000)
  else .dbg (off - 0x7000000)

/-- An address that no region, block or owner range covers (R25, R235). -/
def unmapped (s : State) (a : Nat) : Bool :=
  match locOf a with
  | .unmapped => true
  | .dram x => (ownerOf s.mem x).isNone
  | .csr o => csrLoc o == .miss
  | _ => false

/-- DECODE_MISS (R25). -/
def logMiss (s : State) (a : Nat) : State := logEv s 0x0610 0xE021 15 (payload [(0, 8, a)])

/-- DECODE_MISS for an access to n bytes: the first address that nothing covers is logged (R25, log entry 53). -/
def missIn (s : State) (a n : Nat) : State :=
  match (span a n).find? (unmapped s) with
  | some x => logMiss s x
  | none => s

-- Partition addresses (R122, R236)

/-- Whether [a, a + n) meets a region that the partition's range hosts for a peer (R406). -/
def inHosted (s : State) (p : Fin 8) (a n : Nat) : Bool :=
  (s.slot p).ck.hosts.any (fun h => decide (a < h.2.1 + h.2.2) && decide (h.2.1 < a + n))

def partSize (s : State) (p : Fin 8) : Nat :=
  match s.mem.owners.get (p.castLE (by decide)) with
  | none => 0
  | some o => o.size

/-- Whether partition p owns every byte of [a, a + n) of its partition addresses (R143, R236). -/
def partOwns (s : State) (p : Fin 8) (a n : Nat) : Bool :=
  let g := (s.slot p).asg
  if n = 0 then true
  else if a < dramEnd then decide (a + n ≤ partSize s p) && !inHosted s p a n
  else if a < winBase then false
  else if a < spineBase then decide (a + n ≤ winBase + g.cmap.length * 0x1000000)
  else if a < spineBase + spineSize then decide (a + n ≤ spineBase + g.spine0.2)
  else decide (a + n ≤ spineBase + spineSize + g.spine1.2)

/-- The device physical address of a partition address that the partition owns; a DMA or fetch address is checked first. -/
def partAddr (s : State) (p : Fin 8) (a : Nat) : Nat :=
  let g := (s.slot p).asg
  if a < dramEnd then (match s.mem.owners.get (p.castLE (by decide)) with | some o => o.base + a | none => a)
  else if a < spineBase then
    (match g.cmap[(a - winBase) / 0x1000000]? with
    | some c => winBase + c.val * 0x1000000 + (a - winBase) % 0x1000000
    | none => dramEnd)
  else if a < spineBase + spineSize then a + g.spine0.1
  else a + g.spine1.1

/-- One byte at a partition address; a byte that the partition does not own reads as zero (R464). -/
def pGet (s : State) (p : Fin 8) (a : Nat) : Byte := if partOwns s p a 1 then devGet s (partAddr s p a) else 0
def pPoi (s : State) (p : Fin 8) (a : Nat) : Bool := partOwns s p a 1 && devPoi s (partAddr s p a)
def pRead (s : State) (p : Fin 8) (a n : Nat) : Bytes := (span a n).map (pGet s p)
def pPoiAny (s : State) (p : Fin 8) (a n : Nat) : Bool := (span a n).any (pPoi s p)

/-- Writes at partition addresses; those to bytes that the partition does not own have no effect (R464). -/
def pCommit (s : State) (p : Fin 8) (ws : List WByte) : State :=
  devCommit s ((ws.filter (fun w => partOwns s p w.addr 1)).map (fun w => { w with addr := partAddr s p w.addr }))

def pWrite (s : State) (p : Fin 8) (a : Nat) (b : Bytes) (poi : Bool) : State := pCommit s p (wbytes a b poi)

/-- Bytes at partition addresses with the poison flags of their granules, numbered from the first byte (R240). -/
def poisonOf (flags : List Bool) : List Nat := (List.range ((flags.length + 31) / 32)).filter (fun k => ((flags.drop (32 * k)).take 32).any id)
def pReadMarked (s : State) (p : Fin 8) (a n : Nat) : Marked := { bytes := pRead s p a n, poison := poisonOf ((span a n).map (pPoi s p)) }

/-- The writes that put n bytes from offset o of marked bytes at an address, each with its granule's poison (R240). -/
def markedBytes (a : Nat) (m : Marked) (o n : Nat) : List WByte :=
  (sliceB m.bytes o n).zipIdx.map (fun x => { addr := a + x.2, byte := x.1, poi := m.poison.contains ((o + x.2) / 32) })

def pU32 (s : State) (p : Fin 8) (a : Nat) : Nat := leNat (pRead s p a 4)
def pU64 (s : State) (p : Fin 8) (a : Nat) : Nat := leNat (pRead s p a 8)

-- Operation counters (R506, R507)

/-- Adds n to counter k of partition p's live half and of the global bank. -/
def countOp (s : State) (p : Fin 8) (k n : Nat) : State :=
  if h : k < 96 then
    let i : Fin 96 := ⟨k, h⟩
    let o := (s.slot p).obs
    { (s.setSlot p { (s.slot p) with obs := { o with live := vset o.live i (o.live.get i + BitVec.ofNat 64 n) } }) with
      gbank := vset s.gbank i (s.gbank.get i + BitVec.ofNat 64 n) }
  else s

/-- The partition and logical number of a cluster as SEQ_LCL holds them (R122). -/
def clPart (k : Cluster) : Fin 8 := k.sreg.part.toFin
def clLcl (k : Cluster) : Nat := k.sreg.lcl.toNat

/-- The host owner range, index 8 of the owners. -/
def hostOwner (s : State) : Option Owner := s.mem.owners.get 8

def hostSize (s : State) : Nat :=
  match hostOwner s with
  | none => 0
  | some o => o.size

/-- The firmware reserve: the top 4 MiB of the host range (R376). -/
def reserveBase (s : State) : Nat := hostSize s - 0x400000

end Sys2Proof.Machine
end

