-- ==== Sys2Proof/Machine/SchedOps.lean ====
section
/-! DEFINITION. What the scheduler core does to a ledger and to a slot, shared by the ticket commands (R364 to R380, R500): header
fields, replies, stored entries, the order of accepted tickets, the end of a RUN. -/

namespace Sys2Proof.Machine

/-- Code of a partition state (R396). -/
def PState.code : PState → Nat
  | .empty => 0
  | .idle => 1
  | .running => 2
  | .paused => 3
  | .parked => 4
  | .recovering => 5

def TwinSt.code : TwinSt → Nat
  | .unpaired => 0
  | .paired => 1
  | .solo => 2
  | .fenced => 3
  | .waitRejoin => 4
  | .rebuild => 5

/-- Whether a ledger is registered, and its base (R395). -/
def Ledger.en (l : Ledger) : Bool := l.base.getLsbD 63
def Ledger.addr (l : Ledger) : Nat := bitsAt l.base.toNat 12 36 * 4096

/-- The header fields that the scheduler core writes, from its own records (R365, R366). -/
def syncHdr (s : State) (p : Fin 8) : State :=
  let k := s.slot p
  let l := k.led
  if l.en then
    devCommit s (wbytes (l.addr + 8) (natLe 8 l.head ++ natLe 8 l.high.toNat) false ++
      wbytes (l.addr + 32) (natLe 4 l.epoch.toNat ++ natLe 1 k.st.code) false ++ wbytes (l.addr + 40) (natLe 4 l.step.toNat) false)
  else s

/-- Puts a slot into a partition state and shows it in the header. -/
def setPState (s : State) (p : Fin 8) (st : PState) : State := syncHdr (s.setSlot p { s.slot p with st := st }) p

def setLed (s : State) (p : Fin 8) (l : Ledger) : State := s.setSlot p { s.slot p with led := l }

def logSch (s : State) (event part : Nat) (pl : Bytes) : State := logEv s 0x0702 event part pl

-- The scheduler core's own state (R385, R386, R393)

/-- A restart of the scheduler core is in progress: it takes 200 µs (R385, log entry 54). -/
def restarting (s : State) : Bool :=
  match s.sched.restartAt with
  | some x => !elapsed s.now x 200000
  | none => false

/-- The scheduler core runs: it has not failed and is not restarting. -/
def schedUp (s : State) : Bool := !s.sched.failed && !restarting s

/-- Activations done: a committed update ends (R388). -/
def settleUpdate (s : State) : State :=
  let c := s.sched
  if c.fwCommit && !c.pendSch && c.pendCl.isEmpty then { s with sched := { c with fwCommit := false, fwTotal := none } } else s

/-- A cluster control core that no longer awaits new code. -/
def dropPend (s : State) (c : Fin 64) : State :=
  settleUpdate { s with sched := { s.sched with pendCl := s.sched.pendCl.filter (fun x => x != c) } }

/-- A trace point of a firmware processor (R387): its number and its payload are the firmware's, so free; it is logged where the mask holds
its bit. Which commands pass one is the model's choice (log entry 54). -/
def fwTracePoint (s : State) (source part : Nat) (mask : BitVec 256) : State :=
  if mask = 0 then s else
  let f := s.fresh
  let n := (Config.responseByte f.1 0).toNat
  if mask.getLsbD n then logEv f.2 source (0x7F00 + n) part ((List.range 16).map (fun i => Config.responseByte f.1 (i + 1))) else f.2

/-- Ticket fields (R368, R369). -/
def tkNum (b : Bytes) : Nat := fieldU b 0 8
def tkEpoch (b : Bytes) : Nat := fieldU b 8 4
def tkType (b : Bytes) : Nat := fieldU b 12 1

/-- The 32 bytes of a reply (R370). -/
def replyBytes (num epoch typ status detail value step : Nat) : Bytes :=
  let b := natLe 8 num ++ natLe 4 epoch ++ natLe 1 typ ++ natLe 1 status ++ natLe 2 detail ++ natLe 8 value ++ natLe 4 step
  b ++ natLe 4 (crc32 b)

/-- A stored entry as the firmware reserve holds it (R376). -/
def putStored (s : State) (p : Fin 8) (e : Stored) : State :=
  let j := e.num % 4096
  let l := (s.slot p).led
  let b := sliceB e.reply 0 32 ++ natLe 4 e.crc ++ [if e.replied then 2 else 1] ++ zeroB 27
  devWrite (setLed s p { l with stored := alPut l.stored j (some e) }) (reserveBase s + 64 * (4096 * p.val + j)) b false

/-- Writes a stored reply into its reply slot (R370, R375). -/
def writeReply (s : State) (p : Fin 8) (num : Nat) (reply : Bytes) : State :=
  let l := (s.slot p).led
  if l.en then devWrite s (l.addr + 0x41000 + 32 * (num % 4096)) reply false else s

-- The meter's tags (R499, R500)

/-- A SET_TAG accepted by the meter: it takes effect from the next interval. A meter without supply accepts nothing. -/
def meterTag (s : State) (p : Fin 8) (ticket : W64) : State :=
  let d := s.meter.die
  if d.powered then { s with meter := { s.meter with die := { d with newTags := d.newTags ++ [(p, ticket)] } } } else s

/-- Answers an accepted ticket (R370): the reply is written, stored, and the ticket leaves the queue. -/
def answer (s : State) (p : Fin 8) (t : Ticket) (status detail value : Nat) : State :=
  let l := (s.slot p).led
  let r := replyBytes t.num t.epoch t.typ status detail value l.step.toNat
  let s1 := setLed s p { l with queue := l.queue.filter (fun x => x.num != t.num) }
  let s2 := putStored s1 p { num := t.num, reply := r, crc := fieldU t.raw 60 4, replied := true }
  let s3 := writeReply s2 p t.num r
  if t.typ = 1 then meterTag s3 p 0 else s3

/-- Status codes (R371). -/
def stDone : Nat := 0
def stBadTicket : Nat := 1
def stEpoch : Nat := 2
def stState : Nat := 3
def stFailed : Nat := 4
def stBusy : Nat := 5
def stLapsed : Nat := 6
def stEnded : Nat := 7
def stDenied : Nat := 8

/-- Ticket types that act as soon as they are accepted (R373): PAUSE, RESUME, DUMP, CLAIM. -/
def exempt (typ : Nat) : Bool := typ == 2 || typ == 3 || typ == 5 || typ == 7

/-- Whether a ticket holds back the later ones of its ledger (R373): one that has not begun, a LOAD until it is answered, a CLUSTER_KAT that
waits for its window. PAUSE, RESUME, DUMP and CLAIM never do. -/
def holdsBack (k : Slot) (t : Ticket) : Bool :=
  !exempt t.typ && (!t.begun || t.typ == 9 || k.kat.any (fun w => w.ticket == some t.num && !w.ready))

/-- The accepted ticket of a type whose turn has come: no earlier ticket of the ledger holds it back (R373). -/
def turnOf (s : State) (p : Fin 8) (typ : Nat) : Option Ticket :=
  let q := (s.slot p).led.queue
  match q.find? (fun t => t.typ == typ && !t.begun) with
  | none => none
  | some t =>
    if exempt typ || (q.filter (fun x => decide (x.num < t.num))).all (fun x => !holdsBack (s.slot p) x) then some t else none

def findTicket (s : State) (p : Fin 8) (num : Nat) : Option Ticket :=
  (s.slot p).led.queue.find? (fun t => t.num == num)

/-- Marks a ticket as being carried out. -/
def beginTicket (s : State) (p : Fin 8) (num : Nat) : State :=
  let l := (s.slot p).led
  setLed s p { l with queue := l.queue.map (fun t => if t.num = num then { t with begun := true } else t) }

/-- The last completed step of a slot as a RUN reply carries it (R370). -/
def lastStep (s : State) (p : Fin 8) : Nat := (s.slot p).led.step.toNat

/-- VALUE of a reply to a ticket that is not carried out (R370): the last step of a RUN, HIGH of a CLAIM. -/
def idleValue (s : State) (p : Fin 8) (typ : Nat) : Nat :=
  if typ = 1 then lastStep s p else if typ = 7 then (s.slot p).led.high.toNat else 0

-- Management replies (R376, R381, R383)

/-- The bytes of a management reply. -/
def mgmtBytes (reqId op status detail : Nat) (data : Bytes) : Bytes :=
  natLe 8 reqId ++ natLe 2 op ++ natLe 1 status ++ [0] ++ natLe 2 data.length ++ natLe 2 detail ++ data

/-- A reply leaves in its session to the source address and port of the request: the destination holds the session above bit 48, the
address in bits [47:16] and the port below. -/
def mgmtSend (s : State) (r : MgmtReq) (b : Bytes) : State := emit s .mgmt (r.session * 2 ^ 48 + r.addr.toNat * 2 ^ 16 + r.port.toNat) b

/-- A reply sent and kept: the 1,024 most recent stay, each in an entry of the firmware reserve, filled up with zeros (log entry 54). -/
def mgmtReply (s : State) (r : MgmtReq) (op status detail : Nat) (data : Bytes) : State :=
  let b := mgmtBytes r.reqId op status detail data
  let e : MReply := { session := r.session, reqId := r.reqId, bytes := b }
  let n := s.sched.replies
  let s1 := { s with sched := { s.sched with cache := (e :: s.sched.cache).take 1024, replies := n + 1 } }
  mgmtSend (devWrite s1 (reserveBase s + 0x200000 + 1536 * (n % 1024)) (sliceB b 0 1536) false) r b

/-- Answers a self-test to whoever asked for it, by ticket of slot p or by management request (R391). -/
def answerTest (s : State) (p : Fin 8) (ticket : Option Nat) (mgmt : Option MgmtReq) (status detail value : Nat) : State :=
  match ticket, mgmt with
  | some n, _ => (match findTicket s p n with
    | some t => answer s p t status detail value
    | none => s)
  | none, some r => mgmtReply s r 0x0004 status detail (natLe 8 value)
  | none, none => s

/-- Status and DETAIL of a self-test result (R370). -/
def katStatus (result : Nat) : Nat × Nat := if result = 0 then (stDone, 0) else (stFailed, 0x0400 + result % 256)

/-- The image of a slot, or an empty one. -/
def imgOf (s : State) (p : Fin 8) : Option Img := (s.slot p).img

/-- The slot whose image declares brim port q, with the 16 bytes of its link entry (R272, R348). -/
def portDecl (s : State) (q : Fin 16) : Option (Fin 8 × Bytes) :=
  (List.finRange 8).findSome? (fun p => match (s.slot p).img with
    | some i => if bitAt (fieldU i.part 28 2) q.val then some (p, sliceB i.links (16 + 16 * q.val) 16) else none
    | none => none)

/-- ROLE of a port in the image of slot p (R272); 0 where the image does not declare it. -/
def roleOf (s : State) (p : Fin 8) (q : Fin 16) : Nat :=
  match (s.slot p).img with
  | some i => fieldU i.links (16 + 16 * q.val) 1
  | none => 0

/-- A package identifier as PEER_PKG holds it: bit 14 is written 0 and ignored (R272, R538). -/
def pkgId (n : Nat) : Nat := n % 2 ^ 14 + n / 2 ^ 15 % 2 * 2 ^ 15

/-- Own package identifier of a slot's image: twin half in bit 15, package ID below (R272, R346). -/
def ownPkg (i : Img) : Nat := fieldU i.links 0 2 % 2 ^ 14 + fieldU i.links 2 1 % 2 * 2 ^ 15

/-- Ports of a slot with one of some roles, in ascending order. -/
def portsWith (s : State) (p : Fin 8) (f : Nat → Bool) : List (Fin 16) := (List.finRange 16).filter (fun q => f (roleOf s p q))

/-- Layer count, engines and cluster counts of the resource claim (R348). -/
def nLayer (i : Img) : Nat := fieldU i.part 4 2
def imgUes (i : Img) : List (Fin 4) := (List.finRange 4).filter (fun e => bitAt (fieldU i.part 7 1) e.val)
def policyBase (i : Img) : Nat := fieldU i.part 32 8
def runSeed (i : Img) : W64 := BitVec.ofNat 64 (fieldU i.streams 0 8)

end Sys2Proof.Machine
end

