-- ==== Sys2Proof/Machine/BrimOps.lean ====
section
/-! DEFINITION. Sending on brim ports, shared by every command that makes a flit leave (R263 to R266, R271). -/

namespace Sys2Proof.Machine

/-- Replay buffer of a port in flits (R266). -/
def replaySize : Nat := 2048

/-- The staging store of a collective engine, 4 MiB (R280), and what it holds: each contribution with its header. -/
def stagingSize : Nat := 0x400000
def Col.heldBytes (k : Col) : Nat := (k.held.map (fun h => 32 + h.data.length)).sum

/-- Whether the staging store of an engine on the port's link die is full (R14, R280). -/
def stagingFull (s : State) (q : Fin 16) : Bool :=
  (List.finRange 4).any (fun e => decide (e.val / 2 = q.val / 8) && decide (stagingSize ≤ (s.col e).heldBytes))

/-- Flits that a receiver has freed: those of the COLL VC withheld while the staging store was full count once it is not (R280). -/
def LinkL.settle (k : LinkL) (full : Bool) : LinkL :=
  if full then k else { k with freed := vset k.freed 1 (k.freed.get 1 + k.owed), owed := 0 }

/-- Bytes 0 to 15 of a flit (R263): the additional authenticated data. CREDIT cycles through the VCs with SEQ (R265). -/
def flitHead (k : LinkL) (key : Bool) (w : WaitFlit) : Bytes :=
  let cvc := k.txSeq % 3
  natLe 6 k.txSeq ++ natLe 1 (w.typ.toNat + w.vc.toNat * 16 + (if key then 64 else 0)) ++ natLe 1 w.poison.toNat ++ natLe 6 k.rxSeq ++
    natLe 2 (cvc * 2 ^ 14 + k.freed.toList.getD cvc 0 % 2 ^ 14)

/-- DATA and TAG of a flit (R263, R269): sealed under the key once there is one, with the salt and SEQ as nonce; else plain, TAG 0. -/
def flitSeal (f : FlitKey) (seq : Nat) (head data : Bytes) : Bytes :=
  if f.key.isEmpty then data ++ zeroB 12
  else
    let x := gcmEncrypt f.key (f.salt ++ natLe 8 seq) head data
    x.1 ++ x.2.take 12

/-- The 256 bytes of a flit as it leaves (R263): head, DATA, TAG, and the CRC-32 of what precedes it. -/
def flitBytes (k : LinkL) (key : Bool) (w : WaitFlit) : Bytes :=
  let h := flitHead k key w
  let b := h ++ flitSeal k.txKey k.txSeq h (sliceB w.data 0 224)
  b ++ natLe 4 (crc32 b)

/-- Puts one flit on the wire with the next sequence number, and into the replay buffer. -/
def putFlit (s : State) (q : Fin 16) (w : WaitFlit) : State :=
  let k := (s.link q).settle (stagingFull s q)
  let p := s.port q
  let b := flitBytes k p.keyTx w
  let s1 := s.setLink q { k with
    txSeq := (k.txSeq + 1) % 2 ^ 48, replay := k.replay ++ [{ seq := k.txSeq, bytes := b }], keyFlits := k.keyFlits + 1, unacked := false
    used := if h : w.vc.toNat < 3 ∧ 2 ≤ w.typ.toNat then vset k.used ⟨w.vc.toNat, h.1⟩ (k.used.get ⟨w.vc.toNat, h.1⟩ + 1) else k.used }
  emit (s1.setPort q { p with txFlits := p.txFlits + 1 }) .flit q.val b

/-- Whether a port may put a flit of a type on the wire: UP, or in ATTEST for SPDM, NAK and IDLE (R264, R268, R269). -/
def sendsIn (state : BitVec 3) (typ : BitVec 4) : Bool := state == 3 || (state == 2 && decide (typ.toNat < 3))

/-- Whether the transmitter may send a flit now: its port's state allows it, the replay buffer has room, and its VC has a credit. -/
def mayPut (s : State) (q : Fin 16) (w : WaitFlit) : Bool :=
  let k := s.link q
  sendsIn (s.port q).state w.typ && decide (k.replay.length < replaySize) &&
    (decide (w.typ.toNat < 2) ||
      decide (k.used.toList.getD w.vc.toNat 0 < k.granted.toList.getD w.vc.toNat 0))

/-- Whether two flits wait in one queue: NAKs in their own, the others per VC. -/
def sameQueue (a b : WaitFlit) : Bool := (a.typ == 1) == (b.typ == 1) && (a.typ == 1 || a.vc == b.vc)

/-- A flit handed to a port: sent at once, or kept in order behind others of its VC; a port that neither may send it nor is retraining
sends nothing (R268). -/
def sendFlit (s : State) (q : Fin 16) (w : WaitFlit) : State :=
  let k := s.link q
  if !sendsIn (s.port q).state w.typ && (s.port q).state != 4 then s
  else if mayPut s q w && !(k.waiting.any (sameQueue w)) then putFlit s q w
  else s.setLink q { k with waiting := k.waiting ++ [w] }

/-- The VC that a turn of the weighted round robin is for (R265): 12 turns of 16 are COLL's, 3 BULK's, 1 CTRL's (log entry 51). -/
def turnVc (n : Nat) : Nat := if n % 16 < 12 then 1 else if n % 16 < 15 then 2 else 0

/-- The flit that the transmitter serves next: a NAK before others, then the first flit of the VC whose turn it is, and where that VC has
none that may go, of the next VC that has one (R265). -/
def nextFlit (s : State) (q : Fin 16) : Option WaitFlit :=
  let k := s.link q
  let v := turnVc k.turn
  let first (vc : Nat) : Option WaitFlit := (k.waiting.find? (fun w => w.typ != 1 && w.vc.toNat == vc)).filter (mayPut s q)
  match (k.waiting.find? (fun w => w.typ == 1)).filter (mayPut s q) with
  | some w => some w
  | none => [v, (v + 1) % 3, (v + 2) % 3].findSome? first

/-- Sends waiting flits as far as credits and the replay buffer allow, at most n. -/
def drainN (q : Fin 16) : Nat → State → State
  | 0, s => s
  | n + 1, s =>
    match nextFlit s q with
    | none => s
    | some w =>
      let k := s.link q
      drainN q n (putFlit (s.setLink q { k with waiting := k.waiting.erase w, turn := if w.typ = 1 then k.turn else (k.turn + 1) % 16 }) q w)

def drainFlits (s : State) (q : Fin 16) : State := drainN q (s.link q).waiting.length s

/-- An IDLE flit carries ACK and CREDIT when flits have been delivered and nothing has left since (R264, log entry 51). -/
def sendIdle (s : State) (q : Fin 16) : State :=
  let w : WaitFlit := { typ := 0, vc := 0, poison := 0, data := zeroB 224 }
  if (s.link q).unacked && mayPut s q w then putFlit s q w else s

/-- SPDM bytes of an exchange: DSP0274 and DSP0277 give them, this manual does not, so they are free (R269, log entry 51). -/
def sendSpdm (s : State) (q : Fin 16) : State :=
  let f := s.fresh
  sendFlit f.2 q { typ := 2, vc := 0, poison := 0, data := (List.range 224).map (Config.responseByte f.1) }

/-- A key and salt of a session's key schedule (R269, log entry 4). -/
def newFlitKey (n : Nat) : FlitKey :=
  let b := (List.range 36).map (fun i => Config.keyByte n i)
  { key := b.take 32, salt := b.drop 32 }

/-- Splits bytes into pieces of 224 (R279); an empty message is one flit. -/
def pieces224 : Nat → Bytes → List Bytes
  | 0, _ => []
  | n + 1, b => b.take 224 :: (if b.length ≤ 224 then [] else pieces224 n (b.drop 224))

/-- A message on a VC as consecutive flits (R279): the last flit padded with zeros; `poi` are the message's poisoned granules. -/
def sendMsg (s : State) (q : Fin 16) (typ : BitVec 4) (vc : BitVec 2) (data : Bytes) (poi : List Nat) : State :=
  ((pieces224 (data.length / 224 + 1) data).zipIdx).foldl (fun (t : State) (x : Bytes × Nat) =>
    let bits := (List.range 7).foldl (fun (v : Nat) i => if poi.contains (7 * x.2 + i) then v + 2 ^ i else v) 0
    sendFlit t q { typ := typ, vc := vc, poison := BitVec.ofNat 8 bits, data := sliceB x.1 0 224 }) s

/-- A twin or recovery message (R400). -/
def twinData (kind : Nat) (p : Fin 8) (fs : List (Nat × Nat × Nat)) (finger : Bytes) : Bytes :=
  let b := patchB (patchB (zeroB 224) 0 (natLe 1 kind)) 1 (natLe 1 p.val)
  patchB (fs.foldl (fun (b : Bytes) f => patchB b f.1 (natLe f.2.1 f.2.2)) b) 32 (sliceB finger 0 48)

/-- Sends a message in one TWIN flit on some ports. -/
def sendTwin (s : State) (qs : List (Fin 16)) (data : Bytes) : State :=
  qs.foldl (fun (t : State) q => sendFlit t q { typ := 4, vc := 0, poison := 0, data := data }) s

/-- Twin ports of a slot (R399), and every UP port with a role (R400). -/
def twinPorts (s : State) (p : Fin 8) : List (Fin 16) := portsWith s p (fun r => r == 2)
def upPorts (s : State) : List (Fin 16) :=
  (List.finRange 16).filter (fun q => (s.port q).state == 3 && (portDecl s q).isSome)

/-- Ring ports of a slot: ROLE 1 or 4. -/
def ringPorts (s : State) (p : Fin 8) : List (Fin 16) := portsWith s p (fun r => r == 1 || r == 4)

end Sys2Proof.Machine
end

