-- ==== Sys2Proof/Machine/Operands.lean ====
section
/-! DEFINITION. Operand forms of the plank: the fields of a PASS word (R134), of the tile record (R135) and of the shaper record
(R101); fusion modes and tile sizes (R83, R84, R88); and the reading of one group of one operand (R42 to R45, R65). -/

namespace Sys2Proof.Machine

/-- Bytes of the operand store (R248). -/
def opsSize : Nat := 0xA00000

/-- Bytes of an accumulator bank (R97). -/
def bankSize : Nat := 0x100000

/-- The fields of a PASS word (R134). -/
structure PassF where
  shape : Nat
  afmt  : Nat
  wfmt  : Nat
  mode  : Bool
  comp  : Bool
  new   : Bool
  mm1   : Nat
  kg    : Nat
  nm1   : Nat
  accb  : Nat
  trec  : Nat
  srec  : Nat
  pen   : Bool
  pk    : Nat
  brk   : Bool
deriving DecidableEq, Repr

def passFields (w : IWord) : PassF :=
  let v := w.toNat
  { shape := bitsAt v 109 3, afmt := bitsAt v 104 5, wfmt := bitsAt v 99 5, mode := bitAt v 98, comp := bitAt v 97,
    new := bitAt v 96, mm1 := bitsAt v 86 10, kg := bitsAt v 82 4, nm1 := bitsAt v 74 8, accb := bitsAt v 68 6,
    trec := bitsAt v 51 17 * 128, srec := bitsAt v 33 18 * 64, pen := bitAt v 32, pk := bitsAt v 28 4, brk := bitAt v 27 }

/-- Rows of the pass. -/
def PassF.m (p : PassF) : Nat := p.mm1 + 1

/-- Columns used in each tile. -/
def PassF.n (p : PassF) : Nat := p.nm1 + 1

/-- Bytes of one accumulator element (R98). -/
def PassF.accW (p : PassF) : Nat := if p.comp then 8 else 4

/-- Fusion modes; the codes are those of PLK_STATUS.FUSION (R118): 0 Single, 1 Split, 2 Shift, 3 2x2, 4 3x3, 5 6x6. -/
def fusionRank : Fmt → Nat
  | .e2m1 => 0
  | .e4m3 | .e5m2 | .e2m3 | .e3m2 => 1
  | .bf16 | .mxint8 | .int8row => 2
  | .fp16 => 3
  | .fp32 => 4
  | _ => 1

/-- The fusion mode of an operand pair (R84). -/
def fusionOf (a w : Fmt) : Nat :=
  if w = .tt8 then 2 else
  match max (fusionRank a) (fusionRank w) with
  | 0 => 1
  | 1 => 0
  | 2 => 3
  | 3 => 4
  | _ => 5

/-- Operand pairs the plank accepts (R67). -/
def pairAllowed (a w : Fmt) : Bool :=
  let plain (f : Fmt) : Bool := match f with
    | .fp32 | .bf16 | .fp16 | .e4m3 | .e5m2 | .e2m3 | .e3m2 | .e2m1 | .mxint8 => true
    | _ => false
  (plain a && plain w) || (a == .bf16 && w == .tt8) || (a == .int8row && w == .int8row)

/-- FULL tile of a fusion mode, K then N (R83). -/
def fullTile : Nat → Nat × Nat
  | 0 => (192, 192)
  | 1 => (384, 192)
  | 2 => (192, 192)
  | 3 => (96, 96)
  | 4 => (64, 64)
  | _ => (32, 32)

/-- Tile size of a shape in a fusion mode (R88). -/
def tileSize (shape fusion : Nat) : Nat × Nat :=
  let f := fullTile fusion
  match shape with
  | 1 => (f.1, f.2 / 2)
  | 2 => (f.1 / 2, f.2)
  | 3 => (f.1 / 2, f.2 / 2)
  | 4 => (f.1, f.2 / 4)
  | _ => f

/-- Tiles of a shape (R88). -/
def tileCount : Nat → Nat
  | 1 => 2
  | 2 => 2
  | 3 => 4
  | _ => 1

/-- Staging cycles of a shape (R88). -/
def sigmaOf : Nat → Nat
  | 4 => 18
  | 5 => 36
  | _ => 72

/-- Whether a tile reads stream L: tile 1 of SPLIT_K, tiles 2 and 3 of QUARTER (R88, R135). -/
def streamL (shape t : Nat) : Bool := (shape == 2 && t == 1) || (shape == 3 && t ≥ 2)

/-- Whether a tile leaves through the second lane: tile 0 of SPLIT_K, tiles 0 and 1 of QUARTER (R89). -/
def upperTile (shape t : Nat) : Bool := (shape == 2 && t == 0) || (shape == 3 && t < 2)

/-- Element code k of a group held in a byte string (R44). -/
def groupCode (f : Fmt) (word k : Nat) : Nat := bitsAt word (fmtBits f * k) (fmtBits f)

/-- Where one operand stands: its format, its bases and pitches, segment width and phase, and whether it has sidecars. -/
structure OpndLoc where
  fmt    : Fmt
  base   : Nat
  pitch  : Nat
  sbase  : Nat
  spitch : Nat
  seg    : Nat
  ph     : Nat
  side   : Bool
deriving DecidableEq, Repr

/-- Bytes of one scale entry (R45, R55). -/
def OpndLoc.entry (o : OpndLoc) : Nat :=
  if o.fmt = .int8row then 4 else if fmtBlock o.fmt then (if o.side then 4 else 1) else 0

/-- Index of the scale entry of group i of the pass (R135). -/
def OpndLoc.entryIdx (o : OpndLoc) (i : Nat) : Nat := if o.fmt = .int8row then (o.ph + i) / o.seg else i

/-- The activation stream of a tile record: U, or L (R135). -/
def actLoc (tile : Bytes) (f : Fmt) (l : Bool) : OpndLoc :=
  { fmt := f
    base := fieldU tile (if l then 16 else 0) 4
    pitch := fieldU tile 4 4
    sbase := fieldU tile (if l then 20 else 8) 4
    spitch := fieldU tile 12 4
    seg := fieldU tile 88 2
    ph := fieldU tile (if l then 92 else 90) 2
    side := bitAt (fieldU tile 104 1) 0 }

/-- The weight columns of tile t (R135). -/
def wgtLoc (tile : Bytes) (f : Fmt) (t : Nat) : OpndLoc :=
  { fmt := f
    base := fieldU tile (24 + 4 * t) 4
    pitch := fieldU tile 56 4
    sbase := fieldU tile (40 + 4 * t) 4
    spitch := fieldU tile 60 4
    seg := fieldU tile 94 2
    ph := fieldU tile (96 + 2 * t) 2
    side := bitAt (fieldU tile 104 1) 1 }

/-- Group i of row (or column) j of an operand, as the operand store holds it now (R42 to R45, R60, R65). A scale code 0xFF makes the
whole group NaN, a peeled lane with it: R41 says so of every element, R52 gives the peeled one its VALUE, and R65 lets the group factor
decide (DESIGN CHOICE, log entry 49). Every infinity replaced in reading the group counts once: an element, a sidecar VALUE, a row scale
(R35; log entry 49). -/
def readGroup (st : Sram) (o : OpndLoc) (j i : Nat) : OpGroup :=
  let gb := battBytes o.fmt
  let a := o.base + j * o.pitch + i * gb
  let word := leNat (st.read a gb)
  let e := o.entry
  let sa := o.sbase + j * o.spitch + o.entryIdx i * e
  let sc := leNat (st.read sa e)
  let poi := st.poisoned 32 a gb || st.poisoned 32 sa e
  let scaled := fmtBlock o.fmt
  let side : Option (Nat × Num × Bool) :=
    if scaled && o.side && bitAt sc 8 then
      (let v := decodeFp .bf16 fpBF16 (bitsAt sc 16 16)
       some (bitsAt sc 9 5, v.1, v.2))
    else none
  let factor : Option Dy :=
    if o.fmt = .int8row then val32 sc
    else if scaled then (if sc % 256 = 0xFF then none else some { m := 1, e := ((sc % 256 : Nat) : Int) - 127 })
    else some { m := 1, e := 0 }
  let es : List (Num × Bool) := (List.range 32).map (fun k =>
    if side.map Prod.fst = some k then (Num.zero, false) else decodeElem o.fmt (groupCode o.fmt word k))
  let rowInf : Bool := o.fmt == .int8row && (decodeFp .fp32 fpFP32 sc).2
  { elems := es.map Prod.fst, factor := factor, peel := side.map (fun x => (x.1, x.2.1)), poison := poi
    inf := (es.filter Prod.snd).length + b2n rowInf + (match side with | some x => b2n x.2.2 | none => 0) }

/-- The kg groups of row (or column) j. -/
def readRow (st : Sram) (o : OpndLoc) (kg j : Nat) : List OpGroup := (List.range kg).map (readGroup st o j)

/-- A group of plain BF16 elements at `a`: the pounce unit's operands (R106). -/
def readBf16Group (st : Sram) (a : Nat) : OpGroup :=
  readGroup st { fmt := .bf16, base := a, pitch := 0, sbase := 0, spitch := 0, seg := 0, ph := 0, side := false } 0 0

/-- The fields of a shaper record (R101). -/
structure ShaperF where
  ofmt    : Nat
  func    : Nat
  outEn   : Bool
  scaleEn : Bool
  biasEn  : Bool
  clipEn  : Bool
  peelEn  : Bool
  shadow  : Bool
  peel    : Nat
  scale   : Nat
  clipLo  : Nat
  clipHi  : Nat
  outBase : Nat
  outPit  : Nat
  sBase   : Nat
  sPit    : Nat
  col0    : Nat
  extent  : Nat
deriving DecidableEq, Repr

def shaperFields (r : Bytes) : ShaperF :=
  let fl := fieldU r 2 1
  { ofmt := fieldU r 0 1, func := fieldU r 1 1, outEn := bitAt fl 0, scaleEn := bitAt fl 1, biasEn := bitAt fl 2,
    clipEn := bitAt fl 3, peelEn := bitAt fl 4, shadow := bitAt fl 5, peel := fieldU r 3 1 % 16, scale := fieldU r 4 4,
    clipLo := fieldU r 8 4, clipHi := fieldU r 12 4, outBase := fieldU r 16 4, outPit := fieldU r 20 4,
    sBase := fieldU r 24 4, sPit := fieldU r 28 4, col0 := fieldU r 32 4, extent := fieldU r 36 4 }

def recBias (r : Bytes) : Nat := fieldU r 40 4
def recRef (r : Bytes) : Nat := fieldU r 44 4
def recPlan (r : Bytes) : Nat := fieldU r 48 4
def recLayer (r : Bytes) : Nat := fieldU r 52 2

/-- Tile columns that lie inside the output tensor (R102). -/
def ShaperF.cols (c : ShaperF) (n : Nat) : Nat := min n (c.extent - c.col0)

/-- Bytes of one scale entry of the output: sidecar, E8M0 byte or FP32 row scale; 0 for a scalar format. -/
def outEntry (f : Fmt) (peelEn : Bool) : Nat :=
  if f = .int8row then 4 else if fmtBlock f then (if peelEn then 4 else 1) else 0

/-- Address of the data of output row j: its first element of the tile, or its first batt (R101). -/
def outRowAddr (c : ShaperF) (f : Fmt) (j : Nat) : Nat :=
  if fmtBlock f then c.outBase + j * c.outPit + c.col0 / 32 * battBytes f
  else c.outBase + j * c.outPit + c.col0 * (fmtBits f / 8)

/-- Bytes of output data of one row of the tile. -/
def outRowBytes (c : ShaperF) (f : Fmt) (n : Nat) : Nat :=
  if fmtBlock f then cdiv (c.cols n) 32 * battBytes f else c.cols n * (fmtBits f / 8)

/-- Address of the first scale entry of output row j of the tile (R101). -/
def outScaleAddr (c : ShaperF) (f : Fmt) (n j : Nat) : Nat :=
  if f = .int8row then c.sBase + j * c.sPit + 4 * (c.col0 / n)
  else c.sBase + j * c.sPit + c.col0 / 32 * outEntry f c.peelEn

/-- Bytes of scale entries of one row of the tile. -/
def outScaleBytes (c : ShaperF) (f : Fmt) (n : Nat) : Nat :=
  if c.cols n = 0 then 0 else
  if f = .int8row then 4 else cdiv (c.cols n) 32 * outEntry f c.peelEn

/-- The fields of a shadow plan (R108). -/
structure PlanF where
  base  : Nat
  pitch : Nat
  tag   : Nat
  layer : Nat
  pk    : Nat
  n0    : Nat
  nk    : Nat
  m     : Nat
  row0  : Nat
  rows  : Nat
deriving DecidableEq, Repr

def planFields (b : Bytes) : PlanF :=
  { base := fieldU b 0 4, pitch := fieldU b 4 4, tag := fieldU b 8 4, layer := fieldU b 12 2, pk := fieldU b 14 1 % 16,
    n0 := fieldU b 16 4, nk := fieldU b 20 4, m := fieldU b 24 4, row0 := fieldU b 28 4, rows := fieldU b 32 4 }

/-- Rows of consumer chunk q (R108). -/
def PlanF.chunkRows (p : PlanF) (q : Nat) : Nat := min p.m (p.rows - q * p.m)

/-- Whether a draw of index n of chunk q selects consumer row y (R108). -/
def PlanF.selects (p : PlanF) (seed : W64) (step : W32) (y n : Nat) : Bool :=
  let g := pounceDraw seed (BitVec.ofNat 32 p.tag) step p.layer n
  let q := y / p.m
  drawSamples g p.pk && (drawRows g (p.chunkRows q)).contains (y - q * p.m)

/-- The consumer rows among pass rows 0 to m - 1 whose shadow the shaper writes (R108), as pass row and consumer row. -/
def PlanF.shadowRows (p : PlanF) (seed : W64) (step : W32) (m : Nat) : List (Nat × Nat) :=
  ((List.range m).map (fun j => (j, p.row0 + j))).filter (fun x =>
    decide (x.2 < p.rows) && (List.range p.nk).any (fun i => p.selects seed step x.2 (p.n0 + x.2 / p.m * p.nk + i)))

/-- The indices of the pounce draws that a pass of m rows evaluates for its plan (R108): those of every consumer chunk it touches, from
the first to before the second. -/
def PlanF.drawRun (p : PlanF) (m : Nat) : Nat × Nat :=
  if p.row0 ≥ p.rows then (0, 0) else
  let last := min (p.row0 + m) p.rows - 1
  (p.n0 + p.row0 / p.m * p.nk, p.n0 + (last / p.m + 1) * p.nk)

end Sys2Proof.Machine
end

