-- ==== Sys2Proof/Machine/VecMath.lean ====
section
/-! DEFINITION. Scalar arithmetic of the vector engine (R196, R205, R206): exact operations, one rounding, and the table-based
transcendental functions. The tables hold the integers that R205 defines. -/

namespace Sys2Proof.Machine

/-- TX[j]: nearest to 2^(62 + j/64), j from 0 to 63 (R205). -/
def txTab : List Nat :=
  [4611686018427387904, 4661903986662671290, 4712668792719003884, 4763986391269842979, 4815862801830788490,
   4868304109465667592, 4921316465500308116, 4974906088244084429, 5029079263719320435, 5083842346398635251,
   5139201759950318048, 5195163997991819502, 5251735624851448219, 5308923276338361494, 5366733660520940721,
   5425173558513642752, 5484249825272419512, 5543969390398799154, 5604339258952723100, 5665366512274234280,
   5727058308814112983, 5789421884973557729, 5852464555953009676, 5916193716610220111, 5980616842327661685,
   6045741489889385141, 6111575298367424380, 6178125990017853852, 6245401371186603363, 6313409333225136570,
   6382157853416100552, 6451654995909055045] ++
  [6521908912666391106, 6592927844419550153, 6664720121635655541, 6737294165494670078, 6810658488877194079,
   6884821697363019841, 6959792490240559659, 7035579661527265796, 7112192101001162095, 7189638795243608238,
   7267928828693418961, 7347071384712461870, 7427075746662858866, 7507951298995917514, 7589707528352920109,
   7672354024677899536, 7755900482342532474, 7840356701283281883, 7925732588150922155, 8012038157472581778,
   8099283532826439817, 8187478948029213993, 8276634748336579668, 8366761391656660532, 8457869449776733335,
   8549969609603290562, 8643072674415606502, 8737189565132953757, 8832331321595618838, 8928509103859867100,
   9025734193507008925, 9124017994966720698]

/-- C_1, C_2, C_3: nearest to (ln 2)^k * 2^48 / k! (R205). -/
def c1K : Int := 195103586505167
def c2K : Int := 67617750451595
def c3K : Int := 15623017693776

/-- LT[j]: nearest to the negated binary logarithm of RL[j] / 2^32, times 2^56, j from -16 to 32 (R205). -/
def ltTab : List Int :=
  [-29906603627500635, -27763081640690879, -25662866098602899, -23604241720414522, -21585593178563674,
   -19605397436781870, -17662216861214498, -15754692997881630, -13881540828854801, -12041543517488157,
   -10233547806331795, -8456459499427907, -6709239661241861, -4990900816417907, -3300503668556252,
   -1637154047440910, 0, 1611770792233426, 3198933427377205, 4762228044199264, 6302361906707919, 7820011244413249,
   9315823152531727, 10790417148643011, 12244386758722260, 13678301003717805, 15092705591881327, 16488124315228147,
   17865060116063580, 19223996253631189, 20565397225812525, 21889709813934139] ++
  [23197363964745998, 24488773532950468, 25764337192435271, 27024439103936058, 28269449586110826, 29499725871075724,
   30715612643975156, 31917442598044405, 33105537060928941, 34280206450949507, 35441750743134339, 36590460039586113,
   37726614895361902, 38850486724095938, 39962338317776457, 41062424086860680, 42150990392273996]

/-- B_k: nearest to (-1)^(k+1) * 2^56 / (k ln 2), k from 1 to 6 (R205). -/
def bTab : List Int :=
  [103957133576908769, -51978566788454385, 34652377858969590, -25989283394227192, 20791426715381754,
   -17326188929484795]

/-- RS[j]: nearest to 2^32 / sqrt(1 + (2j + 1)/128), j from 0 to 191 (R205). -/
def rsTab : List Nat :=
  [4278287748, 4245503451, 4213461458, 4182134172, 4151495414, 4121520326, 4092185289, 4063467844, 4035346621,
   4007801271, 3980812404, 3954361530, 3928431011, 3903004006, 3878064427, 3853596900, 3829586716, 3806019805,
   3782882692, 3760162471, 3737846769, 3715923725, 3694381957, 3673210539, 3652398981, 3631937201, 3611815510,
   3592024591, 3572555480, 3553399548, 3534548489, 3515994301] ++
  [3497729272, 3479745969, 3462037223, 3444596118, 3427415981, 3410490366, 3393813052, 3377378025, 3361179476,
   3345211787, 3329469527, 3313947440, 3298640442, 3283543610, 3268652179, 3253961533, 3239467200, 3225164847,
   3211050272, 3197119402, 3183368288, 3169793094, 3156390104, 3143155705, 3130086394, 3117178767, 3104429516,
   3091835429, 3079393385, 3067100348, 3054953369, 3042949576] ++
  [3031086180, 3019360464, 3007769786, 2996311574, 2984983323, 2973782596, 2962707017, 2951754273, 2940922111,
   2930208334, 2919610800, 2909127424, 2898756171, 2888495055, 2878342141, 2868295541, 2858353412, 2848513956,
   2838775418, 2829136085, 2819594284, 2810148380, 2800796779, 2791537921, 2782370284, 2773292380, 2764302754,
   2755399984, 2746582681, 2737849487, 2729199072, 2720630137] ++
  [2712141411, 2703731650, 2695399637, 2687144183, 2678964120, 2670858310, 2662825635, 2654865003, 2646975342,
   2639155605, 2631404764, 2623721814, 2616105769, 2608555665, 2601070554, 2593649510, 2586291624, 2578996006,
   2571761781, 2564588094, 2557474105, 2550418991, 2543421943, 2536482171, 2529598896, 2522771356, 2515998803,
   2509280503, 2502615736, 2496003794, 2489443983, 2482935621] ++
  [2476478040, 2470070583, 2463712605, 2457403471, 2451142560, 2444929261, 2438762973, 2432643107, 2426569082,
   2420540330, 2414556290, 2408616413, 2402720158, 2396866995, 2391056400, 2385287859, 2379560869, 2373874933,
   2368229563, 2362624278, 2357058606, 2351532084, 2346044254, 2340594666, 2335182879, 2329808458, 2324470975,
   2319170008, 2313905143, 2308675972, 2303482094, 2298323113] ++
  [2293198640, 2288108293, 2283051694, 2278028472, 2273038261, 2268080701, 2263155439, 2258262124, 2253400413,
   2248569967, 2243770453, 2239001541, 2234262908, 2229554235, 2224875207, 2220225515, 2215604854, 2211012922,
   2206449423, 2201914064, 2197406559, 2192926623, 2188473975, 2184048341, 2179649447, 2175277027, 2170930815,
   2166610550, 2162315976, 2158046838, 2153802888, 2149583877]

/-- RL[j]: nearest to 2^32 / (1 + j/64), ties to even, for j + 16 from 0 to 48 (R205). -/
def rlAt (j16 : Nat) : Nat :=
  let d := 48 + j16
  let q := 2 ^ 38 / d
  let r := 2 ^ 38 % d
  if 2 * r > d || (2 * r == d && q % 2 == 1) then q + 1 else q

/-- Saturations and NaNs that an operation counts. -/
structure SN where
  sat : Nat
  nan : Nat
deriving DecidableEq, Repr

def SN.zero : SN := { sat := 0, nan := 0 }
def SN.add (a b : SN) : SN := { sat := a.sat + b.sat, nan := a.nan + b.nan }

/-- floor of a dyadic number. -/
def Dy.floor (x : Dy) : Int := if x.e ≥ 0 then x.m * 2 ^ x.e.toNat else x.m / 2 ^ (-x.e).toNat

def Dy.ofInt (i : Int) : Dy := { m := i, e := 0 }
def Dy.sub (a b : Dy) : Dy := a.add b.neg
def Dy.shift (a : Dy) (k : Int) : Dy := { m := a.m, e := a.e + k }

/-- Sum of decoded addends: NaN if one is NaN; an exact zero is +0 unless every addend is -0 (R196). -/
def sumNum (xs : List Num) : Num :=
  if xs.any Num.isNan then .nan else
  let t : Dy := xs.foldl (fun (s : Dy) (x : Num) => s.add x.toDy) { m := 0, e := 0 }
  t.toNum (xs.all (fun x => match x with
    | .fin n g _ => n && g == 0
    | .nan => false))

/-- Product of decoded factors; the sign of a zero is the XOR of the factor signs (R196). -/
def mulNum (a b : Num) : Num :=
  match a, b with
  | .fin n1 g1 e1, .fin n2 g2 e2 => .fin (n1 != n2) (g1 * g2) (e1 + e2)
  | _, _ => .nan

def negNum : Num → Num
  | .nan => .nan
  | .fin n g e => .fin (!n) g e

def absNum : Num → Num
  | .nan => .nan
  | .fin _ g e => .fin false g e

/-- Order of two values with -0 below +0, as MIN and MAX take it (R196). -/
def ltNum (a b : Num) : Bool :=
  match a, b with
  | .fin n1 _ _, .fin n2 _ _ =>
    match Dy.cmp a.toDy b.toDy with
    | .lt => true
    | .gt => false
    | .eq => n1 && !n2
  | _, _ => false

def minNum (a b : Num) : Num := if a.isNan || b.isNan then .nan else if ltNum b a then b else a
def maxNum (a b : Num) : Num := if a.isNan || b.isNan then .nan else if ltNum a b then b else a

/-- Rounds a value into a scalar floating-point format and counts (R36, R37). -/
def roundCount (f : Fmt) (K : FpK) (x : Num) (mode : RMode) : Nat × SN :=
  let r := roundTo f K x mode
  (r.1, { sat := b2n r.2, nan := b2n x.isNan })

/-- Decode of an FP32 code with its count of a replaced infinity (R35). -/
def dec32 (u : Nat) : Num × SN :=
  let d := decodeFp .fp32 fpFP32 u
  (d.1, { sat := b2n d.2, nan := 0 })

/-- An FP32 operation on two codes: decode, exact operation, one rounding, counts (R196). -/
def op32 (f : Num → Num → Num) (x y : Nat) : Nat × SN :=
  let a := dec32 x
  let b := dec32 y
  let r := roundCount .fp32 fpFP32 (f a.1 b.1) .rne
  (r.1, (a.2.add b.2).add r.2)

def add32 (x y : Nat) : Nat × SN := op32 (fun a b => sumNum [a, b]) x y
def sub32 (x y : Nat) : Nat × SN := op32 (fun a b => sumNum [a, negNum b]) x y
def mul32 (x y : Nat) : Nat × SN := op32 mulNum x y

/-- NEG of an FP32 code. -/
def neg32 (x : Nat) : Nat × SN :=
  let a := dec32 x
  let r := roundCount .fp32 fpFP32 (negNum a.1) .rne
  (r.1, a.2.add r.2)

/-- exp2_t of R205. -/
def exp2T (v0 : Dy) : Dy :=
  let lo : Dy := Dy.ofInt (-160)
  let hi : Dy := Dy.ofInt 128
  let v := if Dy.cmp v0 lo == .lt then lo else if Dy.cmp v0 hi == .gt then hi else v0
  let n := (v.shift 6).floor
  let j := (n % 64).toNat
  let m := (n - j) / 64
  let f := v.sub { m := n, e := -6 }
  let P := (Dy.ofInt (2 ^ 48)).add (f.mul ((Dy.ofInt c1K).add (f.mul ((Dy.ofInt c2K).add (f.mul (Dy.ofInt c3K))))))
  ((Dy.ofInt (txTab.getD j 0)).mul P).shift (m - 110)

/-- reduce_u of R205 for a > 0: the exponent, u in [0.75, 1.5) and j + 16. -/
def reduceU (a : Dy) : Int × Dy × Nat :=
  let E := a.flog2
  let u := a.shift (-E)
  let big := Dy.cmp u { m := 3, e := -1 } != .lt
  let u' := if big then u.shift (-1) else u
  let E' := if big then E + 1 else E
  let j := (((u'.sub (Dy.ofInt 1)).shift 6).add { m := 1, e := -1 }).floor
  (E', u', (j + 16).toNat)

/-- z of log2_t and rcp_t: u * RL[j] * 2^-32 - 1. -/
def zOf (u : Dy) (j16 : Nat) : Dy := ((u.mul (Dy.ofInt (rlAt j16))).shift (-32)).sub (Dy.ofInt 1)

/-- A polynomial with coefficients from the constant up, by Horner's rule. -/
def poly (cs : List Dy) (z : Dy) : Dy := cs.foldr (fun c acc => c.add (z.mul acc)) { m := 0, e := 0 }

/-- log2_t of R205 for a > 0. -/
def log2T (a : Dy) : Dy :=
  let (E, u, j) := reduceU a
  let p := poly (Dy.ofInt 0 :: bTab.map Dy.ofInt) (zOf u j)
  (Dy.ofInt E).add (((Dy.ofInt (ltTab.getD j 0)).add p).shift (-56))

/-- rcp_t of R205 for a > 0. -/
def rcpT (a : Dy) : Dy :=
  let (E, u, j) := reduceU a
  let P := poly [Dy.ofInt 1, Dy.ofInt (-1), Dy.ofInt 1, Dy.ofInt (-1), Dy.ofInt 1, Dy.ofInt (-1)] (zOf u j)
  ((Dy.ofInt (rlAt j)).mul P).shift (-32 - E)

/-- rsqrt_t of R205 for a > 0. -/
def rsqrtT (a : Dy) : Dy :=
  let h := a.flog2 / 2
  let w := a.shift (-2 * h)
  let j := ((w.sub (Dy.ofInt 1)).shift 6).floor.toNat
  let rs := Dy.ofInt (rsTab.getD j 0)
  let z := ((w.mul (rs.mul rs)).shift (-64)).sub (Dy.ofInt 1)
  let P := poly [Dy.ofInt 1, { m := -1, e := -1 }, { m := 3, e := -3 }, { m := -5, e := -4 }, { m := 35, e := -7 },
    { m := -63, e := -8 }] z
  (rs.mul P).shift (-32 - h)

/-- The transcendental operations. -/
inductive TrOp where
  | exp2 | log2 | rcp | rsqrt
deriving DecidableEq, Repr

/-- The result of a transcendental operation on a decoded operand in a floating-point format, with its counts (R205, R206). -/
def trans (op : TrOp) (f : Fmt) (K : FpK) (x : Num) : Nat × SN :=
  let maxV (neg : Bool) : Nat × SN := ((if neg then 2 ^ (K.ebits + K.mbits) else 0) + maxFiniteCode K, { sat := 1, nan := 0 })
  let nanV : Nat × SN := (canonicalNan f, { sat := 0, nan := 1 })
  let put (neg : Bool) (t : Dy) : Nat × SN :=
    if t.m = 0 then (0, SN.zero) else
    let r := roundFp (neg != decide (t.m < 0)) t.m.natAbs t.e K .rne
    (r.1, { sat := b2n r.2, nan := 0 })
  match x with
  | .nan => nanV
  | .fin n g e =>
    let a : Dy := { m := g, e := e }
    let v : Dy := (Num.fin n g e).toDy
    match op with
    | .exp2 =>
      if Dy.cmp v (Dy.ofInt 128) != .lt then maxV false
      else if Dy.cmp v (Dy.ofInt (-150)) != .gt then (0, SN.zero)
      else put false (exp2T v)
    | .log2 => if g = 0 then maxV true else if n then nanV else put false (log2T a)
    | .rcp => if g = 0 then maxV n else put n (rcpT a)
    | .rsqrt => if g = 0 then maxV n else if n then nanV else put false (rsqrtT a)

/-- exp2_v and rcp_v of R103. -/
def exp2V (x : Nat) : Nat × SN :=
  let a := dec32 x
  let r := trans .exp2 .fp32 fpFP32 a.1
  (r.1, a.2.add r.2)

def rcpV (x : Nat) : Nat × SN :=
  let a := dec32 x
  let r := trans .rcp .fp32 fpFP32 a.1
  (r.1, a.2.add r.2)

/-- 1 / (1 + e^-z) as R103 forms it. -/
def sigm (z : Nat) : Nat × SN :=
  let m := mul32 z 0x3FB8AA3B
  let g := neg32 m.1
  let e := exp2V g.1
  let s := add32 0x3F800000 e.1
  let r := rcpV s.1
  (r.1, (((m.2.add g.2).add e.2).add s.2).add r.2)

/-- The shaper functions of R103: 1 EXP2, 2 GELU, 3 SILU, 4 SQUARE; `r` is the EXP2 reference. -/
def shaperFunc (f : Nat) (x r : Nat) : Nat × SN :=
  match f with
  | 1 =>
    if isNan32 r then (nan32, SN.zero) else
    let d := sub32 x r
    let e := exp2V d.1
    (e.1, d.2.add e.2)
  | 2 =>
    let xx := mul32 x x
    let c := mul32 0x3D922279 xx.1
    let p := add32 c.1 0x3FCC422A
    let xp := mul32 x p.1
    let s := sigm xp.1
    let y := mul32 x s.1
    (y.1, ((((xx.2.add c.2).add p.2).add xp.2).add s.2).add y.2)
  | 3 =>
    let s := sigm x
    let y := mul32 x s.1
    (y.1, s.2.add y.2)
  | 4 => mul32 x x
  | _ => (x, SN.zero)

end Sys2Proof.Machine
end

