-- ==== Sys2Proof/Machine/RowOut.lean ====
section
/-! DEFINITION. One row of a tensor as a unit reads it and as a unit writes it: decoding with its poison (R50, R52, R57, R60) and
conversion with the bytes, the poison and the counts it gives (R39, R47, R55, R61, R62). Used by the output shaper, the vector
engine's converts, TURN and the update engines. -/

namespace Sys2Proof.Machine

/-- An element as read: its value, whether its unit is poisoned, and the saturations its decode counts (R35). -/
structure Elem where
  val : Num
  poi : Bool
  inf : Nat
deriving DecidableEq, Repr

/-- Element of a byte-aligned scalar format at address `a`. -/
def readScalar (st : Sram) (f : Fmt) (a : Nat) : Elem :=
  let w := fmtBits f / 8
  let code := leNat (st.read a w)
  let p := st.poisoned 32 a w
  match f with
  | .fp32p =>
    let r := pairNum { hi := code % 2 ^ 32, lo := code / 2 ^ 32 }
    { val := r.1, poi := p, inf := r.2 }
  | f =>
    let d := decodeElem f code
    { val := d.1, poi := p, inf := b2n d.2 }

/-- Element i of a batt-packed row (R44, R50, R52). The peeled element has its VALUE also in a batt whose scale code is 0xFF: R41 makes every
element of such a batt NaN, R52 gives the one at INDEX its VALUE, and neither yields to the other (DESIGN CHOICE, log entry 49: here the more
special rule, R52; in the plank the group's factor decides, R65). -/
def readPacked (st : Sram) (f : Fmt) (base sbase : Nat) (side : Bool) (i : Nat) : Elem :=
  let b := i / 32
  let bb := battBytes f
  let e := if side then 4 else 1
  let a := base + b * bb
  let sa := sbase + b * e
  let sc := leNat (st.read sa e)
  let p := st.poisoned 32 a bb || st.poisoned 32 sa e
  if side && bitAt sc 8 && bitsAt sc 9 5 == i % 32 then
    let d := decodeFp .bf16 fpBF16 (bitsAt sc 16 16)
    { val := d.1, poi := p, inf := b2n d.2 }
  else
    let d := decodeScaled f sc (groupCode f (leNat (st.read a bb)) (i % 32))
    { val := d.1, poi := p, inf := b2n d.2 }

/-- Element i of a row of INT8 with row scale (R55). -/
def readRowScaled (st : Sram) (base sbase seg i : Nat) : Elem :=
  let a := base + i
  let sa := sbase + 4 * (if seg = 0 then 0 else i / seg)
  let q := signed 8 (st.get a).toNat
  let p := st.poisoned 32 a 1 || st.poisoned 32 sa 4
  let s := decodeFp .fp32 fpFP32 (leNat (st.read sa 4))
  { val := mulNum (numOfInt q 0) s.1, poi := p, inf := b2n s.2 }

/-- Element i of a row in any data format. -/
def readElemAt (st : Sram) (f : Fmt) (base sbase : Nat) (side : Bool) (seg i : Nat) : Elem :=
  if fmtBlock f then readPacked st f base sbase side i
  else if f = .int8row then readRowScaled st base sbase seg i
  else readScalar st f (base + i * (fmtBits f / 8))

/-- What writing one row gives: the bytes, the counts, the elements quantised, and for each element whether its unit is poisoned. -/
structure RowOut where
  ws     : List WByte
  counts : Counts
  quant  : Nat
  bad    : List Bool
deriving DecidableEq, Repr

/-- FP32 code of each value with the saturations of that rounding (R39). -/
def rowFp32 (vals : List (Num × Bool)) : List (Nat × Nat) := vals.map (fun v => let r := toFp32 v.1; (r.1, b2n r.2))

/-- Granules that hold a poisoned element of a scalar row. -/
def badGranules (base w : Nat) (vals : List (Num × Bool)) : List Nat :=
  vals.zipIdx.foldl (fun l (v : (Num × Bool) × Nat) => if v.1.2 then nsSet l ((base + v.2 * w) / 32) true else l) []

/-- One batt of a row: its bytes, scale entry, counts; poison stands in the data granules only (R61). -/
def battOut (f : Fmt) (base sbase : Nat) (peelEn : Bool) (dist : Nat) (mode : Nat → RMode) (b : Nat)
    (vals : List (Num × Bool)) : RowOut :=
  let xs := rowFp32 vals
  let q := quantiseBatt (xs.map Prod.fst) f peelEn dist (fun i => mode (32 * b + i))
  let bad := vals.any Prod.snd
  let sats := (xs.map Prod.snd).sum
  let entry := if peelEn then natLe 4 q.sidecar else natLe 1 q.scale
  let es := if peelEn then 4 else 1
  let nz := (xs.filter (fun x => x.1 % 2 ^ 31 != 0 && !isNan32 x.1)).length
  { ws := wbytes (base + b * battBytes f) (packBits (fmtBits f) q.elems) bad ++ wbytes (sbase + b * es) entry false
    counts := if bad then { poison := 1 } else { q.counts with sat := q.counts.sat + sats }
    quant := if bad then 0 else nz - q.counts.peeled
    bad := vals.map (fun _ => bad) }

/-- One segment of INT8 with row scale (R55, R61). R62 counts poisoned batts; where the format has none, POISON counts the poisoned granules
of element data, and saturations and NaNs count whatever the poison (DESIGN CHOICE, log entry 49). -/
def segOut (base sbase seg s : Nat) (vals : List (Num × Bool)) : RowOut :=
  let xs := rowFp32 vals
  let (sc, q, c) := quantiseSegment (xs.map Prod.fst)
  let bad := vals.any Prod.snd
  let a := base + s * seg
  { ws := wbytes a (q.map (BitVec.ofNat 8)) bad ++ wbytes (sbase + 4 * s) (natLe 4 sc) false
    counts := { c with sat := c.sat + (xs.map Prod.snd).sum, poison := if bad then (unitsOf 32 a vals.length).length else 0 }
    quant := 0
    bad := vals.map (fun _ => bad) }

/-- One row of a scalar format: element i at base + i * w (R39, R61). A poisoned granule, the poison unit of such a format (R60), counts as one
POISON; `bad` marks every value that lies in one, and saturations and NaNs count whatever the poison, since R62 leaves out the elements of
batts only (DESIGN CHOICE, log entry 49). -/
def scalarOut (f : Fmt) (base : Nat) (mode : Nat → RMode) (vals : List (Num × Bool)) : RowOut :=
  let w := fmtBits f / 8
  let gb := badGranules base w vals
  let outs := vals.zipIdx.map (fun (v : (Num × Bool) × Nat) =>
    let a := base + v.2 * w
    let bad := nsMem gb (a / 32)
    let r := convertScalar f v.1.1 (mode v.2)
    (wbytes a (natLe w r.1) v.1.2, r.2, bad))
  { ws := (outs.map (fun o => o.1)).flatten
    counts := outs.foldl (fun c o => c.add o.2.1) { poison := gb.length }
    quant := 0
    bad := outs.map (fun o => o.2.2) }

def RowOut.join (rs : List RowOut) : RowOut :=
  { ws := (rs.map RowOut.ws).flatten
    counts := rs.foldl (fun c r => c.add r.counts) {}
    quant := (rs.map RowOut.quant).sum
    bad := (rs.map RowOut.bad).flatten }

/-- One row of values in a format (R39, R47, R55): `base` and `sbase` address its first element or batt and its first scale
entry; `seg` is the segment width of INT8 with row scale; `mode` the rounding of each element. -/
def rowOut (f : Fmt) (base sbase : Nat) (peelEn : Bool) (dist seg : Nat) (mode : Nat → RMode)
    (vals : List (Num × Bool)) : RowOut :=
  if fmtBlock f then
    RowOut.join ((runsOf 32 vals.length vals).zipIdx.map (fun (r : List (Num × Bool) × Nat) =>
      battOut f base sbase peelEn dist mode r.2 r.1))
  else if f = .int8row then
    let sg := if seg = 0 then vals.length else seg
    RowOut.join ((runsOf sg vals.length vals).zipIdx.map (fun (r : List (Num × Bool) × Nat) => segOut base sbase sg r.2 r.1))
  else scalarOut f base mode vals

end Sys2Proof.Machine
end

