-- ==== Sys2Proof/Machine/PassCalc.lean ====
section
/-! DEFINITION. What a pass computes: accumulation in the banks (R98, R100), the output shaper (R102 to R104), shadow rows (R108),
the statistics it hands the carder (R162), zero-group skipping (R105) and the pounce check (R106, R167). -/

namespace Sys2Proof.Machine

/-- The activation and weight formats of a pass; only passes with plank operand codes are accepted (R138). -/
def PassF.a (p : PassF) : Fmt := (fmtOfCode p.afmt).getD .fp32
def PassF.w (p : PassF) : Fmt := (fmtOfCode p.wfmt).getD .fp32

/-- Blocks of 16 KiB that one tile's region occupies (R98). -/
def PassF.blocks (p : PassF) : Nat := cdiv (p.m * p.n * p.accW) 16384

/-- Bank offset of tile t's region (R98). -/
def PassF.region (p : PassF) (t : Nat) : Nat := p.accb * 16384 + t * p.blocks * 16384

/-- Bank offset of element (j, n) of tile t (R98). -/
def PassF.elemOff (p : PassF) (t j n : Nat) : Nat := p.region t + (j * p.n + n) * p.accW

/-- Every block of the pass's regions. -/
def PassF.allBlocks (p : PassF) : List Nat := span p.accb (tileCount p.shape * p.blocks)

/-- Whether PLK_ACC_SEL names bank B for the block of a bank offset (R97). -/
def selB (sel : W64) (off : Nat) : Bool := sel.getLsbD (off / 16384)

/-- The value that an accumulator element enters a pass with, its poison flag, and the infinities replaced in reading it (R35, R77, R98);
`sel` names the current bank of each block. -/
def accIn (cl : Cluster) (sel : W64) (p : PassF) (off : Nat) : Acc × Bool × Nat :=
  if p.new then ({ hi := 0, lo := 0 }, false, 0) else
  let bank := if selB sel off then cl.bankB else cl.bankA
  let hi := leNat (bank.read off 4)
  let lo := if p.comp then leNat (bank.read (off + 4) 4) else 0
  ({ hi := hi, lo := lo }, bank.poisoned 4 off p.accW, (dec32 hi).2.sat + (dec32 lo).2.sat)

/-- One accumulated element: its bank offset, new value, saturations and poison. -/
structure AccElem where
  off : Nat
  acc : Acc
  sat : Nat
  poi : Bool
deriving DecidableEq, Repr

/-- One element of a tile (R64, R70, R73, R77). -/
def accElem (cl : Cluster) (sel : W64) (p : PassF) (t j n : Nat) (row col : OpRow) : AccElem :=
  let off := p.elemOff t j n
  let old := accIn cl sel p off
  let r := passDot p.mode p.comp old.1 (row.zip col)
  { off := off, acc := r.1, sat := r.2 + old.2.2, poi := old.2.1 || row.any OpGroup.poison || col.any OpGroup.poison }

/-- Row j of tile t: every element of it. -/
def rowAcc (cl : Cluster) (sel : W64) (p : PassF) (t j : Nat) (row : OpRow) (cols : List OpRow) : List AccElem :=
  cols.zipIdx.map (fun (c : OpRow × Nat) => accElem cl sel p t j c.2 row c.1)

/-- Streams a shape reads: false U, true L (R88). -/
def passStreams (shape : Nat) : List Bool := if shape = 2 || shape = 3 then [false, true] else [false]

/-- The weight tiles of a pass as the operand store holds them: for each tile its columns (R91). -/
def stageTile (cl : Cluster) (p : PassF) (tile : Bytes) : List (List OpRow) :=
  (List.range (tileCount p.shape)).map (fun t => (List.range p.n).map (readRow cl.ops (wgtLoc tile p.w t) p.kg))

/-- Activation row j of every stream of a pass as the operand store holds it (R86). -/
def enterRow (cl : Cluster) (p : PassF) (tile : Bytes) (j : Nat) : List OpRow :=
  (passStreams p.shape).map (fun l => readRow cl.ops (actLoc tile p.a l) p.kg j)

/-- Infinities replaced in reading groups (R35). -/
def infsOf (gs : List OpRow) : Nat := (gs.flatten.map OpGroup.inf).sum

/-- The row of a stream that tile t reads. -/
def streamRow (p : PassF) (rows : List OpRow) (t : Nat) : OpRow := rows.getD (if streamL p.shape t then 1 else 0) []

/-- The bytes of an accumulated element in its bank (R78, R97). -/
def AccElem.bytes (e : AccElem) (comp : Bool) : List WByte :=
  wbytes e.off (natLe 4 e.acc.hi ++ if comp then natLe 4 e.acc.lo else []) e.poi

/-- shape_elem of R102 before output conversion: the value, exact, and the saturations it counts. The rounding of the affine stage counts
once, and every infinite SCALE, bias and clip bound that an element reads counts once for it (R35; DESIGN CHOICE, log entry 49). -/
def shapeElem (c : ShaperF) (comp : Bool) (acc : Acc) (bias ref : Nat) : Num × Nat :=
  let h := dec32 acc.hi
  let l := dec32 acc.lo
  let nan := h.1.isNan || (comp && l.1.isNan) || (c.scaleEn && isNan32 c.scale) || (c.biasEn && isNan32 bias)
  if nan then (.nan, 0) else
  let v0 : Num := if comp then (h.1.toDy.add l.1.toDy).toNum false else h.1
  let s0 := h.2.sat + if comp then l.2.sat else 0
  let sc := dec32 c.scale
  let bi := dec32 bias
  let affine := c.scaleEn || c.biasEn
  let t0 : Dy := if c.scaleEn then v0.toDy.mul sc.1.toDy else v0.toDy
  let t : Dy := if c.biasEn then t0.add bi.1.toDy else t0
  let r := round32 t
  let v1 : Num := if affine then (dec32 r.1).1 else v0
  let s1 := if affine then b2n r.2 + (if c.scaleEn then sc.2.sat else 0) + (if c.biasEn then bi.2.sat else 0) else 0
  let lo := dec32 c.clipLo
  let hi := dec32 c.clipHi
  let v2 : Num := if c.clipEn && !lo.1.isNan && Dy.cmp v1.toDy lo.1.toDy == .lt then lo.1 else v1
  let v3 : Num := if c.clipEn && !hi.1.isNan && Dy.cmp v2.toDy hi.1.toDy == .gt then hi.1 else v2
  let s2 := if c.clipEn then lo.2.sat + hi.2.sat else 0
  if c.func = 0 then (v3, s0 + s1 + s2) else
  let x := toFp32 v3
  let y := shaperFunc c.func x.1 ref
  ((dec32 y.1).1, s0 + s1 + s2 + b2n x.2 + y.2.sat)

/-- Histogram bin of a non-zero FP32 code (R162). -/
def histBin (x : Nat) : Nat :=
  match (dec32 x).1 with
  | .nan => 0
  | .fin _ g e => (max 0 (min 31 ((fexp g e + 48) / 2))).toNat

def bump (l : List Nat) (i : Nat) : List Nat := l.set i (l.getD i 0 + 1)

/-- Statistics of one row: the FP32 codes of the values that are neither NaN nor poisoned (R162). -/
def rowStats (xs : List Nat) : RowStats :=
  let mags := xs.map (· % 2 ^ 31)
  { values := xs.length
    zeros := (mags.filter (· == 0)).length
    hist := (mags.filter (· != 0)).foldl (fun h x => bump h (histBin x)) (List.replicate 32 0)
    rowmax := if mags.isEmpty then [] else [mags.foldl max 0] }

def RowStats.add (a b : RowStats) : RowStats :=
  { values := a.values + b.values, zeros := a.zeros + b.zeros, hist := List.zipWith (· + ·) a.hist b.hist,
    rowmax := a.rowmax ++ b.rowmax }

/-- What the shaper makes of one row of a tile: its writes, counts, statistics. -/
structure ShapeRow where
  ws     : List WByte
  counts : Counts
  quant  : Nat
  stats  : RowStats
  elems  : Nat
deriving DecidableEq, Repr

/-- Row j of tile t through the shaper (R102, R103, R104). The values of a poisoned batt, and those of a poisoned granule in a format without
batts, are no values of R162; the saturations of a poisoned batt's elements count nowhere (R62; DESIGN CHOICE for the granule, log entry
49). -/
def shapeRow (cl : Cluster) (p : PassF) (rec : Bytes) (j : Nat) (row : List AccElem) : ShapeRow :=
  let c := shaperFields rec
  let f := (fmtOfCode c.ofmt).getD .fp32
  let n := c.cols p.n
  let refA := recRef rec + 4 * j
  let ref := leNat (cl.ops.read refA 4)
  let refPoi := c.func == 1 && cl.ops.poisoned 32 refA 4
  let vs := (row.take n).zipIdx.map (fun (e : AccElem × Nat) =>
    let ba := recBias rec + 4 * e.2
    let bias := if c.biasEn then leNat (cl.ops.read ba 4) else 0
    let s := shapeElem c p.comp e.1.acc bias ref
    (s.1, s.2, e.1.poi || refPoi || (c.biasEn && cl.ops.poisoned 32 ba 4)))
  let out := rowOut f (outRowAddr c f j) (outScaleAddr c f p.n j) c.peelEn c.peel p.n (fun _ => .rne)
    (vs.map (fun v => (v.1, v.2.2)))
  let good := (vs.zip out.bad).filter (fun v => !v.2)
  let counted := if fmtBlock f then good.map Prod.fst else vs
  let xs := (good.filter (fun v => !v.1.1.isNan)).map (fun v => (toFp32 v.1.1).1)
  { ws := out.ws
    counts := { out.counts with sat := out.counts.sat + (counted.map (fun v => v.2.1)).sum }
    quant := out.quant
    stats := rowStats xs
    elems := n }

/-- The shadow of row j where a plan selects it: BF16 of each value (R108). -/
def shadowRow (cl : Cluster) (p : PassF) (rec plan : Bytes) (j y : Nat) (row : List AccElem) : List WByte :=
  let c := shaperFields rec
  let q := planFields plan
  let ref := leNat (cl.ops.read (recRef rec + 4 * j) 4)
  let refPoi := c.func == 1 && cl.ops.poisoned 32 (recRef rec + 4 * j) 4
  ((row.take (c.cols p.n)).zipIdx.map (fun (e : AccElem × Nat) =>
    let ba := recBias rec + 4 * e.2
    let bias := if c.biasEn then leNat (cl.ops.read ba 4) else 0
    let s := shapeElem c p.comp e.1.acc bias ref
    let x := (toFp32 s.1).1
    let b := (roundTo .bf16 fpBF16 (dec32 x).1 .rne).1
    wbytes (q.base + y * q.pitch + 2 * (c.col0 + e.2)) (natLe 2 b)
      (e.1.poi || refPoi || (c.biasEn && cl.ops.poisoned 32 ba 4)))).flatten

/-- Whether skipping holds an activation group still: its products with every used weight column are zero and not NaN, and no
lane is peeled (R105). -/
def groupSkipped (a : OpGroup) (ws : List OpGroup) : Bool :=
  a.peel.isNone && !a.hasNan && ws.all (fun w => w.peel.isNone && !w.hasNan && (groupProducts a w).all (fun d => d.m == 0))

/-- Activation groups of one entering row that zero-batt skipping passes over (R105), over the streams: each against the columns of the
tiles that read it. -/
def skipCount (p : PassF) (wts : List (List OpRow)) (rows : List OpRow) : Nat :=
  ((passStreams p.shape).map (fun l =>
    let cols := (wts.zipIdx.filter (fun (x : List OpRow × Nat) => streamL p.shape x.2 == l)).map Prod.fst
    ((rows.getD (if l then 1 else 0) []).zipIdx.filter (fun (g : OpGroup × Nat) =>
      groupSkipped g.1 (cols.flatten.filterMap (fun c => (c.drop g.2).head?)))).length)).sum

/-- floor(log2(a / b)) of positive naturals. -/
def log2Ratio (a b : Nat) : Int :=
  let k : Int := (a.log2 : Int) - b.log2
  let le := if k ≥ 0 then b * 2 ^ k.toNat ≤ a else b ≤ a * 2 ^ (-k).toNat
  if le then k else k - 1

/-- The disagreement exponent of two blocks (R167); the blocks hold no poisoned element. -/
def disagreement (narrow wide : List Nat) : Int :=
  match narrow.mapM val32, wide.mapM val32 with
  | some ns, some ws =>
    let D : Dy := (List.zipWith (fun a b => let d := Dy.sub a b; d.mul d) ns ws).foldl Dy.add { m := 0, e := 0 }
    let W : Dy := (ws.map (fun b => b.mul b)).foldl Dy.add { m := 0, e := 0 }
    if D.m = 0 then -128 else
    if W.m = 0 then 32 else
    max (-128) (min 32 (log2Ratio (D.m.natAbs ^ 2) (W.m.natAbs ^ 2) + 2 * (D.e - W.e)))
  | _, _ => 32

/-- The narrow values of row j of a sampled pass (R106), where the draw chooses that row: from +0, in the pass's mode, with FP32
accumulation, each with the poison of what it read. -/
def narrowRow (p : PassF) (g : Gen4) (wts : List (List OpRow)) (j : Nat) (rows : List OpRow) : List (Nat × List (Nat × Bool)) :=
  if !(drawRows g p.m).contains j then [] else
  let t := drawTile g (tileCount p.shape)
  let x := drawCols g p.n
  let row := streamRow p rows t
  [(j, (((wts.getD t []).drop x.1).take x.2).map (fun c =>
    ((passDot p.mode false { hi := 0, lo := 0 } (row.zip c)).1.hi, row.any OpGroup.poison || c.any OpGroup.poison)))]

/-- The wide values of a sampled pass, row by row in the order of the draw: the recomputation of R82 over the BF16 rows and columns that
the tile record names, as the operand store holds them, each with the poison of what it read (R106). -/
def wideRows (cl : Cluster) (p : PassF) (tile : Bytes) (g : Gen4) : List (Nat × List (Nat × Bool)) :=
  let t := drawTile g (tileCount p.shape)
  let x := drawCols g p.n
  let pa := fieldU tile (if streamL p.shape t then 80 else 76) 4
  let pw := fieldU tile 64 4 + t * fieldU tile 72 4
  let bf (base : Nat) : OpRow := (List.range p.kg).map (fun i => readBf16Group cl.ops (base + 64 * i))
  (drawRows g p.m).map (fun r =>
    let row := bf (pa + r * fieldU tile 84 4)
    (r, (span x.1 x.2).map (fun c =>
      let col := bf (pw + c * fieldU tile 68 4)
      ((strictDot false { hi := 0, lo := 0 } (row.zip col)).1.hi, row.any OpGroup.poison || col.any OpGroup.poison))))

/-- What the carder makes of a sampled pass's two blocks: none where an element is poisoned, else d4 (R167). -/
def pounceCheck (narrow wide : List (Nat × List (Nat × Bool))) : Option Int :=
  let ns := (wide.map (fun r => (narrow.find? (fun x => x.1 == r.1)).elim [] Prod.snd)).flatten
  let ws := (wide.map Prod.snd).flatten
  if ns.any Prod.snd || ws.any Prod.snd then none else some (disagreement (ns.map Prod.fst) (ws.map Prod.fst))

/-- The shadow rows of one tile for row j of the pass, where its plan selects them (R108). -/
def shadowOf (cl : Cluster) (p : PassF) (step : W32) (rec plan : Bytes) (j : Nat) (row : List AccElem) : List WByte :=
  let c := shaperFields rec
  if !(c.outEn && c.shadow) then [] else
  (((planFields plan).shadowRows cl.rng.seed step p.m).filter (fun x => x.1 == j)).flatMap (fun x => shadowRow cl p rec plan j x.2 row)

def PassRes.add (a : PassRes) (c : Counts) (quant : Nat) (st : RowStats) (accSat : Nat) : PassRes :=
  { counts := a.counts.add c, quant := a.quant + quant, stats := a.stats.add st, accSat := a.accSat + accSat }

/-- Writes the accumulated elements into the banks that are not current, block by block (R98). -/
def bankCommit (cl : Cluster) (sel : W64) (wide : Bool) (ws : List WByte) : Cluster :=
  { cl with
    bankA := cl.bankA.commitBank (fun _ => wide) (ws.filter (fun w => selB sel w.addr))
    bankB := cl.bankB.commitBank (fun _ => wide) (ws.filter (fun w => !selB sel w.addr)) }

/-- Elements that the shaper hands over for each tile, with its output format: none where OUT_EN is 0 (R104, R506). -/
def shapedElems (p : PassF) (recs : List Bytes) : List (Nat × Nat) :=
  (recs.take (tileCount p.shape)).map (fun r =>
    let c := shaperFields r
    (c.ofmt, if c.outEn then p.m * c.cols p.n else 0))

/-- What is left of the draws with indices in [a, b) once those of another run are taken out. -/
def cutRun (c : Nat × Nat) (rs : List (Nat × Nat)) : List (Nat × Nat) :=
  rs.flatMap (fun r => ([(r.1, min r.2 c.1), (max r.1 c.2, r.2)] : List (Nat × Nat)).filter (fun x => decide (x.1 < x.2)))

/-- Distinct pounce draws that the shaper of a pass evaluates for its shadow plans (R539): the draws of every consumer chunk that a tile's
plan touches are a run of indices under its tag and layer, and a draw that several tiles name is one draw. -/
def shadowDraws (p : PassF) (recs plans : List Bytes) : Nat :=
  let runs : List ((Nat × Nat) × (Nat × Nat)) := ((recs.zip plans).take (tileCount p.shape)).flatMap (fun x =>
    let c := shaperFields x.1
    let q := planFields x.2
    if c.outEn && c.shadow then [((q.tag, q.layer), q.drawRun p.m)] else [])
  (runs.zipIdx.map (fun (r : ((Nat × Nat) × (Nat × Nat)) × Nat) =>
    ((((runs.take r.2).filter (fun y => y.1 == r.1.1)).foldl (fun rest y => cutRun y.2 rest) (cutRun (0, 0) [r.1.2])).map
      (fun x => x.2 - x.1)).sum)).sum

/-- PLK_ACC_SEL with the bits of every block of the pass flipped (R98). -/
def flipSel (sel : W64) (bs : List Nat) : W64 := bs.foldl (fun (s : W64) b => s ^^^ (1 <<< b)) sel

end Sys2Proof.Machine
end

