-- ==== Sys2Proof/Machine/PlankRun.lean ====
section
/-! DEFINITION. The plank's rows in their cycles (R86, R88, R91 to R94): the edge buffer loads, a tile is staged, activation rows enter,
output rows are written. Nothing in the plank waits for a command, so its rows are brought up to the present cycle whenever something is
about to read or change what they touch; log entry 15 says in which cycle each event falls. -/

namespace Sys2Proof.Machine

/-- The fields of its word, its rows. -/
def Pass.p (q : Pass) : PassF := passFields q.word
def Pass.m (q : Pass) : Nat := q.p.m

/-- The cycle up to which first rows have entered: the present one, or that of the PAUSE (R109). -/
def rowLimit (s : State) (c : Fin 64) : Nat :=
  let k := s.cl c
  if k.seq.pauseReq || k.seq.paused then min k.seq.pauseC (arrCyc s c) else arrCyc s c

/-- Passes that the plank works on: those before the first abandoned one; of them, under a pause, only those whose first row has entered
(R109, R112). -/
def Plank.active (k : Plank) (held : Bool) (lim : Nat) : List Pass :=
  (k.passes.takeWhile (fun q => q.aband.isNone)).filter (fun q => !held || decide (q.firstC ≤ lim))

/-- What may happen in the plank in one cycle: an output row is complete, a tile is staged, the edge buffer takes a row, an activation
row enters. -/
inductive PlankEv where
  | row (q : Pass)
  | stage (q : Pass)
  | load (e : Edge)
  | enter (q : Pass)
deriving DecidableEq, Repr

/-- The next events of one pass, each with its cycle (R86, R91): its tile is read in the cycle that ends its staging, row j enters in
s + j, and row j of the output is written in s + j + 69, with its last column. -/
def Pass.nextEvs (q : Pass) : List (Nat × PlankEv) :=
  (if q.run.done < q.run.fed then [(q.firstC + q.run.done + 69, .row q)] else []) ++
  (if q.run.wts.isNone then [(q.stagedC, .stage q)] else if q.run.fed < q.m then [(q.firstC + q.run.fed, .enter q)] else [])

/-- The next row of an edge buffer, with its cycle (R88). -/
def Edge.nextEvs (e : Edge) : List (Nat × PlankEv) :=
  if e.rows.length < (passFields e.word).m then [(e.start + e.rows.length, .load e)] else []

/-- The earliest of some events; the first listed of those in one cycle. -/
def firstEv : List (Nat × PlankEv) → Option (Nat × PlankEv)
  | [] => none
  | x :: r => match firstEv r with
    | none => some x
    | some y => if y.1 < x.1 then some y else some x

/-- A change of one pass. -/
def Plank.onPass (k : Plank) (n : Nat) (f : Pass → Pass) : Plank := { k with passes := k.passes.map (fun y => if y.seqNo = n then f y else y) }

/-- PLK_ACC_SEL as a pass finds it: with the commits of the passes before it (R98). -/
def Plank.selFor (k : Plank) (q : Pass) : W64 :=
  (k.passes.takeWhile (fun y => y.seqNo != q.seqNo)).foldl (fun x y => flipSel x y.p.allBlocks) k.accSel

/-- The rows that a pass feeds the array in one cycle: from the edge buffer in VECMAT, else from the operand store (R86, R88). -/
def feedRow (k : Cluster) (q : Pass) : List OpRow :=
  if q.p.shape = 5 then
    (match k.plk.edges.find? (fun e => e.chain == q.chain) with
    | some e => [e.rows.getD q.run.fed []]
    | none => [])
  else enterRow k q.p q.tile q.run.fed

/-- An activation row enters; groups that zero-batt skipping passes over are counted as they pass (R105; DESIGN CHOICE, log entry 15: in
the cycle in which the row enters, in every attempt of the pass). -/
def rowEnters (k : Cluster) (q : Pass) : Cluster :=
  let rows := feedRow k q
  let z := if q.zskip then skipCount q.p (q.run.wts.getD []) rows else 0
  { k with
    plk := k.plk.onPass q.seqNo (fun y => { y with run := { y.run with
      feed := y.run.feed ++ [rows], fed := y.run.fed + 1
      res := { y.run.res with accSat := y.run.res.accSat + infsOf rows } } })
    cnt := { k.cnt with zskip := k.cnt.zskip + BitVec.ofNat 64 z } }

/-- A row of the pass is complete: accumulated into the other bank, shaped, written, and handed to the carder's counts; the narrow values
of a sampled row are captured (R86, R98, R102, R104, R106, R108). -/
def rowDone (k : Cluster) (q : Pass) : Cluster :=
  let p := q.p
  let j := q.run.done
  let rows := q.run.feed.headD []
  let wts := q.run.wts.getD []
  let sel := k.plk.selFor q
  let tiles := (List.range (tileCount p.shape)).map (fun t =>
    (rowAcc k sel p t j (streamRow p rows t) (wts.getD t []), q.recs.getD t [], q.plans.getD t []))
  let shaped := tiles.flatMap (fun x => if (shaperFields x.2.1).outEn then [shapeRow k p x.2.1 j x.1] else [])
  let shadows := tiles.flatMap (fun x => shadowOf k p q.step x.2.1 x.2.2 j x.1)
  let accs := tiles.flatMap Prod.fst
  let k1 := bankCommit k sel p.comp (accs.flatMap (fun e => e.bytes p.comp))
  { k1 with
    ops := k1.ops.commit 32 (shaped.flatMap ShapeRow.ws ++ shadows)
    plk := k1.plk.onPass q.seqNo (fun y => { y with run := { y.run with
      feed := y.run.feed.tail, done := j + 1
      res := shaped.foldl (fun r x => r.add x.counts x.quant x.stats 0)
        { y.run.res with accSat := y.run.res.accSat + (accs.map AccElem.sat).sum }
      narrow := y.run.narrow ++ (match q.draw with | some g => narrowRow p g wts j rows | none => []) } }) }

/-- One event of the plank. -/
def Cluster.plankEv (k : Cluster) : PlankEv → Cluster
  | .row q => rowDone k q
  | .stage q =>
    let w := stageTile k q.p q.tile
    { k with plk := k.plk.onPass q.seqNo (fun y => { y with run := { y.run with
      wts := some w, res := { y.run.res with accSat := y.run.res.accSat + (w.map infsOf).sum } } }) }
  | .load e =>
    let r := readRow k.ops (actLoc e.tile (passFields e.word).a false) (passFields e.word).kg e.rows.length
    { k with plk := { k.plk with edges := k.plk.edges.map (fun y => if y.chain = e.chain then { y with rows := y.rows ++ [r] } else y) } }
  | .enter q => rowEnters k q

/-- The events that are due up to cycle `cyc`, in the order of their cycles; `n` bounds their number. -/
def runPlank : Nat → Bool → Nat → Nat → Cluster → Cluster
  | 0, _, _, _, k => k
  | n + 1, held, lim, cyc, k =>
    match firstEv ((k.plk.active held lim).flatMap Pass.nextEvs ++ k.plk.edges.flatMap Edge.nextEvs) with
    | none => k
    | some x => if cyc < x.1 then k else runPlank n held lim cyc (k.plankEv x.2)

/-- Events that the passes of a plank still have before them, at most. -/
def Plank.evCount (k : Plank) : Nat :=
  (k.passes.map (fun q => 2 * q.m + 1)).sum + (k.edges.map (fun e => (passFields e.word).m)).sum

/-- The rows of a cluster's plank brought up to the present cycle. -/
def rowsNow (s : State) (c : Fin 64) : State :=
  let k := s.cl c
  if k.plk.passes.isEmpty then s
  else s.setCl c (runPlank k.plk.evCount (k.seq.pauseReq || k.seq.paused) (rowLimit s c) (arrCyc s c) k)

/-- The same for every cluster. -/
def planksNow (s : State) : State := (List.finRange 64).foldl rowsNow s

end Sys2Proof.Machine
end

