-- ==== Sys2Proof/Machine/PartOps.lean ====
section
/-! DEFINITION. What happens to domains, clusters and partitions as a whole, shared by many commands: powering domains (R17, R443),
the register image (R355), halting a cluster (R115, R155, R212), recovery (R409 to R412), sparing (R414). -/

namespace Sys2Proof.Machine

/-- Pending lower halves of a block that takes its reset values are discarded (R11). -/
def dropLow (s : State) (lo n : Nat) : State :=
  { s with low := s.low.filter (fun x => !(decide (lo ≤ x.addr) && decide (x.addr < lo + n))) }

/-- What a write of part of a 64-bit register gives (R11): the pending lower half kept, or the whole new value. A half stands in the lower
32 bits of `val`; `rw` says that the register's fields are RW. -/
def halfWrite (s : State) (addr : Nat) (who : Requester) (part : RegPart) (val old : W64) (rw : Bool) : State × Option W64 :=
  let rest := s.low.filter (fun x => !(x.addr == addr && x.who == who))
  match part with
  | .lower => ({ s with low := { addr := addr, who := who, val := val.setWidth 32 } :: rest }, none)
  | .whole => ({ s with low := rest }, some val)
  | .upper =>
    let lo : W32 := match s.low.find? (fun x => x.addr == addr && x.who == who) with
      | some x => x.val
      | none => if rw then old.setWidth 32 else 0
    ({ s with low := rest }, some ((val.setWidth 32 : W32) ++ lo))

/-- Usable-cluster map of the part record (R2, R360). -/
def usable (s : State) (c : Fin 64) : Bool := bitAt (fieldU s.sec.flash.part 8 8) c.val

/-- Device die of a cluster (R2). -/
def clDie (c : Fin 64) : Fin 2 := if c.val < 32 then 0 else 1

/-- Whether a domain of compute die d is on that keeps the die's ARR PLL running (R437). -/
def dieBusy (s : State) (d : Fin 2) : Bool :=
  spOn s d || (List.finRange 64).any (fun c => decide (clDie c = d) && clOn s c)

/-- Notes the moment at which the last CL_ or SP_ domain of a die went down (R437). -/
def noteIdle (s : State) (d : Fin 2) : State :=
  if dieBusy s d then s else { s with pwr := { s.pwr with idleAt := vset s.pwr.idleAt d (some s.now) } }

def setOn (s : State) (i : Nat) (on : Bool) : State :=
  { s with pwr := { s.pwr with on := setDom s.pwr.on i on, want := setDom s.pwr.want i false } }

def wantOn (s : State) (i : Nat) : State :=
  if domOn s i then s else { s with pwr := { s.pwr with want := setDom s.pwr.want i true } }

/-- SP_d powered up: contents zero; the die's ARR PLL runs (R437, R443). -/
def powerUpSp (s : State) (d : Fin 2) : State :=
  setOn { s with
    spines := vset s.spines d Sram.empty, clk := { s.clk with run := vset s.clk.run (d.castLE (by decide)) true }
    pwr := { s.pwr with idleAt := vset s.pwr.idleAt d none } } (64 + d.val) true

/-- A cluster is asked for, and the spine pool of its die with it: SP_d is off only while every cluster of its die is (R27). -/
def wantCl (s : State) (c : Fin 64) : State := wantOn (wantOn s (64 + (clDie c).val)) c.val

/-- CL_cc powered down: everything is lost, its freeze state is discarded (R17, R155, R456). Its control core takes committed firmware when it
powers up (R389). -/
def powerDownCl (s0 : State) (c : Fin 64) : State :=
  let s := dropPend s0 c
  let s1 := setOn (s.setCl c Cluster.reset) c.val false
  let s2 := { s1 with pwr := { s1.pwr with held := s1.pwr.held.filter (fun x => x.1 != c), hot := s1.pwr.hot.filter (fun x => x.1 != c) } }
  noteIdle (dropLow s2 (csrBase + 0x1000000 + c.val * 0x10000) 0x10000) (clDie c)

def powerDownSp (s : State) (d : Fin 2) : State :=
  noteIdle (setOn { s with spines := vset s.spines d Sram.empty } (64 + d.val) false) d

/-- MG_g powered down: contents lost (R243, R253); a scrub pass that a self-test waits for begins again. -/
def powerDownMg (s : State) (g : Fin 8) : State :=
  let gone (a : Nat) : Bool := match ownerOf s.mem a with
    | some (_, o) => (locate o.chans (a - o.base)).1 / 24 == g.val
    | none => false
  let m := { s.mem with
    cells := s.mem.cells.filter (fun x => !gone x.1), poison := s.mem.poison.filter (fun u => !gone (u * 32))
    mgs := vset s.mem.mgs g { Mg.reset with tests := (s.mg g).tests.map (fun x => { x with left := passGranules }) } }
  dropLow (setOn { s with mem := m } (68 + g.val) false) (csrBase + 0x2000000 + g.val * 0x100000) 0x100000

/-- LG_g powered down: both ports go OFF, their state is lost (R284). -/
def powerDownLg (s : State) (g : Fin 8) : State :=
  let f (t : State) (q : Fin 16) : State :=
    if q.val / 2 = g.val then dropLow ((t.setPort q Port.reset).setLink q LinkL.reset) (csrBase + 0x3000000 + q.val * 0x10000) 0x10000 else t
  setOn ((List.finRange 16).foldl f s) (76 + g.val) false

/-- UE_e powered down: registers of the update engine and of its collective engine are lost (R289, R312). -/
def powerDownUe (s : State) (e : Fin 4) : State :=
  let s1 := (s.setUe e Ue.reset).setCol e Col.reset
  setOn (dropLow (dropLow s1 (csrBase + 0x3800000 + e.val * 0x10000) 0x10000) (csrBase + 0x4000000 + e.val * 0x10000) 0x10000)
    (84 + e.val) false

/-- APP_1 powered down: harts 8 to 15 lose their state (R443, R456). -/
def powerDownApp1 (s : State) : State :=
  setOn { s with boot := { s.boot with
    running := s.boot.running &&& 0xFF, harts := Vector.ofFn (fun n => if n.val < 8 then s.boot.harts.get n else none) } } 89 false

/-- Harts released: those that were held start in machine mode at LOAD, with a0 = their number and a1 = 0 (R331). -/
def releaseHarts (s : State) (m : BitVec 16) : State :=
  { s with boot := { s.boot with
    running := s.boot.running ||| m
    harts := Vector.ofFn (fun n => if m.getLsbD n.val && !s.boot.running.getLsbD n.val then
      some { pc := s.boot.load, a0 := n.val, a1 := 0, machine := true } else s.boot.harts.get n) } }

/-- The partition and logical number of a claimed cluster (R349). -/
def claimOf (s : State) (c : Fin 64) : Option (Fin 8 × Nat) :=
  (List.finRange 8).findSome? (fun p => ((s.slot p).asg.cmap.idxOf? c).map (fun l => (p, l)))

/-- The register image that the scheduler core writes when a claimed cluster powers up (R355, R222). -/
def writeImage (s : State) (c : Fin 64) : State :=
  match claimOf s c with
  | none => s
  | some (p, l) =>
    match (s.slot p).img with
    | none => s
    | some i =>
      let k := s.cl c
      s.setCl c { k with
        sreg := { k.sreg with
          part := BitVec.ofNat 3 p.val, lcl := BitVec.ofNat 6 l
          entry := BitVec.ofNat 64 (fieldU i.clusters (16 * l) 8)
          vtBase := BitVec.ofNat 64 (fieldU i.clusters (16 * l + 8) 8) &&& 0xFFFFFFFFFFE0
          rvBase := BitVec.ofNat 64 (policyBase i) }
        rng := { k.rng with seed := runSeed i, valid := true } }

/-- Freeze causes in effect for a cluster that powers up now (R456). -/
def bornFrozen (s : State) (c : Fin 64) : List FreezeCause :=
  (if s.pwr.scopes.contains (clDie c).val || s.pwr.scopes.any (fun x => decide (2 ≤ x)) then [FreezeCause.trip] else []) ++
  (if s.pwr.hwActive then [FreezeCause.hwLimit] else [])

/-- A resident copy of firmware in the control SRAM (R321), as the bytes that are not 0: at 0x30_0000 the scheduler firmware, at 0x38_0000
the cluster control firmware. -/
def residentCode (s : State) (off : Nat) : List Host.Cell :=
  (s.ctl.cells.filter (fun c => decide (off ≤ c.1) && decide (c.1 < off + 0x80000))).map (fun c => (c.1 - off, c.2))

/-- CL_cc powered up: stores zero, registers at reset values, then the register image (R97, R443). -/
def powerUpCl (s : State) (c : Fin 64) : State :=
  let s0 := { s with clk := { s.clk with run := s.clk.run.set (clDie c).val true (by have := (clDie c).isLt; omega) }
                     pwr := { s.pwr with idleAt := vset s.pwr.idleAt (clDie c) none } }
  let k := { Cluster.reset with
    frz := bornFrozen s c, frzAt := s.now, stlAt := s.now, core := { Cluster.reset.core with code := residentCode s 0x380000 } }
  writeImage (setOn (s0.setCl c k) c.val true) c

-- Halting clusters

/-- The sequencer returned to IDLE with nothing queued, no stack and no semaphores (R155). -/
def Seq.halted (q : Seq) : Seq :=
  { Seq.reset with coreRst := q.coreRst, sigSeen := q.sigSeen }

/-- Every pass and check dropped, the plank IDLE (R115). -/
def Plank.halted (k : Plank) : Plank :=
  { k with passes := [], last := none, brk := true, faulted := false, checks := [], dropped := [], edges := [] }

/-- The cluster's units stopped and emptied; stores, registers and counters stay (R115, R155, R182, R212). -/
def Cluster.halt (k : Cluster) : Cluster :=
  { k with plk := k.plk.halted, seq := k.seq.halted, vec := { k.vec with jobs := [] }, dma := [], card := { k.card with slots := [] } }

/-- What an alarm of level 2 or higher does to a cluster (R115, R155, R182, R212, R228): it also clears the vector register file and
the run seed. It overrides a freeze: the plank reads IDLE, although the freeze's cause still holds whatever is issued later. -/
def Cluster.alarm (k : Cluster) : Cluster :=
  { k.halt with plk := { k.plk.halted with overridden := k.frozen }, vreg := Sram.empty, rng := { k.rng with seed := 0, valid := false } }

-- Recovery (R409 to R412)

/-- The usable checkpoint of the highest step below r, by the flags of its header (R408, R410). -/
def newestBelow (s : State) (p : Fin 8) (r : Nat) : Option Nat :=
  let k := (s.slot p).ck
  let bs := (k.slots.toList.filterMap id).filterMap (fun b => if b.complete && b.agreed && decide (b.step < r) then some b.step else none)
  let ms := k.mems.filterMap (fun m => if m.2.2 && decide (m.2.1 < r) then some m.2.1 else none)
  (bs ++ ms).max?

/-- Whether the partition's image declares a twin port (R399). -/
def twinned (s : State) (p : Fin 8) : Bool := !(twinPorts s p).isEmpty

def setTwin (s : State) (p : Fin 8) (t : Twin) : State := s.setSlot p { s.slot p with twin := t }

-- The end of a RUN, and parking (R379, R380)

/-- PARKED (R379): every accepted ticket without a reply is answered LAPSED, and a twinned partition tells its partner (R403). A LOAD or a
SELFTEST that is executing completes; a CLUSTER_KAT that still waits is not executing. A partition that parks from PAUSED keeps its step. -/
def park (s : State) (p : Fin 8) : State :=
  let k := s.slot p
  let waits (t : Ticket) : Bool := k.kat.any (fun w => w.ticket == some t.num && !w.ready)
  let keep (t : Ticket) : Bool := t.begun && (t.typ == 9 || (t.typ == 6 && !waits t))
  let s1 := k.led.queue.foldl (fun (u : State) t => if keep t then u else answer u p t stLapsed 0 (idleValue u p t.typ)) s
  let x := s1.slot p
  let s2 := s1.setSlot p { x with
    parkFrom := k.st, parking := false, pauseNum := none, run := if k.st = .paused then x.run else none
    kat := x.kat.filter (fun w => w.ready || w.ticket.isNone), obs := { x.obs with dump := none } }
  let s3 := setPState s2 p .parked
  sendTwin s3 (twinPorts s3 p) (twinData 4 p [] [])

/-- Ends the RUN of a slot with a status and a partition state (R380). A PAUSE that has not reached its pause point is answered STATE, as
IDLE answers it; a partition whose lease has lapsed parks (R379). -/
def endRun (s : State) (p : Fin 8) (status detail : Nat) (st : PState) : State :=
  match (s.slot p).run with
  | none => setPState s p st
  | some r =>
    let s1 := match findTicket s p r.num with
      | some t => answer s p t status detail (lastStep s p)
      | none => s
    let s2 := match (s.slot p).pauseNum with
      | some n => (match findTicket s1 p n with
        | some t => answer s1 p t stState 0 0
        | none => s1)
      | none => s1
    let s3 := setPState (s2.setSlot p { s2.slot p with run := none, pauseNum := none }) p st
    if st = .idle ∧ (s3.slot p).parking = true then park s3 p else s3

/-- A RUN that fails (R151, R380, R412 to R414): FAILED with DETAIL source and code; the partition returns to IDLE. -/
def failRun (s : State) (p : Fin 8) (source code : Nat) : State :=
  if (s.slot p).run.isNone then s else endRun s p stFailed (source * 256 + code) .idle

/-- RECOVER with the generation and target in force (R400, R410). -/
def sendRecover (s : State) (p : Fin 8) : State :=
  let w := (s.slot p).twin
  sendTwin s (upPorts s) (twinData 3 p [(2, 1, w.cause.toNat), (4, 4, w.r), (24, 4, w.gen), (28, 4, w.target.getD 0xFFFFFFFF)] [])

/-- NO_CHECKPOINT: the RUN fails with source 3, code 1, and the partition returns to IDLE (R412, R540). -/
def noCheckpoint (s : State) (p : Fin 8) (reason r : Nat) (target : Option Nat) : State :=
  let s1 := logEv s 0x0702 0xB00E p.val (payload [(0, 1, reason), (1, 1, p.val), (4, 4, r), (8, 4, target.getD 0xFFFFFFFF)])
  let s2 := setTwin s1 p { (s1.slot p).twin with recov := false, target := none, stopped := false }
  failRun s2 p 3 1

/-- A checkpoint stream in progress is abandoned; its slot stays without COMPLETE (R417). -/
def dropStream (s : State) (p : Fin 8) : State :=
  let k := (s.slot p).ck
  s.setSlot p { s.slot p with ck := { k with stream := none } }

/-- Recovery raised by this package (R409, R410, R417). Outside a step in progress there is nothing to recover. -/
def raiseRecovery (s : State) (p : Fin 8) (cause r : Nat) : State :=
  let k := s.slot p
  if k.run.isNone then s else
  let w := k.twin
  let again := w.recov
  let r' := if again then min r w.r else r
  match newestBelow s p r' with
  | none => noCheckpoint s p 1 r' none
  | some n =>
    let tgt := match (if again then w.target else none) with
      | some x => min x n
      | none => n
    let gen := if again then w.gen else w.gen + 1
    let w' := { w with
      recov := true, cause := BitVec.ofNat 4 cause, r := r', gen := gen, target := some tgt,
      stopped := if again then w.stopped else false, changed := if again && w.target == some tgt then w.changed else s.now }
    let s1 := dropStream (setTwin s p w') p
    let s2 := setPState s1 p .recovering
    let s3 := if again && w.target == some tgt then s2 else sendRecover s2 p
    logEv s3 0x0702 0xB006 p.val (payload [(0, 1, cause), (1, 1, p.val), (4, 4, r'), (8, 4, tgt), (12, 4, gen)])

/-- The step in progress of a slot. -/
def stepNow (s : State) (p : Fin 8) : Nat :=
  match (s.slot p).run with
  | some r => r.step
  | none => 0

-- Sparing (R414)

/-- The lowest-numbered spare on the die of the failed cluster, else on the other die. -/
def pickSpare (sp : List (Fin 64)) (c : Fin 64) : Option (Fin 64) :=
  match sp.filter (fun x => clDie x == clDie c) with
  | x :: _ => some (sp.foldl (fun m y => if clDie y == clDie c && decide (y < m) then y else m) x)
  | [] => sp.foldl (fun m y => match m with | none => some y | some z => if y < z then some y else some z) none

/-- Enters WAIT_REJOIN (R415). -/
def waitRejoin (s : State) (p : Fin 8) : State := setTwin s p { (s.slot p).twin with st := .waitRejoin, rebuiltAt := none }

/-- Every cluster of the partition that is on is halted. -/
def haltClusters (s : State) (p : Fin 8) : State :=
  (s.slot p).asg.cmap.foldl (fun (t : State) c => if clOn t c then t.setCl c (t.cl c).halt else t) (planksNow s)

/-- Every cluster of the partition is halted, and the step is due again from GO (R182, R414). -/
def rerunStep (s : State) (p : Fin 8) : State :=
  let s1 := haltClusters s p
  match (s1.slot p).run with
  | none => s1
  | some r => setPState (s1.setSlot p { s1.slot p with run := some { r with stage := .atB5, dueAt := s1.now } }) p .recovering

/-- A claimed cluster that is treated as faulted is replaced (R414). -/
def spareCluster (s : State) (c : Fin 64) : State :=
  match claimOf s c with
  | none => s
  | some (p, l) =>
    let k := s.slot p
    match pickSpare k.asg.spares c with
    | none =>
      let s1 := logEv s 0x0702 0xB009 p.val (payload [])
      let s2 := failRun s1 p 3 4
      if twinned s p then waitRejoin (sendTwin s2 (twinPorts s2 p) (twinData 5 p [] [])) p else s2
    | some n =>
      let s1 := s.setSlot p { k with asg := { k.asg with cmap := k.asg.cmap.set l n, spares := k.asg.spares.filter (fun x => x != n) } }
      let sp := if spOn s1 (clDie n) then s1 else powerUpSp s1 (clDie n)
      let s2 := powerDownCl (powerUpCl sp n) c
      let s3 := logEv s2 0x0702 0xB008 p.val
        (payload [(0, 1, l), (1, 1, c.val), (2, 1, n.val), (3, 1, p.val), (4, 4, stepNow s p)])
      match k.run with
      | none => s3
      | some r => if r.stage != .inStep then s3
        else if r.applied then raiseRecovery s3 p 6 r.step else rerunStep s3 p

-- Restarts of cluster control cores (R154, R385, R386, R389)

/-- Restarts within the last second, this one first. -/
def recentRestarts (s : State) (l : List Nat) : List Nat := s.now :: l.filter (fun x => !elapsed s.now x 1000000000)

/-- A cluster control core restarts (R154, R385) with the resident code; one that fails has its cluster replaced (R386, R414). -/
def restartCore (s : State) (c : Fin 64) (savePoisoned : Bool) : State :=
  if !clOn s c then s else
  let k := s.cl c
  let l := recentRestarts s k.core.restarts
  let n := k.core.count + 1
  let bad := decide (3 ≤ l.length) || savePoisoned
  let s1 := s.setCl c { k with
    seq := { k.seq with coreRst := true }, core := { k.core with restarts := l, count := n, failed := bad, code := residentCode s 0x380000 } }
  let s2 := { s1 with sched := { s1.sched with restarts := s1.sched.restarts + 1 } }
  let part := match claimOf s2 c with | some (p, _) => p.val | none => 15
  if bad then
    let s3 := { s2 with sched := { s2.sched with clfail := s2.sched.clfail ||| (1#64 <<< c.val) } }
    spareCluster (logSch s3 0x7011 part (payload [(0, 2, 0x0780 + c.val), (2, 1, if savePoisoned then 2 else 1), (4, 4, n)])) c
  else logSch s2 0x7010 part (payload [(0, 2, 0x0780 + c.val), (4, 4, n)])

/-- Cluster control cores of a partition take the committed firmware: at its B3, or when it ends (R389). -/
def activateCores (s : State) (p : Fin 8) : State :=
  let mine := (s.slot p).asg.cmap
  let now := s.sched.pendCl.filter (fun c => mine.contains c)
  let s1 := { s with sched := { s.sched with pendCl := s.sched.pendCl.filter (fun c => !mine.contains c) } }
  settleUpdate (now.foldl (fun (t : State) c => restartCore t c false) s1)

end Sys2Proof.Machine
end

