-- ==== Sys2Proof/Machine/MemOps.lean ====
section
/-! DEFINITION. What main memory and the on-die stores do when a code finds an error, when channels fail, train and are assigned, and
when keys are installed or erased (R233 to R248, R253), shared by the commands of chapter 9 and by the loader. -/

namespace Sys2Proof.Machine

-- Channels and groups

def setChan (s : State) (g : Fin 8) (n : Fin 24) (c : Chan) : State :=
  s.setMg g { s.mg g with chans := vset (s.mg g).chans n c }

def setPgrp (s : State) (g : Fin 8) (m : Fin 2) (x : Pgrp) : State :=
  s.setMg g { s.mg g with pgrps := vset (s.mg g).pgrps m x }

/-- Group and index of a channel number (R233). -/
def chanAt (c : Nat) : Option (Fin 8 × Fin 24) :=
  if h : c / 24 < 8 then some (⟨c / 24, h⟩, ⟨c % 24, Nat.mod_lt _ (by decide)⟩) else none

/-- The parity group of a channel within its controller group, and the channel's index in it (R233). -/
def chanPgrp (n : Fin 24) : Fin 2 := ⟨n.val / 12, by omega⟩
def chanIdx (n : Fin 24) : Nat := n.val % 12

/-- The channel of a controller group that index i of a parity group names. -/
def pgrpChan (m : Fin 2) (i : Nat) : Fin 24 := ⟨12 * m.val + i % 12, by omega⟩

/-- Data channels of packages and parity bits, ascending (R235, R242). -/
def dataChans (pkgs parity : Nat) : List Nat :=
  (List.range 192).filter (fun c => bitAt pkgs (c / 8) && !(bitAt parity (c / 12) && c % 12 == 11))

/-- Controller groups that hold a package of a bitmap (R233). -/
def pkgGroups (pkgs : Nat) : List (Fin 8) := (List.finRange 8).filter (fun g => bitsAt pkgs (3 * g.val) 3 != 0)

/-- Indices of the FAILED channels of a parity group (R243). -/
def failedIn (k : Mg) (m : Fin 2) : List Nat :=
  ((List.finRange 24).filter (fun n => chanPgrp n == m && (k.chans.get n).state == 3)).map chanIdx

/-- A parity group enters LOST: logged, and recovery of its owner follows (R245). -/
def pgrpLost (s : State) (g : Fin 8) (m : Fin 2) (owner : Nat) : State :=
  let s1 := s.setMg g { s.mg g with err := (s.mg g).err ||| 0x8 }
  let s2 := logEv s1 (0x0100 + g.val) 0x4006 owner (payload [(0, 1, 2 * g.val + m.val)])
  if h : owner < 8 then raiseRecovery s2 ⟨owner, h⟩ 5 (stepNow s2 ⟨owner, h⟩) else s2

/-- A parity group with parity on (R242): one that was off takes its state from the channels that have failed already (R243). -/
def enablePgrp (now : Nat) (x : Pgrp) (failed : List Nat) : Pgrp :=
  if x.enabled then x else
  match failed with
  | [] => { x with enabled := true }
  | [i] => { x with enabled := true, state := 1, failed := BitVec.ofNat 4 i, retries := 0, retryAt := now }
  | i :: r => { x with enabled := true, state := 3, failed := BitVec.ofNat 4 i, lostSet := (i :: r).foldl (fun (l : List Nat) j => nsSet l j true) [] }

/-- OWNER, PARITY and the enabled parity groups of the channels that a bitmap names (R242, R259); a group that enters LOST with its
parity is reported (R245). A rebuild left over in a group that its new owner keeps without parity ends. -/
def claimChans (s : State) (i : Fin 9) (pkgs parity : Nat) : State :=
  (List.finRange 8).foldl (fun (t : State) g =>
    let k := t.mg g
    let cs := Vector.ofFn (fun (n : Fin 24) =>
      let c := 24 * g.val + n.val
      if bitAt pkgs (c / 8) then
        let x := k.chans.get n
        { x with owner := BitVec.ofNat 4 i.val, parity := bitAt parity (c / 12) && c % 12 == 11,
                 state := if x.state = 4 ∧ bitAt parity (c / 12) = false then 1 else x.state }
      else k.chans.get n)
    let ps := Vector.ofFn (fun (m : Fin 2) =>
      if bitAt parity (2 * g.val + m.val) then enablePgrp t.now (k.pgrps.get m) (failedIn k m)
      else
        let f := pgrpChan m (k.pgrps.get m).failed.toNat
        if (k.pgrps.get m).state = 2 ∧ (k.chans.get f).state = 4 ∧ (cs.get f).state = 1 then Pgrp.reset
        else k.pgrps.get m)
    let t1 := t.setMg g { k with chans := cs, pgrps := ps }
    (List.finRange 2).foldl (fun (u : State) m =>
      if (k.pgrps.get m).state != 3 && (ps.get m).state == 3 then pgrpLost u g m i.val else u) t1) s

/-- The channels of an owner returned to nobody. A rebuild goes on, on ciphertext (R253), and LOST is left only by power-down (R243). -/
def freeChans (s : State) (i : Fin 9) : State :=
  (List.finRange 8).foldl (fun (t : State) g =>
    let k := t.mg g
    let mine (n : Fin 24) : Bool := (k.chans.get n).owner.toNat == i.val
    let ps := Vector.ofFn (fun (m : Fin 2) =>
      if (k.pgrps.get m).state.toNat < 2 && (List.finRange 24).any (fun n => chanPgrp n == m && mine n) then Pgrp.reset else k.pgrps.get m)
    t.setMg g { k with
      chans := Vector.ofFn (fun n => if mine n then { k.chans.get n with owner := 15, parity := false } else k.chans.get n)
      pgrps := ps }) s

/-- Packages and parity groups of an owner, as its image or the bundle names them (R326, R348). -/
def ownerPkgs (s : State) (i : Fin 9) : Nat × Nat :=
  if h : i.val < 8 then
    match (s.slot ⟨i.val, h⟩).img with
    | some m => (fieldU m.part 8 4, fieldU m.part 12 4)
    | none => (0, 0)
  else (fieldU s.boot.hostMem 0 3, fieldU s.boot.hostMem 4 3)

def rateCode : Rate → Nat
  | .r10667 => 1
  | .r12800 => 2
  | .r14400 => 3

/-- A fall-back to a rate (R234). -/
def logFallback (s : State) (g : Fin 8) (code : Nat) : State :=
  logEv (s.setMg g { s.mg g with err := (s.mg g).err ||| 0x10 }) (0x0100 + g.val) 0x4007 15 (payload [(0, 1, g.val), (1, 1, code)])

/-- MG_g powered up (R443): registers at their reset values. -/
def powerUpMg (s : State) (g : Fin 8) : State := setOn (s.setMg g Mg.reset) (68 + g.val) true

-- Channel failure (R243, R245)

/-- The failed channel of a parity group, within its controller group. -/
def failedChan (x : Pgrp) (m : Fin 2) : Option (Fin 24) :=
  if h : 12 * m.val + x.failed.toNat < 24 then some ⟨12 * m.val + x.failed.toNat, h⟩ else none

/-- A channel fails. -/
def failChan (s : State) (g : Fin 8) (n : Fin 24) : State :=
  let c := (s.mg g).chans.get n
  let s1 := setChan s g n { c with state := 3, ueAt := [] }
  let s2 := s1.setMg g { s1.mg g with err := (s1.mg g).err ||| 0x4 }
  let s3 := logEv s2 (0x0100 + g.val) 0x4003 c.owner.toNat (payload [])
  let m := chanPgrp n
  let x := (s3.mg g).pgrps.get m
  let i := chanIdx n
  if !x.enabled then s3
  else if x.state = 0 then setPgrp s3 g m { x with state := 1, failed := BitVec.ofNat 4 i, retries := 0, retryAt := s3.now }
  else if x.state = 3 then setPgrp s3 g m { x with lostSet := nsSet x.lostSet i true }
  else if x.failed.toNat = i then setPgrp s3 g m { x with state := 1, retries := 0, retryAt := s3.now }
  else
    let s4 := setPgrp s3 g m { x with state := 3, lostSet := nsSet [x.failed.toNat] i true }
    pgrpLost (match failedChan x m with
      | none => s4
      | some f => setChan s4 g f { (s4.mg g).chans.get f with state := 3 }) g m c.owner.toNat

/-- A group trained at a rate: every channel ACTIVE, with the owner and parity that its image declares (R253). -/
def trainedMg (s : State) (g : Fin 8) (code : Nat) : State :=
  let s1 := s.setMg g { s.mg g with
    trained := true, rate := BitVec.ofNat 2 code, chans := (s.mg g).chans.map (fun c => { c with state := 1 }) }
  (List.finRange 9).foldl (fun (t : State) i => match t.mem.owners.get i with
    | none => t
    | some _ =>
      let p := ownerPkgs t i
      claimChans t i (p.1 &&& (7 <<< (3 * g.val))) (p.2 &&& (3 <<< (2 * g.val)))) s1

/-- Training of a powered group: the fastest rate that works, or FAILED (R234). The channels of `bad` could not be trained at that rate
and fail (R243). -/
def trainMg (s : State) (g : Fin 8) (rate : Option Rate) (bad : BitVec 24) : State :=
  let code := match rate with | some r => rateCode r | none => 0
  let s1 := if code < 3 then logFallback s g 2 else s
  let s2 := if code < 2 then logFallback s1 g 1 else s1
  match rate with
  | none => s2.setMg g { s2.mg g with failed := true }
  | some _ => (List.finRange 24).foldl (fun (t : State) n => if bad.getLsbD n.val then failChan t g n else t) (trainedMg s2 g code)

-- Keys (R246, R247)

def setOwnerRange (s : State) (i : Fin 9) (o : Option Owner) : State :=
  { s with mem := { s.mem with owners := vset s.mem.owners i o } }

/-- The keys of an installation: random values of the security island (log entry 4). -/
def newMemKey (n : Nat) : MemKey :=
  let b := (List.range 64).map (fun i => Config.keyByte n i)
  { num := n, data := b.take 32, tweak := b.drop 32 }

/-- New keys for an owner range: what it held can no longer be read. -/
def installKeys (s : State) (i : Fin 9) : State :=
  match s.mem.owners.get i with
  | none => s
  | some o =>
    let f := s.fresh
    setOwnerRange { f.2 with mem := f.2.mem.forget o.base o.size } i (some { o with key := some (newMemKey f.1) })

/-- Keys zeroised: the range reads as zero with poison until new keys are installed. -/
def zeroiseKeys (s : State) (i : Fin 9) : State :=
  match s.mem.owners.get i with
  | none => s
  | some o => setOwnerRange { s with mem := s.mem.forget o.base o.size } i (some { o with key := none })

-- The check of a granule (R239, R243, R244, R253)

/-- Whether the granule at an offset of a channel can be rebuilt from its stripe: parity is on, nothing else of the stripe is missing. -/
def canRebuild (now : Nat) (x : Pgrp) (i off : Nat) : Bool :=
  x.enabled &&
    (if x.state = 0 then true
     else if x.state = 3 then false
     else decide (x.failed.toNat = i) || (x.state == 2 && decide (off / 256 < x.progress now)))

/-- Counts an uncorrectable granule of a channel; the 16th within 1 ms fails it (R243). -/
def noteUe (s : State) (g : Fin 8) (n : Fin 24) : State :=
  let c := (s.mg g).chans.get n
  let l := s.now :: c.ueAt.filter (fun x => !elapsed s.now x 1000000)
  let s1 := setChan s g n { c with ueAt := l }
  if 16 ≤ l.length then failChan s1 g n else s1

/-- A corrected granule: counted and logged at most once per channel per 1,000 ms. -/
def noteCe (s : State) (g : Fin 8) (n : Fin 24) : State :=
  let c := (s.mg g).chans.get n
  let s1 := setChan s g n { c with ceCount := if c.ceCount = 0xFFFF then 0xFFFF else c.ceCount + 1 }
  let s2 := s1.setMg g { s1.mg g with ce := (s1.mg g).ce + 1, err := (s1.mg g).err ||| 1 }
  logRated s2 1000 (0x0100 + g.val) 0x4001 c.owner.toNat (24 * g.val + n.val) (payload [])

/-- An uncorrectable granule that cannot be rebuilt: its address in main memory, where an owner has one, keeps meaningless bits with the
poison flag. -/
def poisonGranule (s : State) (g : Fin 8) (n : Fin 24) (off : Nat) (a : Option Nat) : State :=
  let c := (s.mg g).chans.get n
  let k := s.mg g
  let ch := 24 * g.val + n.val
  let o := off / 32 * 32
  let s1 := s.setMg g { k with
    ue := k.ue + 1, err := k.err ||| 2, ueChan := BitVec.ofNat 8 ch, ueOwner := c.owner, ueOff := BitVec.ofNat 35 o }
  let s2 := match a with
    | none => s1
    | some x =>
      let f := s1.fresh
      let lo := x / 32 * 32
      { f.2 with mem := f.2.mem.commit (wbytes lo ((List.range 32).map (fun j => Config.lostByte f.1 (lo + j))) true) }
  logEv s2 (0x0100 + g.val) 0x4002 c.owner.toNat (payload [(0, 2, ch), (2, 6, o), (8, 1, c.owner.toNat)])

/-- What the controller does with a read of a granule whose check ends as `e` says (R239). -/
def checkGranule (s : State) (g : Fin 8) (n : Fin 24) (off : Nat) (a : Option Nat) (e : Ecc) : State :=
  let c := (s.mg g).chans.get n
  let x := (s.mg g).pgrps.get (chanPgrp n)
  let i := chanIdx n
  /- The channel itself answers: not failed, and not waiting for its rebuild at this offset. -/
  let direct : Bool := c.state == 1 || (c.state == 4 && decide (off / 256 < x.progress s.now))
  if direct then
    match e with
    | .clean => s
    | .correctable => noteCe s g n
    | .uncorrectable =>
      if canRebuild s.now x i off then noteUe s g n else noteUe (poisonGranule s g n off a) g n
    | .stripe => noteUe (poisonGranule s g n off a) g n
  else
    match e with
    | .stripe => if x.enabled then poisonGranule s g n off a else s
    | _ => if x.enabled && x.state == 3 then poisonGranule s g n off a else s

/-- The granule of a main-memory address read by its owner. -/
def checkAddr (s : State) (a : Nat) (e : Ecc) : State :=
  match ownerOf s.mem a with
  | none => s
  | some (_, o) =>
    if o.key.isNone then s else
    let l := locate o.chans (a - o.base)
    match chanAt l.1 with
    | none => s
    | some (g, n) => if mgOn s g then checkGranule s g n l.2 (some a) e else s

/-- The main-memory address that an offset of a channel holds; none for a parity channel or one without owner. -/
def chanAddr (s : State) (g : Fin 8) (n : Fin 24) (off : Nat) : Option Nat :=
  let c := (s.mg g).chans.get n
  if h : c.owner.toNat < 9 then
    match s.mem.owners.get ⟨c.owner.toNat, h⟩ with
    | none => none
    | some o => if o.key.isNone then none else (unlocate o.chans (24 * g.val + n.val) off).map (fun x => o.base + x)
  else none

/-- A write of bytes to main memory: granules written in part are read first (R239), then every byte takes its place. -/
def dramWrite (s : State) (a : Nat) (b : Bytes) (poi : Bool) (e : Ecc) : State :=
  let last := a + b.length - 1
  let parts := (if a % 32 ≠ 0 ∨ a + b.length < a / 32 * 32 + 32 then [a] else []) ++
    (if last / 32 ≠ a / 32 ∧ last % 32 ≠ 31 then [last] else [])
  let s1 := parts.foldl (fun (t : State) x => checkAddr t x e) s
  devWrite s1 a b poi

-- On-die stores (R248)

/-- Number of a store instance, as the subject of a rate limit (R516). -/
def storeNum : Store → Nat
  | .operand c => c.val
  | .bankA c => 64 + c.val
  | .bankB c => 128 + c.val
  | .vreg c => 192 + c.val
  | .spine d => 256 + d.val

def storeSource : Store → Nat
  | .operand c | .bankA c | .bankB c | .vreg c => c.val
  | .spine d => 0x0110 + d.val

/-- Size in bytes and size of a unit that carries poison. -/
def storeSize : Store → Nat × Nat
  | .operand _ => (0xA00000, 32)
  | .bankA _ | .bankB _ => (0x100000, 4)
  | .vreg _ => (0x8000, 32)
  | .spine _ => (spineSize, 32)

def storeOn (s : State) : Store → Bool
  | .operand c | .bankA c | .bankB c | .vreg c => clOn s c
  | .spine d => spOn s d

/-- Partition of a store as the log names it: that of the cluster, or 15. -/
def storePart (s : State) : Store → Nat
  | .operand c | .bankA c | .bankB c | .vreg c => match claimOf s c with
    | some (p, _) => p.val
    | none => 15
  | .spine _ => 15

/-- The count of corrected errors of a store (R248). -/
def noteSramCe (s : State) (st : Store) : State :=
  if h : storeNum st < 258 then
    { s with mem := { s.mem with sramCe := vset s.mem.sramCe ⟨storeNum st, h⟩ (s.mem.sramCe.get ⟨storeNum st, h⟩ + 1) } }
  else s

def mapStore (s : State) (st : Store) (f : Sram → Sram) : State :=
  match st with
  | .operand c => s.setCl c { s.cl c with ops := f (s.cl c).ops }
  | .bankA c => s.setCl c { s.cl c with bankA := f (s.cl c).bankA }
  | .bankB c => s.setCl c { s.cl c with bankB := f (s.cl c).bankB }
  | .vreg c => s.setCl c { s.cl c with vreg := f (s.cl c).vreg }
  | .spine d => { s with spines := vset s.spines d (f (s.spines.get d)) }

/-- A unit of a store that its code could not correct: meaningless bits with poison. -/
def poisonUnit (s : State) (st : Store) (off : Nat) : State :=
  let u := (storeSize st).2
  let lo := off / u * u
  let f := s.fresh
  mapStore f.2 st (fun m => m.write u lo ((List.range u).map (fun j => Config.lostByte f.1 (lo + j))) true)

end Sys2Proof.Machine
end

