-- ==== Sys2Proof/Machine/AlarmOps.lean ====
section
/-! DEFINITION. Boot failures, rejected loads, authentication failures and alarms (R339, R340, R356, R363, R475, R481 to R485), shared
by every command that can end in one of them. -/

namespace Sys2Proof.Machine

-- Alarm levels

/-- The highest alarm level in effect (R483). -/
def alarmLevel (s : State) : Nat := s.sec.alarms.foldl (fun (m : Nat) a => max m a.level) 0

/-- Level of a sensor code as SEC_ALARM_CFG gives it (R482, R488). -/
def cfgLevel (s : State) (sensor : Nat) : Nat := bitsAt s.sec.cfg.toNat (3 * (sensor - 1)) 3

/-- Hart 0 has been released (R331). -/
def handedOff (s : State) : Bool := s.boot.running.getLsbD 0

/-- Whether ALERT is asserted (R339). -/
def alertOn (s : State) : Bool :=
  s.boot.stage == 15 || decide (3 ≤ s.boot.failed) || s.clk.cool == some 3 || decide (2 ≤ alarmLevel s) || !s.pwr.scopes.isEmpty

/-- The I3C in-band interrupt that ALERT raises when it asserts (R337): an output of kind i3c to destination 1. -/
def alertEdge (old new : State) : State := if !alertOn old && alertOn new then emit new .i3c 1 [] else new

-- Start-up

/-- PWR_BOOT.STAGE takes a stage as it begins, and the ROM writes its text line (R320, R338). -/
def enterStage (s : State) (n : Nat) : State :=
  let s1 := { s with boot := { s.boot with stage := BitVec.ofNat 4 n } }
  if 1 ≤ n ∧ n ≤ 7 then emit s1 .uart n [] else s1

/-- A boot failure (R340): the code, the event where it has one of its own, and FAILED where no retry follows. -/
def bootFail (s : State) (code : Nat) (event : Option Nat) (pl : Bytes) (fatal : Bool) : State :=
  let s1 := { s with boot := { s.boot with fail := BitVec.ofNat 8 code, retryAt := if fatal then none else s.boot.retryAt } }
  let s2 := match event with | some e => logEv s1 0x0700 e 15 pl | none => s1
  let s3 := if (s2.boot.running.getLsbD 0) then s2 else emit s2 .uart (0x80 + code) []
  if fatal then alertEdge s (enterStage s3 15) else s3

/-- Host groups all trained and no level-1 alarm holding the boot: the host keys are installed and stage 7 begins (R320, R341). -/
def finishStage6 (s : State) : State :=
  let gs := pkgGroups (fieldU s.boot.hostMem 0 3)
  if s.boot.stage = 6 ∧ alarmLevel s = 0 ∧ gs.all (fun g => mgOn s g && (s.mg g).trained) = true then
    enterStage (installKeys s 8) 7
  else s

-- Loads

/-- A full load that is given up (R356): its channels and clusters return, its keys are zeroised, the owner ranges stand as they stood before
it, the groups that it powered go down. -/
def undoLoad (s : State) (j : LoadJob) : State :=
  let o : Fin 9 := j.slot.castLE (by decide)
  let s1 := j.before.foldl (fun (t : State) x => setOwnerRange t x.1 x.2) (zeroiseKeys (freeChans s o) o)
  let s2 := s1.setSlot j.slot { s1.slot j.slot with asg := Assign.none }
  j.powered.foldl powerDownMg s2

/-- A rejected load (R356): the reply carries the reason, and IMAGE_REJECT is logged with PART and IMAGE_ID of the image (R345). -/
def rejectLoad (s : State) (p : Fin 8) (t : Ticket) (reason dir : Nat) (image : Bytes) : State :=
  let s1 := logEv s 0x0700 0xD002 p.val (payload [(0, 1, reason), (1, 1, dir), (2, 1, fieldU image 10 1), (8, 8, fieldU image 40 8)])
  answer s1 p t stFailed (2 * 256 + reason) (fieldU image 40 8)

-- Debug and measurements

/-- A fresh 128-bit nonce (R481). -/
def newNonce (s : State) : State :=
  let a := s.fresh
  let b := a.2.fresh
  { b.2 with sec := { b.2.sec with nonce := Config.randomWord b.1 ++ Config.randomWord a.1 } }

/-- Open tokens that meet a condition close; a close redraws the nonce (R481, R489). -/
def closeDebug (s : State) (f : DbgOpen → Bool) : State :=
  if s.sec.dbg.any f then newNonce { s with sec := { s.sec with dbg := s.sec.dbg.filter (fun d => !f d) } } else s

-- A slot becomes EMPTY (R380, R483)

/-- Engines of an image given back. -/
def releaseUes (s : State) (i : Img) : State :=
  (imgUes i).foldl (fun (t : State) e => t.setUe e { t.ue e with regs := { (t.ue e).regs with assigned := false, part := 0 } }) s

/-- What a slot keeps when its partition ends: the ledger, its counters, and the registers that only a cold reset clears. Where the lease has
lapsed, the slot is PARKED, as one that parked from EMPTY (R379, R380). -/
def Slot.emptied (k : Slot) : Slot :=
  { Slot.reset with
    st := if k.parking ∨ k.st = .parked then .parked else .empty
    led := k.led, obs := { k.obs with dump := none }
    twin := { Twin.reset with cause := k.twin.cause, gen := k.twin.gen, v := k.twin.v, ckint := k.twin.ckint, silence := k.twin.silence } }

/-- Slot p holds no partition any more: resources return, the measurement is reset, the tenant is unbound, the keys are zeroised. -/
def emptySlot (s : State) (p : Fin 8) : State :=
  let s1 := match (s.slot p).img with | some i => releaseUes s i | none => s
  let s2 := zeroiseKeys (freeChans s1 (p.castLE (by decide))) (p.castLE (by decide))
  let s3 := s2.setSlot p (s2.slot p).emptied
  let s4 := { s3 with sec := { s3.sec with
    measP := vset s3.sec.measP p (zeroB 48), tenants := vset s3.sec.tenants p none } }
  syncHdr (closeDebug s4 (fun d => d.slot == some p)) p

-- Alarms

/-- Every collective of an engine aborts without NOTIFY, and the staging store is cleared (R284). -/
def Col.halted (k : Col) : Col := { k with state := 0, fly := [], held := [], dupLog := [], past := [], next := 0 }

/-- The engine abandons its batt; UPD_PARK, the seed and the step's records clear (R312). -/
def Ue.halted (k : Ue) : Ue :=
  { k with
    regs := { k.regs with state := 0, seed := 0, seedValid := false, parkStep := 0, parkGroup := 0, parkWhy := 0 }, st := UeStep.reset }

/-- Every accepted ticket of a slot answered FAILED with source 5 and the sensor code (R393). -/
def failTickets (s : State) (p : Fin 8) (sensor : Nat) : State :=
  (s.slot p).led.queue.foldl (fun (t : State) k =>
    answer t p k stFailed (5 * 256 + sensor) (if k.typ = 1 then lastStep t p else 0)) s

/-- Level 2 and higher: what is erased within 2 µs (R483), and every unit's own outcome (R115, R155, R212, R271, R284, R312). -/
def eraseAll (s00 : State) : State :=
  let s := planksNow s00
  let s1 := { s with sec := { s.sec with sessions := [], grants := Vector.replicate 8 none, tenants := Vector.replicate 8 none } }
  let s2 := (List.finRange 16).foldl (fun (t : State) q =>
    let s0 := t.setLink q LinkL.reset
    let k := s0.port q
    if k.state = 3 ∨ k.state = 4 then s0.setPort q { k with state := 2, keyTx := false, keyRx := false, leftUp := s.now } else s0) s1
  let s3 := (List.finRange 64).foldl (fun (t : State) c => if clOn t c then t.setCl c (t.cl c).alarm else t) s2
  let s4 := (List.finRange 4).foldl (fun (t : State) e =>
    if ueOn t e then (t.setUe e (t.ue e).halted).setCol e (t.col e).halted else t) s3
  (List.finRange 8).foldl (fun (t : State) p => zeroiseKeys t (p.castLE (by decide))) s4

/-- A load in progress is abandoned and replies ALARM (R363); then every slot answers its tickets and becomes EMPTY, and its cluster control
cores, which no B3 will restart, take the firmware that they await (R389). -/
def abortAll (s : State) (sensor : Nat) : State :=
  let s1 := match s.sched.job with
    | none => s
    | some j =>
      let s0 := { (if j.full then undoLoad s j else s) with sched := { s.sched with job := none } }
      match findTicket s0 j.slot j.num with
      | some t => rejectLoad s0 j.slot t 0x0D 0xFF j.image
      | none => s0
  (List.finRange 8).foldl (fun (t : State) p => emptySlot (failTickets (activateCores t p) p sensor) p) s1

/-- Retirement (R484): the marker page, then both copies of the helper data. -/
def retire (s : State) : State :=
  let f := s.sec.flash
  let s1 := { s with sec := { s.sec with flash := { f with marker := false, helperA := false, helperB := false } } }
  logEv s1 0x0700 0x900B 15 (payload [])

/-- An alarm of a level (R483): its log entry, the erasure, and the outcome of every unit. -/
def raiseAlarm (s : State) (sensor level : Nat) : State :=
  let pl := payload [(0, 1, sensor), (1, 1, level)]
  let a : AlarmOn := { sensor := sensor, level := level, since := s.now }
  let s1 := { s with sec := { s.sec with
    alarms := a :: s.sec.alarms
    seen := if 1 ≤ sensor then s.sec.seen ||| (1 <<< (sensor - 1)) else s.sec.seen
    highest := max s.sec.highest level, zdone := s.sec.zdone && decide (level < 2) } }
  let s2 := alertEdge s (closeDebug (logEv s1 0x0600 0x9001 15 pl) (fun _ => true))
  if level < 2 then s2 else
  let s3 := eraseAll s2
  let s4 := if 3 ≤ level then
      let t := zeroiseKeys s3 8
      { t with sec := { t.sec with bak := false }, sched := { t.sched with sampling := false } }
    else s3
  let s5 := logEv { s4 with sec := { s4.sec with zdone := true } } 0x0600 0x9003 15 pl
  let s6 := abortAll s5 sensor
  let s7 := if level = 4 then retire s6 else s6
  if handedOff s7 then s7 else bootFail s7 0x09 none [] true

/-- An authentication failure (R482): counted; 16 within 60 s raise AUTH at level 1, 64 at its configured level. -/
def authFailure (s : State) : State :=
  let l := s.now :: s.sec.authAt.filter (fun x => !elapsed s.now x 60000000000)
  let s1 := { s with sec := { s.sec with
    authAt := l, authFail := if s.sec.authFail = 0xFFFFFFFF then 0xFFFFFFFF else s.sec.authFail + 1 } }
  let want := if 64 ≤ l.length then cfgLevel s1 5 else if 16 ≤ l.length then 1 else 0
  if want = 0 || s1.sec.alarms.any (fun a => a.sensor == 5 && decide (want ≤ a.level)) then s1 else raiseAlarm s1 5 want

/-- A rejected load whose reason is SIGNATURE or UNAUTHORISED is an authentication failure as well (R482). -/
def rejectLoadAuth (s : State) (p : Fin 8) (t : Ticket) (reason dir : Nat) (image : Bytes) : State :=
  let s1 := rejectLoad s p t reason dir image
  if reason = 4 ∨ reason = 5 then authFailure s1 else s1

/-- SEC_DENIED for an access (R26, R464, R540). -/
def logDenied (s : State) (who : Requester) (addr : Nat) (isWrite : Bool) : State :=
  let ci : Nat × Nat := match who with
    | .app h => (0, h.val)
    | .pmc | .sched => (1, 0)
    | .clcore c => (2, c.val)
    | .cluster c => (3, c.val)
    | .upd e | .col e => (3, e.val)
    | .sec | .loader => (1, 0)
  logEv s 0x0700 0x9002 15 (payload [(0, 1, ci.1), (1, 1, ci.2), (2, 1, if isWrite then 1 else 0), (8, 8, addr)])

/-- SEC_DENIED for a refused security command (R475, R540). -/
def logRefused (s : State) (cmd : Nat) : State := logEv s 0x0700 0x9002 15 (payload [(0, 1, 4), (2, 1, 2), (3, 1, cmd)])

/-- The latest readings, in 1/8 °C, leave the range of the TEMP sensor, -40 °C to 125 °C (R482). -/
def tempOut (s : State) : Bool := s.pwr.sensors.any (fun y => decide (y.2 < -320) || decide (1000 < y.2))

/-- While the readings are out of range, and at the reading that ends this, the cause of a TEMP alarm lasts until now (R482, R483). -/
def holdTemp (s : State) : State :=
  { s with sec := { s.sec with alarms := s.sec.alarms.map (fun a => if a.sensor = 3 then { a with since := s.now } else a) } }

end Sys2Proof.Machine
end

