-- ==== Sys2Proof/Machine/VecDesc.lean ====
section
/-! DEFINITION. The vector engine's descriptor (R190, R191), its spaces (R188), and the checks made at issue (R192 to R194, R199,
R202, R203, R207, R209, R145). -/

namespace Sys2Proof.Machine

/-- Kinds of vector operation (R195). -/
inductive VCat where
  | fp | tr | cmp | int | bit | cvt | split | drop | red | soft | turn
deriving DecidableEq, Repr

/-- The kind of a VOP code; none for a reserved code (R195). -/
def vopCat (v : Nat) : Option VCat :=
  if 0x01 ≤ v && v ≤ 0x08 then some .fp
  else if 0x09 ≤ v && v ≤ 0x0B then some .cmp
  else if 0x10 ≤ v && v ≤ 0x13 then some .int
  else if 0x14 ≤ v && v ≤ 0x19 then some .bit
  else if v = 0x20 || v = 0x21 then some .cvt
  else if v = 0x22 then some .split
  else if 0x28 ≤ v && v ≤ 0x2B then some .tr
  else if 0x30 ≤ v && v ≤ 0x35 then some .red
  else if v = 0x38 then some .drop
  else if v = 0x40 then some .soft
  else if v = 0xF0 then some .turn
  else none

/-- Fields of a VEC word (R144). -/
def vecVop (w : IWord) : Nat := bitsAt w.toNat 104 8
def vecDescOff (w : IWord) : Nat := bitsAt w.toNat 86 18 * 64
def vecTag (w : IWord) : Nat := bitsAt w.toNat 70 16
def vecImm (w : IWord) : Nat := bitsAt w.toNat 0 64

/-- Bytes of register file (R188). -/
def vregSize : Nat := 0x8000

/-- A place in one of the engine's spaces: the register file or the operand store (R188). -/
structure VBase where
  reg : Bool
  off : Nat
deriving DecidableEq, Repr

/-- A base field; none where bit 31 is set with bits [30:15] not 0 (R188). -/
def vBase (v : Nat) : Option VBase :=
  if bitAt v 31 then (if bitsAt v 15 16 = 0 then some { reg := true, off := v % 0x8000 } else none)
  else some { reg := false, off := v }

def spaceOf (cl : Cluster) (reg : Bool) : Sram := if reg then cl.vreg else cl.ops
def spaceSize (reg : Bool) : Nat := if reg then vregSize else opsSize

/-- The fields of a vector descriptor (R190). -/
structure VDesc where
  dst   : Nat
  a     : Nat
  b     : Nat
  c     : Nat
  mask  : Nat
  comp  : Nat
  sa    : Nat
  sd    : Nat
  dfmt  : Nat
  afmt  : Nat
  bfmt  : Nat
  cfmt  : Nat
  flags : Nat
  rdims : Nat
  peel  : Nat
  ext   : List Nat
  seg   : Nat
deriving DecidableEq, Repr

def vecDesc (d : Bytes) : VDesc :=
  { dst := fieldU d 0 4, a := fieldU d 4 4, b := fieldU d 8 4, c := fieldU d 12 4, mask := fieldU d 16 4,
    comp := fieldU d 20 4, sa := fieldU d 24 4, sd := fieldU d 28 4, dfmt := fieldU d 32 1, afmt := fieldU d 33 1,
    bfmt := fieldU d 34 1, cfmt := fieldU d 35 1, flags := fieldU d 36 2, rdims := fieldU d 38 1,
    peel := fieldU d 39 1 % 16, ext := [fieldU d 40 4, fieldU d 44 4, fieldU d 48 4, fieldU d 52 4], seg := fieldU d 56 4 }

/-- STRIDE[d][o] (R190). -/
def vStride (d : Bytes) (dim o : Nat) : Int := fieldS d (64 + 16 * dim + 4 * o) 4

def VDesc.maskEn (v : VDesc) : Bool := bitAt v.flags 0
def VDesc.bImm (v : VDesc) : Bool := bitAt v.flags 1
def VDesc.aPeel (v : VDesc) : Bool := bitAt v.flags 2
def VDesc.dPeel (v : VDesc) : Bool := bitAt v.flags 3

/-- Points of the iteration space (R191). -/
def VDesc.total (v : VDesc) : Nat := v.ext.foldl (· * ·) 1

def VDesc.e (v : VDesc) (i : Nat) : Nat := v.ext.getD i 0

/-- The indices i0 to i3 of a linear index (R191). -/
def VDesc.idx (v : VDesc) (n : Nat) : List Nat :=
  let q1 := n / v.e 0
  let q2 := q1 / v.e 1
  [n % v.e 0, q1 % v.e 1, q2 % v.e 2, q2 / v.e 2]

/-- The operands an operation reads: 1 A, 2 B, 3 C. -/
def vopSrcs (vop : Nat) : List Nat :=
  if vop = 0x04 then [1, 2, 3]
  else if vop = 0x05 || vop = 0x06 then [1]
  else match vopCat vop with
    | some .fp | some .cmp | some .int | some .bit => [1, 2]
    | _ => [1]

/-- The format code of operand o: 0 destination, 1 A, 2 B, 3 C. -/
def VDesc.fcode (v : VDesc) : Nat → Nat
  | 0 => v.dfmt
  | 1 => v.afmt
  | 2 => v.bfmt
  | _ => v.cfmt

def VDesc.fmt (v : VDesc) (o : Nat) : Fmt := (fmtOfCode (v.fcode o)).getD .fp32

/-- The base field of operand o. -/
def VDesc.baseF (v : VDesc) : Nat → Nat
  | 0 => v.dst
  | 1 => v.a
  | 2 => v.b
  | _ => v.c

def isFp (f : Fmt) : Bool := f == .fp32 || f == .bf16
def isInt (f : Fmt) : Bool := f == .int8row || f == .int16 || f == .int32

/-- Native formats of the vector engine (R32). -/
def isNative (f : Fmt) : Bool :=
  match f with
  | .fp32 | .bf16 | .int8row | .int32 | .int16 | .e8m0 | .sidecar => true
  | _ => false

/-- Data formats: every format of R32 but the scale formats. -/
def isData (f : Fmt) : Bool := f != .e8m0 && f != .sidecar

/-- The formats each kind allows (R195). -/
def vFormatsOk (vop : Nat) (cat : VCat) (v : VDesc) : Bool :=
  let d := v.fmt 0
  let ss := (vopSrcs vop).map v.fmt
  match cat with
  | .fp | .tr => ss.all isFp && isFp d
  | .cmp => ss.all (fun f => isFp f || isInt f)
  | .int => ss.all isInt && isInt d
  | .bit => isNative d && ss.all (fun f => isNative f && fmtBits f == fmtBits d)
  | .cvt => isData (v.fmt 1) && isData d && !(vop == 0x21 && d == .int8row)
  | .split => v.fmt 1 == .fp32 && d == .bf16
  | .drop => isFp (v.fmt 1) && d == v.fmt 1
  | .red =>
    if vop = 0x34 || vop = 0x35 then d == .int32 && (isFp (v.fmt 1) || isInt (v.fmt 1))
    else (isFp (v.fmt 1) && isFp d) || (isInt (v.fmt 1) && isInt d)
  | .soft | .turn => false

/-- A range of bytes in a space: lowest address, end. -/
structure VRange where
  reg : Bool
  lo  : Int
  hi  : Int
deriving DecidableEq, Repr

def VRange.ok (r : VRange) : Bool := decide (0 ≤ r.lo) && decide (r.hi ≤ spaceSize r.reg)
def VRange.meets (a b : VRange) : Bool := a.reg == b.reg && decide (a.lo < b.hi) && decide (b.lo < a.hi) &&
  decide (a.lo < a.hi) && decide (b.lo < b.hi)

/-- Lowest and highest offset that the given dimensions reach, with `w` bytes at each point (R191). -/
def strideSpan (v : VDesc) (d : Bytes) (o : Nat) (dims : List Nat) (w : Nat) : Int × Int :=
  dims.foldl (fun (lh : Int × Int) k =>
    let x := ((v.e k : Int) - 1) * vStride d k o
    (lh.1 + min x 0, lh.2 + max x 0)) (0, (w : Int))

/-- Rows of the iteration space (R191). -/
def VDesc.rows (v : VDesc) : Nat := v.e 1 * v.e 2 * v.e 3

/-- Whether operand o carries row scales in this operation: INT8 with row scale, in CVT and CVTSR only (R190, R195). -/
def rowScaled (cat : VCat) (v : VDesc) (o : Nat) : Bool := cat == .cvt && v.fmt o == .int8row

/-- The scale field of operand o. -/
def VDesc.scaleF (v : VDesc) (o : Nat) : Nat := if o = 0 then v.sd else v.sa

/-- Bytes of a scale entry of operand o. -/
def vEntry (v : VDesc) (o : Nat) : Nat :=
  if v.fmt o = .int8row then 4 else if (if o = 0 then v.dPeel else v.aPeel) then 4 else 1

/-- The data range of operand o (R191, R198, R199, R202); `base` is its base. -/
def dataRange (vop : Nat) (cat : VCat) (v : VDesc) (d : Bytes) (imm o : Nat) (b : VBase) : VRange :=
  let f := v.fmt o
  let lohi : Int × Int :=
    if o = 0 && cat == .cmp then (0, (cdiv v.total 8 : Nat))
    else if fmtBlock f then strideSpan v d o [1, 2, 3] (cdiv (v.e 0) 32 * battBytes f)
    else if o = 0 && cat == .red then strideSpan v d o (span v.rdims (4 - v.rdims)) (fmtBits f / 8)
    else
      let r := strideSpan v d o [0, 1, 2, 3] (fmtBits f / 8)
      if o = 0 && vop == 0x22 then (r.1, r.2 + 2 * (imm % 2 ^ 32 : Nat)) else r
  { reg := b.reg, lo := b.off + lohi.1, hi := b.off + lohi.2 }

/-- The scale range of operand o (R191). -/
def scaleRange (v : VDesc) (o : Nat) (b : VBase) : VRange :=
  let per := if v.fmt o = .int8row then cdiv (v.e 0) v.seg else cdiv (v.e 0) 32
  { reg := b.reg, lo := b.off, hi := b.off + (v.rows * per * vEntry v o : Nat) }

/-- Alignment of operand o (R46, R191). -/
def vAlignOk (vop : Nat) (cat : VCat) (v : VDesc) (d : Bytes) (imm o : Nat) (b : VBase) (s : Option VBase) : Bool :=
  let f := v.fmt o
  let rows32 := b.off % 32 == 0 && [1, 2, 3].all (fun k => v.e k ≤ 1 || vStride d k o % 32 == 0)
  let sOk := match s with
    | some x => x.off % vEntry v o == 0
    | none => true
  if o = 0 && cat == .cmp then true
  else if fmtBlock f then rows32 && sOk
  else
    let w := fmtBits f / 8
    let dims := if o = 0 && cat == .red then span v.rdims (4 - v.rdims) else [0, 1, 2, 3]
    b.off % w == 0 && dims.all (fun k => vStride d k o % w == 0) && (!(o == 0 && vop == 0x22) || imm % w == 0) &&
      (!rowScaled cat v o || (rows32 && sOk))

/-- Whether the destination may coincide with operand o: an element-wise operation, same base, space, strides and element size
(R193). -/
def coincides (cat : VCat) (v : VDesc) (d : Bytes) (o : Nat) : Bool :=
  cat != .cmp && cat != .red && !fmtBlock (v.fmt o) && !fmtBlock (v.fmt 0) && fmtBits (v.fmt o) == fmtBits (v.fmt 0) &&
  v.baseF o == v.baseF 0 && [0, 1, 2, 3].all (fun k => vStride d k o == vStride d k 0)

/-- The reasons of R151. -/
def reasonBadWord : Nat := 1
def reasonBadCode : Nat := 2
def reasonBadPass : Nat := 3
def reasonDma : Nat := 4
def reasonBadVec : Nat := 5
def reasonVariant : Nat := 6
def reasonFlow : Nat := 7
def reasonSync : Nat := 8
def reasonPoison : Nat := 9
def reasonBlock : Nat := 10

/-- The checks of R190 to R194 on the descriptor of an operation other than TURN and STREAMSOFTMAX: none, or the reason of the
stop. A reserved code in any of the four format fields stops the program, whether the operation reads that field or not (R33). Bases and
strides are judged whatever the extents; ranges where there is an element. -/
def vecCheck (vop : Nat) (cat : VCat) (w : IWord) (d : Bytes) : Option Nat :=
  let v := vecDesc d
  let imm := vecImm w
  let srcs := vopSrcs vop
  if [0, 1, 2, 3].any (fun o => (fmtOfCode (v.fcode o)).isNone) then some reasonBadCode else
  let used := (0 :: srcs).filter (fun o => !(o == 2 && v.bImm))
  let bases := used.map (fun o => (o, vBase (v.baseF o)))
  let scaled := used.filter (fun o => (o ≤ 1) && ((cat != .cmp || o != 0) && (fmtBlock (v.fmt o) || rowScaled cat v o)))
  let sbases := scaled.map (fun o => (o, vBase (v.scaleF o)))
  let maskB := if v.maskEn then vBase v.mask else some { reg := false, off := 0 }
  let rs := rowScaled cat v 1 || rowScaled cat v 0
  let fields :=
    vFormatsOk vop cat v &&
    !(v.maskEn && cat != .cmp && (fmtBlock (v.fmt 0) || rowScaled cat v 0)) &&
    (!v.aPeel || (cat == .cvt && fmtPeels (v.fmt 1))) &&
    (!v.dPeel || (cat == .cvt && fmtPeels (v.fmt 0))) &&
    (cat != .red || (1 ≤ v.rdims && v.rdims ≤ 4)) &&
    v.total ≤ 2 ^ 36 &&
    (!(vop == 0x34 || vop == 0x35) || (v.ext.take v.rdims).foldl (· * ·) 1 < 2 ^ 32) &&
    (!rs || (v.seg != 0 && v.seg % 32 == 0)) &&
    !bitAt v.comp 31 && v.comp % 32 == 0 &&
    bases.all (fun b => b.2.isSome) && sbases.all (fun b => b.2.isSome) && maskB.isSome
  if !fields then some reasonBadVec else
  let bs := bases.filterMap (fun b => b.2.map (fun x => (b.1, x)))
  let ss := sbases.filterMap (fun b => b.2.map (fun x => (b.1, x)))
  let live := bs.filter (fun b => if b.1 = 0 && cat == .red then (v.ext.drop v.rdims).foldl (· * ·) 1 != 0 else v.total != 0)
  let alignOk := bs.all (fun b => vAlignOk vop cat v d imm b.1 b.2 ((ss.find? (fun s => s.1 == b.1)).map (·.2)))
  let rs := live.map (fun b => (b.1, dataRange vop cat v d imm b.1 b.2)) ++
    (ss.filter (fun s => live.any (fun b => b.1 == s.1))).map (fun s => (10 + s.1, scaleRange v s.1 s.2))
  let others := (if v.maskEn then maskB.toList.map (fun m =>
      (20, ({ reg := m.reg, lo := m.off, hi := m.off + (cdiv v.total 8 : Nat) } : VRange))) else []) ++
    [(21, { reg := false, lo := v.comp, hi := v.comp + 32 }),
     (22, { reg := false, lo := vecDescOff w, hi := vecDescOff w + 128 })]
  let inside := (rs ++ others).all (fun r => r.2.ok)
  let dsts := rs.filter (fun r => r.1 == 0 || r.1 == 10)
  let rest := (rs ++ others).filter (fun r => !(r.1 == 0 || r.1 == 10))
  let overlap := dsts.any (fun a => rest.any (fun b =>
    a.2.meets b.2 && !(a.1 == 0 && b.1 ≤ 3 && coincides cat v d b.1)))
  if alignOk && inside && !overlap then none else some reasonBadVec

/-- The fields of a STREAMSOFTMAX descriptor (R207). -/
structure SoftF where
  e     : Nat
  epit  : Nat
  es    : Nat
  espit : Nat
  ob    : Nat
  o     : Nat
  rb    : Nat
  rc    : Nat
  rn    : Nat
  l     : Nat
  qpos  : Nat
  comp  : Nat
  rows  : Nat
  nb    : Nat
  dv    : Nat
  efmt  : Nat
  flags : Nat
deriving DecidableEq, Repr

def softFields (d : Bytes) : SoftF :=
  { e := fieldU d 0 4, epit := fieldU d 4 4, es := fieldU d 8 4, espit := fieldU d 12 4, ob := fieldU d 16 4,
    o := fieldU d 20 4, rb := fieldU d 24 4, rc := fieldU d 28 4, rn := fieldU d 32 4, l := fieldU d 36 4,
    qpos := fieldU d 40 4, comp := fieldU d 44 4, rows := fieldU d 48 4, nb := fieldU d 52 4, dv := fieldU d 56 2,
    efmt := fieldU d 58 1, flags := fieldU d 59 1 }

def SoftF.causal (s : SoftF) : Bool := bitAt s.flags 0
def SoftF.first (s : SoftF) : Bool := bitAt s.flags 1

def plainRange (b : VBase) (n : Nat) : VRange := { reg := b.reg, lo := b.off, hi := b.off + n }

/-- The checks of STREAMSOFTMAX (R194, R207, R209). The running output, denominator and new reference are written. -/
def softCheck (w : IWord) (d : Bytes) : Option Nat :=
  let s := softFields d
  let imm := vecImm w
  match fmtOfCode s.efmt with
  | none => some reasonBadCode
  | some f =>
    let blk := fmtBlock f && f != .tt8
    let fieldsOk := (f == .fp32 || f == .bf16 || blk) && bitsAt imm 31 33 == 0 &&
      1 ≤ s.rows && s.rows ≤ 65536 && 1 ≤ s.nb && s.nb ≤ 65536 && 1 ≤ s.dv && s.dv ≤ 4096 &&
      imm + s.nb - 1 ≤ 2 ^ 31 - 1 && !bitAt s.comp 31 && s.comp % 32 == 0
    if !fieldsOk then some reasonBadVec else
    match vBase s.e, vBase s.es, vBase s.ob, vBase s.o, vBase s.rb, vBase s.rc, vBase s.rn, vBase s.l, vBase s.qpos with
    | some e, some es, some ob, some o, some rb, some rc, some rn, some l, some q =>
      let rowB := if blk then cdiv s.nb 32 * battBytes f else s.nb * (fmtBits f / 8)
      let arr (b : VBase) : VRange := plainRange b (4 * s.rows)
      let out (b : VBase) : VRange := plainRange b (4 * s.dv * s.rows)
      let dsts := [(0, out o), (1, arr rn), (2, arr l), (3, plainRange { reg := false, off := s.comp } 32)]
      let srcs := [(10, plainRange e ((s.rows - 1) * s.epit + rowB)), (11, out ob), (12, arr rb)] ++
        (if s.first then [] else [(13, arr rc)]) ++ (if s.causal then [(14, arr q)] else []) ++
        (if blk then [(15, plainRange es ((s.rows - 1) * s.espit + cdiv s.nb 32))] else []) ++
        [(16, plainRange { reg := false, off := vecDescOff w } 64)]
      let aligned := (if blk then e.off % 32 == 0 && s.epit % 32 == 0 else
          e.off % (fmtBits f / 8) == 0 && s.epit % (fmtBits f / 8) == 0) &&
        [ob, o, rb, rc, rn, l, q].all (fun b => b.off % 4 == 0)
      let inside := (dsts ++ srcs).all (fun r => r.2.ok)
      let same := rn == rc
      let clash := dsts.any (fun a => (dsts.any (fun b => a.1 < b.1 && a.2.meets b.2)) ||
        srcs.any (fun b => a.2.meets b.2 && !(a.1 == 1 && b.1 == 13 && same)))
      if aligned && inside && !clash then none else some reasonBadVec
    | _, _, _, _, _, _, _, _, _ => some reasonBadVec

/-- The fields of a TURN descriptor (R145). -/
structure TurnF where
  src  : Nat
  spit : Nat
  ss   : Nat
  sspit : Nat
  dst  : Nat
  dpit : Nat
  ds   : Nat
  dspit : Nat
  rows : Nat
  cols : Nat
  sfmt : Nat
  dfmt : Nat
  flags : Nat
  peel : Nat
deriving DecidableEq, Repr

def turnFields (d : Bytes) : TurnF :=
  { src := fieldU d 0 4, spit := fieldU d 4 4, ss := fieldU d 8 4, sspit := fieldU d 12 4, dst := fieldU d 16 4,
    dpit := fieldU d 20 4, ds := fieldU d 24 4, dspit := fieldU d 28 4, rows := fieldU d 32 4, cols := fieldU d 36 4,
    sfmt := fieldU d 40 1, dfmt := fieldU d 41 1, flags := fieldU d 42 1, peel := fieldU d 43 1 % 16 }

def TurnF.peelEn (t : TurnF) : Bool := bitAt t.flags 0
def TurnF.sPeel (t : TurnF) : Bool := bitAt t.flags 1

/-- Bytes of a row of n elements of a format. -/
def fmtRowBytes (f : Fmt) (n : Nat) : Nat := if fmtBlock f then cdiv n 32 * battBytes f else n * (fmtBits f / 8)

/-- Bytes of the scale entries of a row of n elements, one segment per row in INT8 with row scale. -/
def fmtScaleBytes (f : Fmt) (side : Bool) (n : Nat) : Nat :=
  if f = .int8row then 4 else if fmtBlock f then cdiv n 32 * (if side then 4 else 1) else 0

/-- The checks of TURN (R145, R146, R46, R52). The completion record lies at IMM[31:0] (R200). -/
def turnCheck (w : IWord) (d : Bytes) : Option Nat :=
  let t := turnFields d
  let comp := vecImm w % 2 ^ 32
  match fmtOfCode t.sfmt, fmtOfCode t.dfmt with
  | some sf, some df =>
    let fieldsOk := isData sf && isData df && df != .fp32p && 1 ≤ t.rows && t.rows ≤ 65536 && 1 ≤ t.cols && t.cols ≤ 65536 &&
      (!t.peelEn || fmtPeels df) && (!t.sPeel || fmtPeels sf)
    let al (f : Fmt) (base pit sb spit : Nat) (side : Bool) : Bool :=
      if fmtBlock f then base % 32 == 0 && pit % 32 == 0 && (!side || (sb % 4 == 0 && spit % 4 == 0))
      else if f = .int8row then base % 32 == 0 && pit % 32 == 0 && sb % 4 == 0 && spit % 4 == 0
      else base % (fmtBits f / 8) == 0 && pit % (fmtBits f / 8) == 0
    let rg (base n pit len : Nat) : VRange := { reg := false, lo := base, hi := base + (n - 1) * pit + len }
    let srcs := [rg t.src t.rows t.spit (fmtRowBytes sf t.cols)] ++
      (if fmtScaleBytes sf t.sPeel t.cols = 0 then [] else [rg t.ss t.rows t.sspit (fmtScaleBytes sf t.sPeel t.cols)])
    let dsts := [rg t.dst t.cols t.dpit (fmtRowBytes df t.rows)] ++
      (if fmtScaleBytes df t.peelEn t.rows = 0 then [] else [rg t.ds t.cols t.dspit (fmtScaleBytes df t.peelEn t.rows)])
    let extra : List VRange := [{ reg := false, lo := (comp : Nat), hi := ((comp + 32 : Nat) : Int) }, rg (vecDescOff w) 1 0 64]
    let ok := fieldsOk && al sf t.src t.spit t.ss t.sspit t.sPeel && al df t.dst t.dpit t.ds t.dspit t.peelEn &&
      (srcs ++ dsts ++ extra).all VRange.ok && !dsts.any (fun a => (srcs ++ extra).any a.meets) &&
      [srcs, dsts].all (fun l => match l with
        | [a, b] => !a.meets b
        | _ => true)
    if ok then none else some reasonBadVec
  | _, _ => some reasonBadCode

/-- The checks at issue of any vector operation on its descriptor's bytes; where the descriptor must lie, and its length, come
first (R190, R194, R207, R145). -/
def vecIssueCheck (cl : Cluster) (w : IWord) : Option Nat :=
  match vopCat (vecVop w) with
  | none => some reasonBadVec
  | some cat =>
    let len := if cat == .soft || cat == .turn then 64 else 128
    let off := vecDescOff w
    if off + len > opsSize || cl.ops.poisoned 32 off len then some reasonBadVec else
    let d := cl.ops.read off len
    match cat with
    | .soft => softCheck w d
    | .turn => turnCheck w d
    | c => vecCheck (vecVop w) c w d

end Sys2Proof.Machine
end

