-- ==== Sys2Proof/Machine/PassCheck.lean ====
section
/-! DEFINITION. The checks of a PASS at issue (R138) and the pounce draw of a pass (R136, R166). -/

namespace Sys2Proof.Machine

/-- A span of operand-store bytes: lowest byte and end (R112). -/
structure Span where
  lo : Nat
  hi : Nat
deriving DecidableEq, Repr

def Span.meets (a b : Span) : Bool := decide (a.lo < b.hi) && decide (b.lo < a.hi) && decide (a.lo < a.hi) && decide (b.lo < b.hi)
def Span.inside (a : Span) : Bool := decide (a.hi ≤ opsSize)

/-- The span of n rows of len bytes. -/
def rowsSpan (base pitch n len : Nat) : List Span :=
  if n = 0 || len = 0 then [] else [{ lo := base, hi := base + (n - 1) * pitch + len }]

/-- Spans that an operand's rows and scale entries take (R112, R135). -/
def OpndLoc.spans (o : OpndLoc) (rows kg : Nat) : List Span :=
  rowsSpan o.base o.pitch rows (kg * battBytes o.fmt) ++
  (let e := o.entry
   if e = 0 then [] else
   rowsSpan (o.sbase + o.entryIdx 0 * e) o.spitch rows ((o.entryIdx (kg - 1) + 1 - o.entryIdx 0) * e))

/-- The rules of an operand's base, pitch, segment and sidecar fields (R46, R52, R135). -/
def OpndLoc.ok (o : OpndLoc) : Bool :=
  let rs := o.fmt == .int8row
  (!o.side || fmtPeels o.fmt) && (!rs || (o.seg != 0 && decide (o.ph < o.seg))) && o.pitch % 32 == 0 &&
    (if fmtBlock o.fmt || rs then o.base % 32 == 0 && o.sbase % o.entry == 0 && o.spitch % o.entry == 0
     else o.base % (fmtBits o.fmt / 8) == 0)

/-- Field rules of the shaper record of one tile (R46, R52, R89, R90, R101, R102, R161). -/
def shaperOk (p : PassF) (nl : Nat) (upper : Bool) (rec plan : Bytes) : Bool :=
  let c := shaperFields rec
  match fmtOfCode c.ofmt with
  | none => false
  | some f =>
    let rs := f == .int8row
    let blk := fmtBlock f || rs
    let e := outEntry f c.peelEn
    fmtShaper f && decide (c.func ≤ 4) && (!c.peelEn || fmtPeels f) && (!upper || c.func == 0 || c.func == 4) &&
      c.outPit % 32 == 0 && decide (recLayer rec < nl) &&
      (if blk then c.col0 % 32 == 0 && c.outBase % 32 == 0 && c.sBase % e == 0 && c.sPit % e == 0
       else c.outBase % (fmtBits f / 8) == 0) &&
      (!rs || c.col0 % p.n == 0) && (!blk || p.n % 32 == 0 || decide (c.extent ≤ c.col0 + p.n)) &&
      (f != .fp32p || (p.comp && !c.scaleEn && !c.biasEn && !c.clipEn && c.func == 0)) &&
      (!c.biasEn || recBias rec % 4 == 0) && (c.func != 1 || recRef rec % 4 == 0) &&
      (!c.shadow ||
        (let q := planFields plan
         recPlan rec % 64 == 0 && decide (recPlan rec + 64 ≤ opsSize) && q.pitch % 32 == 0 && q.base % 2 == 0 &&
           decide (1 ≤ q.nk ∧ q.nk ≤ 65536) && decide (1 ≤ q.m ∧ q.m ≤ 1024)))

/-- Output spans of one tile: data, scale entries, shadow rows (R112). -/
def outSpans (p : PassF) (rec plan : Bytes) (seed : W64) (step : W32) : List Span :=
  let c := shaperFields rec
  let f := (fmtOfCode c.ofmt).getD .fp32
  if !c.outEn then [] else
  rowsSpan (outRowAddr c f 0) c.outPit p.m (outRowBytes c f p.n) ++
  rowsSpan (outScaleAddr c f p.n 0) c.sPit p.m (outScaleBytes c f p.n) ++
  (if c.shadow && c.cols p.n != 0 then
    let q := planFields plan
    let ys := (q.shadowRows seed step p.m).map Prod.snd
    match ys with
    | [] => []
    | y :: r => [{ lo := q.base + y * q.pitch + 2 * c.col0, hi := q.base + (r.getLast?.getD y) * q.pitch + 2 * (c.col0 + c.cols p.n) }]
   else [])

/-- Input spans that the shaper reads for one tile: bias and reference (R112). -/
def shaperInSpans (p : PassF) (rec : Bytes) : List Span :=
  let c := shaperFields rec
  if !c.outEn then [] else
  (if c.biasEn then rowsSpan (recBias rec) 0 1 (4 * c.cols p.n) else []) ++
  (if c.func = 1 then rowsSpan (recRef rec) 0 1 (4 * p.m) else [])

/-- Input spans of a pass: activation rows and weight columns with their entries (R112). -/
def opndSpans (p : PassF) (tile : Bytes) : List Span :=
  ((passStreams p.shape).map (fun l => (actLoc tile p.a l).spans p.m p.kg)).flatten ++
  ((List.range (tileCount p.shape)).map (fun t => (wgtLoc tile p.w t).spans p.n p.kg)).flatten

/-- Spans of the BF16 rows and columns that the check of a sampled pass reads (R106). -/
def pounceSpans (p : PassF) (tile : Bytes) (g : Gen4) : List Span :=
  let t := drawTile g (tileCount p.shape)
  let pa := fieldU tile (if streamL p.shape t then 80 else 76) 4
  let pw := fieldU tile 64 4 + t * fieldU tile 72 4
  let cs := drawCols g p.n
  ((drawRows g p.m).map (fun r => rowsSpan (pa + r * fieldU tile 84 4) 0 1 (64 * p.kg))).flatten ++
  ((span cs.1 cs.2).map (fun c => rowsSpan (pw + c * fieldU tile 68 4) 0 1 (64 * p.kg))).flatten

/-- The shaper records of a pass and their shadow plans as the operand store holds them (R101, R108). -/
def passRecs (cl : Cluster) (p : PassF) : List (Bytes × Bytes) :=
  (List.range (tileCount p.shape)).map (fun t =>
    let r := cl.ops.read (p.srec + 64 * t) 64
    (r, if (shaperFields r).shadow && decide (recPlan r + 64 ≤ opsSize) then cl.ops.read (recPlan r) 64 else zeroB 64))

/-- The alignment of the BF16 rows and columns that the check of a sampled pass reads, in the fields that its shape uses (R46, R135). -/
def pounceOk (p : PassF) (tile : Bytes) : Bool :=
  let even (o : Nat) : Bool := fieldU tile o 4 % 2 == 0
  fieldU tile 84 4 % 32 == 0 && even 76 && even 64 && even 68 && (even 80 || !(passStreams p.shape).contains true) &&
    (even 72 || tileCount p.shape == 1)

/-- Whether the claims of the accumulator blocks allow the pass (R98, R99): all its blocks claimed by one accumulation of the same
MODE, COMP, SHAPE, M and NM1. -/
def claimsOk (k : Plank) (p : PassF) : Bool :=
  if p.new then true else
  match p.allBlocks.map (alGet k.claims) with
  | some c :: r => r.all (fun x => x == some c) && c.shape == p.shape && c.mm1 == p.mm1 && c.nm1 == p.nm1 && c.mode == p.mode && c.comp == p.comp
  | _ => false

/-- Ladder of the innermost CALLV (R161). -/
def Seq.ladder (q : Seq) : Nat :=
  match q.calls with
  | c :: _ => c.ladder
  | [] => 0

/-- TAG of a stream-table entry of the partition (R220). -/
def streamTag (i : Img) (idx : Nat) : Nat := fieldU i.streams (8 + 16 * idx) 4

/-- PTAG of layer L and ladder d (R170). -/
def ladderPtag (i : Img) (L d : Nat) : Nat := fieldU i.ladders (32 * (3 * L + d) + 20) 2

/-- The pounce draw of a pass of layer L with index n (R166, R225). -/
def passDraw (s : State) (c : Fin 64) (L n : Nat) : Option Gen4 :=
  let k := s.cl c
  (imgOf s (clPart k)).map (fun i =>
    pounceDraw k.rng.seed (BitVec.ofNat 32 (streamTag i (ladderPtag i L k.seq.ladder))) k.sreg.step L n)

/-- The layer under which a pass is filed: that of its first shaper record (R161). -/
def passLayer (recs : List (Bytes × Bytes)) : Nat := (recs.head?.map (fun r => recLayer r.1)).getD 0

/-- Pass index of a layer so far (R136). -/
def passIndex (q : Seq) (L : Nat) : Nat := (alGet q.passIdx L).getD 0

/-- The draw that samples a pass, if it is sampled (R136, R166). -/
def passSample (s : State) (c : Fin 64) (p : PassF) (L : Nat) : Option Gen4 :=
  if p.pen then
    match passDraw s c L (passIndex (s.cl c).seq L) with
    | some g => if drawSamples g p.pk then some g else none
    | none => none
  else none

/-- Fields of the word that need no record (R67, R88, R98, R134). -/
def passWordOk (p : PassF) : Bool :=
  match fmtOfCode p.afmt, fmtOfCode p.wfmt with
  | some a, some w =>
    let fu := fusionOf a w
    let ts := tileSize p.shape fu
    fmtPlank a && fmtPlank w && pairAllowed a w && decide (p.shape ≤ 5) && (p.shape != 5 || decide (p.m ≤ 71)) &&
      !((p.shape == 2 || p.shape == 3) && fu == 5) && decide (1 ≤ p.kg ∧ p.kg ≤ ts.1 / 32) && decide (p.nm1 < ts.2) &&
      decide (p.accb + tileCount p.shape * p.blocks ≤ 64)
  | _, _ => false

/-- The checks of R138 (and the reserved codes of R33) on a PASS word at issue: none, or the reason of the stop. A reserved code is
reported before any other breach. -/
def passCheck (s : State) (c : Fin 64) (w : IWord) : Option Nat :=
  let k := s.cl c
  let p := passFields w
  if (fmtOfCode p.afmt).isNone || (fmtOfCode p.wfmt).isNone then some reasonBadCode else
  if !(decide (p.trec + 128 ≤ opsSize) && decide (p.srec + 64 * tileCount p.shape ≤ opsSize)) then some reasonBadPass else
  let recs := passRecs k p
  let tile := k.ops.read p.trec 128
  if recs.any (fun r => (fmtOfCode (shaperFields r.1).ofmt).isNone) then some reasonBadCode else
  let nl := ((imgOf s (clPart k)).map nLayer).getD 0
  let fields := passWordOk p && claimsOk k.plk p &&
    (recs.zipIdx).all (fun (r : (Bytes × Bytes) × Nat) => shaperOk p nl (upperTile p.shape r.2) r.1.1 r.1.2) &&
    (passStreams p.shape).all (fun l => (actLoc tile p.a l).ok) &&
    (List.range (tileCount p.shape)).all (fun t => (wgtLoc tile p.w t).ok)
  if !fields then some reasonBadPass else
  let outs := (recs.map (fun r => outSpans p r.1 r.2 k.rng.seed k.sreg.step)).flatten
  let ins := opndSpans p tile ++ (recs.map (fun r => shaperInSpans p r.1)).flatten
  let pz := match passSample s c p (passLayer recs) with
    | none => true
    | some g => pounceOk p tile && (pounceSpans p tile g).all Span.inside
  if (outs ++ ins).all Span.inside && pz && !outs.any (fun a => ins.any a.meets) then none else some reasonBadPass

end Sys2Proof.Machine
end

