-- ==== Sys2Proof/Machine/CarderOps.lean ====
section
/-! DEFINITION. The carder (R161 to R167): folding a pass and a pounce check into a slot, the carder record, and the records that
waiting STAT.FLUSHes write (R150, R164). -/

namespace Sys2Proof.Machine

def satU32 (n : Nat) : Nat := min n 0xFFFFFFFF

/-- A pass folded into a section (R162). -/
def Section.addPass (x : Section) (o : PassRes) : Section :=
  { x with
    amax := o.stats.rowmax.foldl max x.amax
    rmin := o.stats.rowmax.foldl min x.rmin
    values := (x.values + o.stats.values) % 2 ^ 64
    quant := (x.quant + o.quant) % 2 ^ 64
    crushed := (x.crushed + o.counts.crushed) % 2 ^ 64
    empty := satU32 (x.empty + o.counts.empty)
    peeled := satU32 (x.peeled + o.counts.peeled)
    sat := satU32 (x.sat + o.counts.sat)
    accSat := satU32 (x.accSat + o.accSat)
    nan := satU32 (x.nan + o.counts.nan)
    poison := satU32 (x.poison + o.counts.poison)
    passes := satU32 (x.passes + 1)
    zeros := satU32 (x.zeros + o.stats.zeros)
    hist := List.zipWith (fun a b => satU32 (a + b)) x.hist o.stats.hist }

/-- A check folded into a section (R167). -/
def Section.addCheck (x : Section) (d4 : Int) : Section :=
  { x with checks := satU32 (x.checks + 1), dsum := x.dsum + d4, dmax := max x.dmax d4 }

/-- One section of a slot changed; ladder 0 forward, 1 backward-data, 2 backward-weight (R165). -/
def CardSlot.onLadder (k : CardSlot) (d : Nat) (f : Section → Section) : CardSlot :=
  match d with
  | 0 => { k with fwd := f k.fwd }
  | 1 => { k with bwdD := f k.bwdD }
  | _ => { k with bwdW := f k.bwdW }

/-- A signed number in two's complement of n bytes. -/
def intLe (n : Nat) (x : Int) : Bytes := natLe n (x % (2 ^ (8 * n) : Nat)).toNat

/-- The 208 bytes of a section (R165). -/
def Section.bytes (x : Section) : Bytes :=
  natLe 4 x.amax ++ natLe 4 x.rmin ++ natLe 8 x.values ++ natLe 8 x.quant ++ natLe 8 x.crushed ++ natLe 4 x.empty ++ natLe 4 x.peeled ++
    natLe 4 x.sat ++ natLe 4 x.accSat ++ natLe 4 x.nan ++ natLe 4 x.poison ++ natLe 4 x.passes ++ natLe 4 x.checks ++ intLe 8 x.dsum ++
    intLe 2 x.dmax ++ zeroB 2 ++ natLe 4 x.zeros ++ (x.hist.map (natLe 4)).flatten

/-- The 768 bytes of a cluster's carder record (R165). -/
def cardRecord (k : CardSlot) (step : W32) (lcl : Nat) (ovf : Bool) : Bytes :=
  natLe 2 k.layer ++ natLe 2 1 ++ natLe 4 step.toNat ++ natLe 2 lcl ++ natLe 2 (if ovf then 2 else 0) ++ natLe 4 1 ++ zeroB 48 ++
    k.fwd.bytes ++ k.bwdD.bytes ++ k.bwdW.bytes ++ zeroB 80

/-- Partition field of a cluster's log entries: the partition that holds it, 15 where none does (R516). -/
def clLogPart (s : State) (c : Fin 64) : Nat :=
  match claimOf s c with
  | some (p, _) => p.val
  | none => 15

/-- An event of cluster hardware (R517). -/
def clLog (s : State) (c : Fin 64) (event : Nat) (pl : Bytes) : State := logEv s c.val event (clLogPart s c) pl

/-- The slot of a layer after taking a free one where it has none (R163); none where all 128 are taken. -/
def takeSlot (k : Carder) (L : Nat) : Option Carder :=
  if k.slots.any (fun x => x.layer == L) then some k
  else if k.slots.length < 128 then some { k with slots := k.slots ++ [CardSlot.clear L] }
  else none

/-- A change of the slot of a layer, and of the copies that the FLUSHes chosen by `mine` hold. -/
def foldInto (k : Cluster) (L d : Nat) (f : Section → Section) (mine : FlushJob → Bool) : Cluster :=
  { k with
    card := { k.card with slots := k.card.slots.map (fun x => if x.layer = L then x.onLadder d f else x) }
    dma := k.dma.map (fun j => match j with
      | .flush g => if g.layer = L && mine g then .flush { g with slot := g.slot.onLadder d f } else .flush g
      | x => x) }

/-- A FLUSH no longer waits for a pass, or for a check. -/
def unwaitP (k : Cluster) (n : Nat) : Cluster :=
  { k with dma := k.dma.map (fun j => match j with
    | .flush g => .flush { g with waitP := g.waitP.filter (· != n) }
    | x => x) }

def unwaitC (k : Cluster) (n : Nat) : Cluster :=
  { k with dma := k.dma.map (fun j => match j with
    | .flush g => .flush { g with waitC := g.waitC.filter (· != n) }
    | x => x) }

/-- The statistics of a committed pass: folded, or dropped for want of a slot (R163). -/
def foldPass (s : State) (c : Fin 64) (q : Pass) (o : PassRes) : State :=
  let k := s.cl c
  match takeSlot k.card q.layer with
  | some cd => s.setCl c (unwaitP (foldInto { k with card := cd } q.layer q.ladder (fun x => x.addPass o) (fun g => g.waitP.contains q.seqNo)) q.seqNo)
  | none =>
    let k1 := { k with
      card := { k.card with ovf := true, ovfCond := true, dropped := k.card.dropped + 1 } }
    clLog (s.setCl c (unwaitP k1 q.seqNo)) c 0x3003 (payload [(0, 2, q.layer), (4, 4, q.step.toNat)])

/-- A finished check (R163, R167): discarded; folded where its layer has a slot; dropped where it has none. -/
def foldCheck (s : State) (c : Fin 64) (h : Check) : State :=
  let k := s.cl c
  let k1 := match h.d4 with
    | none => k
    | some d =>
      if !k.card.slots.any (fun x => x.layer == h.layer) then k else
      let k2 := foldInto k h.layer h.ladder (fun x => x.addCheck d) (fun g => g.waitC.contains h.seqNo)
      { k2 with card := { k2.card with layer := BitVec.ofNat 16 h.layer, d4 := BitVec.ofInt 8 d, ladder := BitVec.ofNat 2 h.ladder } }
  s.setCl c (unwaitC k1 h.seqNo)

/-- Whether a pass of the step that has issued finds no free slot, or will find none at its commit (R163): the slots go to the layers in
the order in which their passes issue. -/
def passDropped (k : Cluster) : Bool :=
  let took := k.plk.passes.foldl (fun (a : List Nat × Bool) q =>
    if a.1.contains q.layer then a else if a.1.length < 128 then (q.layer :: a.1, a.2) else (a.1, true))
    (k.card.slots.map CardSlot.layer, false)
  k.card.ovfCond || took.2

/-- Whether a FLUSH waits for nothing more. -/
def DmaJob.flushReady : DmaJob → Bool
  | .flush g => g.waitP.isEmpty && g.waitC.isEmpty
  | .move _ _ _ _ => false

/-- Writes the record of every FLUSH that waits for nothing more, in order, and completes it (R126, R150). -/
def writeFlushes (s : State) (c : Fin 64) : State :=
  let k := s.cl c
  let done := k.dma.filter DmaJob.flushReady
  done.foldl (fun (t : State) j => match j with
    | .flush g => pWrite t (clPart k) g.addr (cardRecord g.slot k.sreg.step (clLcl k) g.ovf) false
    | _ => t) (s.setCl c { k with dma := k.dma.filter (fun j => !j.flushReady) })

end Sys2Proof.Machine
end

