-- ==== Sys2Proof/Machine/SeqOps.lean ====
section
/-! DEFINITION. The sequencer (R122 to R160), shared by its commands: word fields and validity, block fetch, stops, transfers, step
start, and what follows whenever a unit completes something. -/

namespace Sys2Proof.Machine

-- Access by register writers (R156, R117, R183, R229)

/-- The image loader runs on the security core (R384). -/
def isLoader (w : Requester) : Bool := w == .loader || w == .sec

def plkWriter (w : Requester) (c : Fin 64) : Bool := w == .clcore c || w == .sched
def seqWriter (w : Requester) (c : Fin 64) : Bool := plkWriter w c || isLoader w
def rngWriter (w : Requester) : Bool := w == .sched || isLoader w

-- Words (R123, R124)

def wCls (w : IWord) : Nat := bitsAt w.toNat 125 3
def wOp (w : IWord) : Nat := bitsAt w.toNat 121 4
def wWaitP (w : IWord) : Nat := bitsAt w.toNat 118 3
def wWaitV (w : IWord) : Nat := bitsAt w.toNat 115 3
def wWaitD (w : IWord) : Nat := bitsAt w.toNat 112 3

/-- Reserved ranges of a word's body, as low bit and width; none where CLASS or OP is reserved (R124, R130, R134, R139, R144, R147,
R150). -/
def reservedBits (cls op : Nat) : Option (List (Nat × Nat)) :=
  match cls, op with
  | 0, 0 => some [(0, 112)]
  | 0, 1 => some [(0, 112)]
  | 0, 2 => some [(64, 48)]
  | 0, 3 => some [(0, 94)]
  | 0, 4 => some [(0, 112)]
  | 0, 5 => some [(0, 90)]
  | 0, 6 => some [(0, 96)]
  | 1, 0 => some [(0, 27)]
  | 2, 0 => some [(64, 6)]
  | 3, 0 => some [(0, 95)]
  | 3, 1 => some [(0, 32), (64, 31)]
  | 4, 0 => some [(0, 93)]
  | 4, 1 => some [(0, 85), (106, 6)]
  | 4, 2 => some [(0, 108)]
  | 5, 0 => some [(48, 48)]
  | 5, 1 => some [(64, 32)]
  | _, _ => none

/-- Whether a word is a valid instruction (R124). -/
def wordValid (w : IWord) : Bool :=
  match reservedBits (wCls w) (wOp w) with
  | none => false
  | some rs => rs.all (fun r => bitsAt w.toNat r.1 r.2 == 0)

/-- Words that may end a block: ENDSTEP, JUMP, RET (R129). -/
def endsBlock (w : IWord) : Bool := wCls w == 0 && (wOp w == 1 || wOp w == 2 || wOp w == 4)

/-- JUMP, CALLV, RET and ENDSTEP, which no loop body holds (R131). -/
def isFlow (w : IWord) : Bool := wCls w == 0 && 1 ≤ wOp w && wOp w ≤ 4

-- Outstanding instructions (R125, R126, R157)

def outP (k : Cluster) : Nat := (k.plk.passes.filter Pass.counted).length + k.plk.dropped.length
def outV (k : Cluster) : Nat := k.vec.jobs.length
def outD (k : Cluster) : Nat := k.dma.length

def idleUnits (k : Cluster) : Bool := outP k == 0 && outV k == 0 && outD k == 0

/-- Whether the WAIT fields of a word are met (R125). -/
def waitsMet (k : Cluster) (w : IWord) : Bool :=
  (wWaitP w == 7 || decide (outP k ≤ wWaitP w)) && (wWaitV w == 7 || decide (outV k ≤ wWaitV w)) &&
    (wWaitD w == 7 || decide (outD k ≤ wWaitD w))

/-- The word to issue next. -/
def Seq.word (q : Seq) : Option IWord := q.block.bind (fun b => b.words[q.idx]?)

/-- Whether the sequencer may issue at all (R109, R113, R151, R154). -/
def mayIssue (s : State) (c : Fin 64) : Bool :=
  let k := s.cl c
  clOn s c && (k.seq.mode == .run || k.seq.mode == .wait) && !k.seq.pauseReq && !k.seq.paused && k.seq.stopPend.isNone &&
    !k.seq.draining && !k.plk.faulted

-- Blocks (R127, R128)

def ptrValid (p : Nat) : Bool := bitAt p 63
def ptrLen (p : Nat) : Nat := bitsAt p 48 10 + 1
def ptrAddr (p : Nat) : Nat := bitsAt p 8 40 * 256

/-- Whether any granule of [a, a + n) of partition addresses is poisoned. -/
def pPoiUnits (s : State) (p : Fin 8) (a n : Nat) : Bool := (unitsOf 32 a n).any (fun u => devPoi s (partAddr s p (32 * u)))

/-- The words that a block pointer names, or the reason of the stop (R127, R128, R151). -/
def fetchBlock (s : State) (p : Fin 8) (ptr : Nat) : Block ⊕ Nat :=
  let n := ptrLen ptr
  let a := ptrAddr ptr
  if !ptrValid ptr || !decide (a + 16 * n ≤ dramEnd) || !partOwns s p a (16 * n) then .inr reasonBlock
  else if pPoiUnits s p a (16 * n) then .inr reasonPoison
  else .inl { addr := a, words := (List.range n).map (fun i => BitVec.ofNat 128 (leNat (pRead s p (a + 16 * i) 16))), tgts := [] }

/-- The block pointer that a CALLV selects, or the reason of the stop (R132). Where one of the two reads lies outside the partition and
the other is poisoned, BAD_BLOCK is the reason: the rule gives no order (DESIGN CHOICE, log entry 18). -/
def variantPtr (s : State) (c : Fin 64) (L d : Nat) : Nat ⊕ Nat :=
  let k := s.cl c
  let p := clPart k
  let rv := k.sreg.rvBase.toNat + L
  let vt := k.sreg.vtBase.toNat + (4 * L + d) * 32
  if !partOwns s p rv 1 || !partOwns s p vt 32 then .inr reasonBlock
  else if pPoiUnits s p rv 1 || pPoiUnits s p vt 32 then .inr reasonPoison
  else
    let r := bitsAt (pGet s p rv).toNat (2 * d) 2
    let ptr := pU64 s p (vt + 8 * r)
    if ptrValid ptr then .inl ptr else .inr reasonVariant

/-- The target of the JUMP or CALLV at index i of a block, as it reads now (R128, R132); none for other words, and for a CALLV with
LADDER 3, which names none. -/
def readTarget (s : State) (c : Fin 64) (i : Nat) (w : IWord) : Option Target :=
  let p := clPart (s.cl c)
  let of (r : Block ⊕ Nat) : Target := match r with
    | .inl b => { idx := i, fail := none, addr := b.addr, words := b.words }
    | .inr e => { idx := i, fail := some e, addr := 0, words := [] }
  if wCls w != 0 then none
  else if wOp w = 2 then some (of (fetchBlock s p (bitsAt w.toNat 0 64)))
  else if wOp w = 3 && bitsAt w.toNat 94 2 != 3 then
    some (of (match variantPtr s c (bitsAt w.toNat 96 16) (bitsAt w.toNat 94 2) with
      | .inr e => .inr e
      | .inl ptr => fetchBlock s p ptr))
  else none

/-- A block with the targets of its transfers, read when control comes to it (R128; DESIGN CHOICE, log entry 29: a target's own targets
are read when control comes to the target). -/
def withTargets (s : State) (c : Fin 64) (b : Block) : Block :=
  { b with tgts := b.words.zipIdx.filterMap (fun (x : IWord × Nat) => readTarget s c x.2 x.1) }

-- Stops and idling (R113, R151)

/-- What follows once the units of a stopped or draining sequencer have completed everything: STOPPED with its record, its event
and the failure of the RUN (R151), or IDLE after CLR_FAULTED (R113). -/
def settleSeq (s : State) (c : Fin 64) : State :=
  let k := s.cl c
  let q := k.seq
  if q.paused || q.pauseReq then s
  else if q.draining then
    (if k.vec.jobs.isEmpty && k.dma.isEmpty then s.setCl c { k with seq := q.halted } else s)
  else match q.stopPend with
  | none => s
  | some (reason, cls, idx, blk) =>
    if !idleUnits k || !q.sigOut.isEmpty then s else
    let info := reason * 2 ^ 56 + cls % 8 * 2 ^ 53 + idx % 1024 * 2 ^ 43 + blk / 256 % 2 ^ 40
    let k1 := { k with
      seq := { q with mode := .stopped, stopPend := none }
      sreg := { k.sreg with stop := true, info := BitVec.ofNat 64 info } }
    let s1 := clLog (s.setCl c k1) c 0x7040 (payload [(0, 1, reason), (1, 1, cls), (2, 2, idx), (8, 8, blk)])
    match claimOf s1 c with
    | some (p, _) => if (s1.slot p).run.isSome then failRun s1 p 1 reason else s1
    | none => s1

/-- An invalid instruction stops the program (R151). -/
def stopAt (s : State) (c : Fin 64) (reason cls idx blk : Nat) : State :=
  let k := s.cl c
  settleSeq (s.setCl c { k with seq := { k.seq with stopPend := some (reason, cls, idx, blk) } }) c

/-- Stops at the current word. -/
def stopHere (s : State) (c : Fin 64) (reason : Nat) (w : IWord) : State :=
  let q := (s.cl c).seq
  stopAt s c reason (wCls w) q.idx ((q.block.map Block.addr).getD 0)

/-- What follows when a unit has completed something: waiting records are written, then a stop or a drain may take effect. -/
def afterUnit (s : State) (c : Fin 64) : State := settleSeq (writeFlushes s c) c

-- Moving through a block (R130, R131)

/-- The next word after word i, with the loops left (R130); `n` bounds the loops that end at once. -/
def loopNext : Nat → List LoopFrame → Nat → Nat × List LoopFrame
  | 0, ls, i => (i, ls)
  | n + 1, ls, i =>
    match ls with
    | [] => (i, [])
    | l :: r => if i != l.last + 1 then (i, l :: r) else
      if 0 < l.left then (l.first, { l with left := l.left - 1 } :: r) else loopNext n r i

/-- The sequencer one word further; the word counts as issued. -/
def stepWord (k : Cluster) : Cluster :=
  let q := k.seq
  let x := loopNext 3 q.loops (q.idx + 1)
  { k with seq := { q with mode := .run, idx := x.1, loops := x.2 }, sreg := { k.sreg with issued := k.sreg.issued + 1 } }

def advanceWord (s : State) (c : Fin 64) : State := s.setCl c (stepWord (s.cl c))

/-- Where the JUMP, CALLV or RET at the position goes, or the reason for which it is invalid (R130 to R132, R151): the block, the index of
its word, and the call stack there. -/
def transferTo (s : State) (c : Fin 64) (w : IWord) : (Block × Nat × List RetPoint) ⊕ Nat :=
  let q := (s.cl c).seq
  let v := w.toNat
  let tgt : Block ⊕ Nat := match (q.block.map Block.tgts).bind (fun l => l.find? (fun t => t.idx == q.idx)) with
    | none => .inr reasonFlow
    | some t => match t.fail with
      | some e => .inr e
      | none => .inl (withTargets s c { addr := t.addr, words := t.words, tgts := [] })
  if wOp w = 4 then
    (match q.calls with
    | [] => .inr reasonFlow
    | r :: rs => .inl (r.block, r.idx, rs))
  else if wOp w = 2 then
    (match tgt with
    | .inl b => .inl (b, 0, q.calls)
    | .inr e => .inr e)
  else if bitsAt v 94 2 = 3 || 4 ≤ q.calls.length then .inr reasonFlow
  else match tgt, q.block with
    | .inl b, some cur => .inl (b, 0, { block := cur, idx := q.idx + 1, layer := bitsAt v 96 16, ladder := bitsAt v 94 2 } :: q.calls)
    | .inr e, _ => .inr e
    | _, none => .inr reasonFlow

/-- A valid transfer made (R130). -/
def enterBlock (s : State) (c : Fin 64) (b : Block) (i : Nat) (calls : List RetPoint) : State :=
  let k := s.cl c
  s.setCl c { k with
    seq := { k.seq with mode := .run, block := some b, idx := i, calls := calls, loops := [], released := false }
    sreg := { k.sreg with issued := k.sreg.issued + 1 } }

def doTransfer (s : State) (c : Fin 64) (w : IWord) : State :=
  match transferTo s c w with
  | .inl x => enterBlock s c x.1 x.2.1 x.2.2
  | .inr r => stopHere s c r w

/-- A JUMP, CALLV or RET issues (R154, R155): an invalid one stops the program; a valid one is HELD while the control core restarts, else it
is made. -/
def transfer (s : State) (c : Fin 64) (w : IWord) : State :=
  let k := s.cl c
  match transferTo s c w with
  | .inr r => stopHere s c r w
  | .inl x =>
    if k.seq.coreRst then s.setCl c { k with seq := { k.seq with mode := .held, released := false } }
    else enterBlock s c x.1 x.2.1 x.2.2

/-- The held transfer made (R154). -/
def releaseHeld (s : State) (c : Fin 64) : State :=
  match (s.cl c).seq.word with
  | none => s
  | some w => doTransfer s c w

/-- A sequencer command: the word at the position issues if it is the word that the command names. An invalid word stops the
program whichever command comes (R124, R129); a word whose WAIT fields are not met does not issue (R125). A block that ends in another
word than JUMP, RET or ENDSTEP stops the program when that last word is reached (R129 does not say whether there or when the block is
read: DESIGN CHOICE, log entry 18). -/
def issueWord (t : Nat) (c : Fin 64) (cls op : Nat) (body : State → IWord → State) (s0 : State) : Answer :=
  let s := tick t s0
  if !mayIssue s c then .next s else
  match (s.cl c).seq.word with
  | none => .next s
  | some w =>
    if !wordValid w then .next (stopHere s c reasonBadWord w)
    else if (s.cl c).seq.idx + 1 == (((s.cl c).seq.block.map (fun b => b.words.length)).getD 0) && !endsBlock w then .next (stopHere s c reasonFlow w)
    else if !(wCls w == cls && wOp w == op) || !waitsMet (s.cl c) w then .next s
    else .next (body s w)

-- Trace records (R510)

def traceRec (s : State) (c : Fin 64) (kind point value : Nat) : State :=
  let k := s.cl c
  let n := k.trc.recno.toNat
  let b := natLe 8 s.clk.time.toNat ++ natLe 4 k.sreg.step.toNat ++ natLe 2 point ++ natLe 1 kind ++ natLe 1 (clLcl k) ++ natLe 8 value ++ natLe 8 n
  s.setCl c { k with trace := k.trace.write 32 (n % 512 * 32) b false, trc := { k.trc with recno := k.trc.recno + 1 } }

-- Step start (R152)

/-- GO on a cluster (R152, R163, R200). -/
def goCluster (s : State) (c : Fin 64) : State :=
  let k := s.cl c
  let q := k.seq
  if !clOn s c || !(q.mode == .idle || q.mode == .done) || q.paused || q.pauseReq || q.draining then s else
  let k1 := { k with
    seq := { q with mode := .run, block := none, idx := 0, calls := [], loops := [], sems := Vector.replicate 32 0, sigNext := [], sigOut := [],
                    sigSeen := [], barGen := [], passIdx := [], trap := none, barWait := none, released := false, stopPend := none }
    card := { k.card with slots := [], ovfCond := false }
    vec := { k.vec with index := 0 } }
  let s1 := s.setCl c k1
  let e := k.sreg.entry.toNat
  match fetchBlock s1 (clPart k) e with
  | .inl b => s1.setCl c { k1 with seq := { k1.seq with block := some (withTargets s1 c b) } }
  | .inr r => stopAt s1 c r 0xFF 0xFFFF (ptrAddr e)

-- Logical clusters and barriers (R122, R149)

/-- Physical cluster of logical cluster l of slot p. -/
def physOf (s : State) (p : Fin 8) (l : Nat) : Option (Fin 64) := (s.slot p).asg.cmap[l]?

/-- Member bitmap of barrier b; 0 where it is not declared (R149, R346). -/
def barrierMask (s : State) (p : Fin 8) (b : Nat) : Nat :=
  match imgOf s p with
  | some i => fieldU i.barriers (8 * b) 8
  | none => 0

end Sys2Proof.Machine
end

