-- ==== Sys2Proof/Machine/DmaOps.lean ====
section
/-! DEFINITION. The DMA engine (R139 to R143, R153): descriptor fields, the checks at issue, the rows that a MOVE copies or fills. -/

namespace Sys2Proof.Machine

/-- The fields of a DMA descriptor (R140). -/
structure DmaF where
  src    : Nat
  dst    : Nat
  ssrc   : Nat
  sdst   : Nat
  fmt    : Nat
  raw    : Bool
  peeled : Bool
  seg    : Nat
  ext    : List Nat
  sst    : List Int
  dst3   : List Int
  ssst   : List Int
  sdst3  : List Int
deriving DecidableEq, Repr

/-- Bits 63:48 of SRC are 0, and not read (R140, R538); the other addresses are read whole. SCALE_STRIDE holds the three source strides, then the three destination strides (R140). -/
def dmaFields (d : Bytes) : DmaF :=
  { src := fieldU d 0 6, dst := fieldU d 8 8, ssrc := fieldU d 16 8, sdst := fieldU d 24 8, fmt := fieldU d 32 1,
    raw := bitAt (fieldU d 33 1) 0, peeled := bitAt (fieldU d 33 1) 1, seg := fieldU d 36 4,
    ext := (List.range 4).map (fun i => fieldU d (64 + 16 * i) 4)
    sst := (List.range 4).map (fun i => fieldS d (68 + 16 * i) 4)
    dst3 := (List.range 4).map (fun i => fieldS d (72 + 16 * i) 4)
    ssst := 0 :: (List.range 3).map (fun i => fieldS d (40 + 4 * i) 4)
    sdst3 := 0 :: (List.range 3).map (fun i => fieldS d (52 + 4 * i) 4) }

/-- One contiguous run that a MOVE transfers: source and destination partition addresses, and length. -/
structure DmaRow where
  src : Int
  dst : Int
  len : Nat
deriving DecidableEq, Repr

def DmaF.format (f : DmaF) : Fmt := (fmtOfCode f.fmt).getD .fp32

/-- Bytes of data and of scale entries in one row of dimension 0 (R140). -/
def DmaF.rowBytes (f : DmaF) : Nat × Nat :=
  let e := f.ext.getD 0 0
  if f.raw then (e, 0)
  else if fmtBlock f.format then (cdiv e 32 * battBytes f.format, cdiv e 32 * (if f.peeled then 4 else 1))
  else if f.format = .int8row then (e, 4 * cdiv e f.seg)
  else (e * (fmtBits f.format / 8), 0)

/-- Offset of the row (i1, i2, i3) by four strides. -/
def strideOff (st : List Int) (n : Nat) (ext : List Nat) : Int :=
  let i1 := n % ext.getD 1 1
  let i2 := n / ext.getD 1 1 % ext.getD 2 1
  let i3 := n / ext.getD 1 1 / ext.getD 2 1
  st.getD 1 0 * i1 + st.getD 2 0 * i2 + st.getD 3 0 * i3

/-- Every run of a MOVE in order, data then scale entries of each row (R141); none where an EXTENT is 0. -/
def DmaF.rows (f : DmaF) : List DmaRow :=
  if f.ext.any (· == 0) then [] else
  let rb := f.rowBytes
  ((List.range (f.ext.getD 1 0 * f.ext.getD 2 0 * f.ext.getD 3 0)).map (fun n =>
    { src := f.src + strideOff f.sst n f.ext, dst := f.dst + strideOff f.dst3 n f.ext, len := rb.1 } ::
    (if rb.2 = 0 then [] else
      [({ src := f.ssrc + strideOff f.ssst n f.ext, dst := f.sdst + strideOff f.sdst3 n f.ext, len := rb.2 } : DmaRow)]))).flatten

/-- Alignment of a MOVE's base addresses, and of every row address that its strides reach (R46); `fill` ignores the source. -/
def DmaF.aligned (f : DmaF) (fill : Bool) : Bool :=
  if f.raw then true else
  let blk := fmtBlock f.format || f.format == .int8row
  let al : Int := if blk then 32 else (fmtBits f.format / 8 : Nat)
  let es : Int := if f.peeled || f.format == .int8row then 4 else 1
  let offs : List Nat := if f.ext.any (· == 0) then [0] else List.range (f.ext.getD 1 0 * f.ext.getD 2 0 * f.ext.getD 3 0)
  offs.all (fun n =>
    (fill || (f.src + strideOff f.sst n f.ext) % al == 0) && (f.dst + strideOff f.dst3 n f.ext) % al == 0 &&
      (!blk || ((fill || (f.ssrc + strideOff f.ssst n f.ext) % es == 0) && (f.sdst + strideOff f.sdst3 n f.ext) % es == 0)))

/-- Lowest and highest address of some runs. -/
def runSpan (xs : List (Int × Nat)) : Option (Int × Int) :=
  xs.foldl (fun (a : Option (Int × Int)) x => match a with
    | none => some (x.1, x.1 + x.2)
    | some (l, h) => some (min l x.1, max h (x.1 + x.2))) none

/-- DOFF and PATTERN of a MOVE word (R139). -/
def moveDoff (w : IWord) : Nat := bitsAt w.toNat 95 17 * 128
def movePattern (w : IWord) : Nat := bitsAt w.toNat 32 32

/-- The checks of R143 on a MOVE at issue: none, or the reason of the stop (R33, R151). -/
def dmaCheck (s : State) (c : Fin 64) (w : IWord) : Option Nat :=
  let k := s.cl c
  let p := clPart k
  let off := moveDoff w
  if !decide (off + 128 ≤ opsSize) || k.ops.poisoned 32 off 128 then some reasonDma else
  let f := dmaFields (k.ops.read off 128)
  let fill := wOp w == 1
  if (fmtOfCode f.fmt).isNone then some reasonBadCode else
  let rows := f.rows
  let srcs := if fill then [] else rows.map (fun r => (r.src, r.len))
  let dsts := rows.map (fun r => (r.dst, r.len))
  let owned := (srcs ++ dsts).all (fun x => decide (0 ≤ x.1) && partOwns s p x.1.toNat x.2)
  let clash := match runSpan srcs, runSpan dsts with
    | some a, some b => decide (a.1 < b.2) && decide (b.1 < a.2)
    | _, _ => false
  if (!f.raw || f.fmt == 0) && (f.format != .int8row || (f.seg != 0 && f.seg % 32 == 0)) && (!f.peeled || fmtPeels f.format) &&
      (!fill || (f.raw && f.ext.getD 0 0 % 4 == 0)) && f.sst.getD 0 0 == 0 && f.dst3.getD 0 0 == 0 && f.aligned fill && owned && !clash then none
  else some reasonDma

/-- Whether a MOVE moves nothing (R140). -/
def moveEmpty (d : Bytes) : Bool := (dmaFields d).rows.isEmpty

/-- Bytes that a MOVE writes. -/
def moveBytes (d : Bytes) : Nat := ((dmaFields d).rows.map DmaRow.len).sum

/-- The writes of one run of a COPY: bytes with the poison of their units (R141). -/
def copyRun (s : State) (p : Fin 8) (r : DmaRow) : List WByte :=
  (List.range r.len).map (fun i =>
    let a := partAddr s p (r.src.toNat + i)
    { addr := r.dst.toNat + i, byte := devGet s a, poi := devPoi s a })

/-- The writes of one run of a FILL: PATTERN little-endian in every 4 bytes, without poison (R141). -/
def fillRun (pat : Nat) (r : DmaRow) : List WByte :=
  (List.range r.len).map (fun i => { addr := r.dst.toNat + i, byte := (natLe 4 pat).getD (i % 4) 0, poi := false })

/-- A MOVE's writes from byte lo to byte hi of those it makes, in their order (R141). -/
def runMove (s0 : State) (c : Fin 64) (w : IWord) (d : Bytes) (lo hi : Nat) : State :=
  let s := planksNow s0
  let p := clPart (s.cl c)
  let rows := (dmaFields d).rows
  let all := (rows.map (fun r => if wOp w = 1 then fillRun (movePattern w) r else copyRun s p r)).flatten
  pCommit s p ((all.drop lo).take (hi - lo))

/-- The MOVE that the engine works on: the first of its queue. -/
def frontMove : List DmaJob → Option (IWord × Bytes × Nat × Option Nat)
  | [] => none
  | .move w d b n :: _ => some (w, d, b, n)
  | .flush _ :: r => frontMove r

/-- The queue with n bytes of its first MOVE written. -/
def markMove (n : Nat) : List DmaJob → List DmaJob
  | [] => []
  | .move w d b _ :: r => .move w d b (some n) :: r
  | .flush g :: r => .flush g :: markMove n r

/-- The queue without its first MOVE. -/
def dropMove : List DmaJob → List DmaJob
  | [] => []
  | .move _ _ _ _ :: r => r
  | .flush g :: r => .flush g :: dropMove r

/-- Starts the first MOVE where none runs and no pause holds the engine (R153). What it writes is written when it completes, or up to
the boundary at which a PAUSE stops it (log entry 14). -/
def startMove (s : State) (c : Fin 64) : State :=
  let k := s.cl c
  if k.seq.pauseReq || k.seq.paused then s else
  match frontMove k.dma with
  | some (_, _, _, none) => s.setCl c { k with dma := markMove 0 k.dma }
  | _ => s

/-- Bytes written when a PAUSE stops a MOVE of b bytes that has written n (R153): the next multiple of 4,096 at or after the bytes written
when the PAUSE arrives, a free value of the model, or the MOVE's end. -/
def pauseAt (n b free : Nat) : Nat :=
  Nat.min b (4096 * (n / 4096 + 1 + free % ((b - n + 4095) / 4096)))

/-- A PAUSE stops the MOVE under way at a 4 KiB boundary of its writes (R153). -/
def stopMove (s : State) (c : Fin 64) : State :=
  match frontMove (s.cl c).dma with
  | some (w, d, b, some n) =>
    let f := s.fresh
    let m := pauseAt n b (Config.freeWord f.1).toNat
    let s1 := runMove f.2 c w d n m
    s1.setCl c { s1.cl c with dma := markMove m (s1.cl c).dma }
  | _ => s

end Sys2Proof.Machine
end

