-- ==== Sys2Proof/Machine/VecExec.lean ====
section
/-! DEFINITION. What a vector operation computes (R192, R195 to R209, R145, R146): element-wise operations, compares, conversions,
reductions, dropout, streaming softmax and TURN, with the counts of the completion record (R200, R201). -/

namespace Sys2Proof.Machine

/-- What an operation leaves: writes into the operand store and into the register file, counts, whether an output is poisoned or
a reduction output or the whole instruction empty, active elements, evaluations. -/
structure VecOut where
  opsW   : List WByte
  regW   : List WByte
  counts : Counts
  poi    : Bool
  empty  : Bool
  active : Nat
  evals  : Nat
deriving DecidableEq, Repr

def VecOut.nothing : VecOut :=
  { opsW := [], regW := [], counts := {}, poi := false, empty := true, active := 0, evals := 0 }

/-- Raw bits of an element of operand o at linear index n, with its poison: B may be the immediate (R190). -/
def vAddr (_v : VDesc) (d : Bytes) (o : Nat) (b : VBase) (ix : List Nat) : Nat :=
  ((b.off : Int) + (vStride d 0 o * (ix.getD 0 0 : Nat) + vStride d 1 o * (ix.getD 1 0 : Nat) + vStride d 2 o * (ix.getD 2 0 : Nat)
    + vStride d 3 o * (ix.getD 3 0 : Nat))).toNat

/-- Start of the packed row that holds the index (R191). -/
def vRowAddr (v : VDesc) (d : Bytes) (o : Nat) (b : VBase) (ix : List Nat) : Nat := vAddr v d o b (ix.set 0 0)

/-- Row number of an index (R191). -/
def vRowNo (v : VDesc) (ix : List Nat) : Nat := ix.getD 1 0 + v.e 1 * (ix.getD 2 0 + v.e 2 * ix.getD 3 0)

def baseOr (o : Option VBase) : VBase := o.getD { reg := false, off := 0 }

/-- Element of operand o as a value (R191, R196, R199). -/
def vElem (cl : Cluster) (cat : VCat) (v : VDesc) (d : Bytes) (imm o n : Nat) : Elem :=
  let f := v.fmt o
  if o = 2 && v.bImm then
    let x := decodeElem f (imm % 2 ^ fmtBits f)
    { val := x.1, poi := false, inf := b2n x.2 }
  else
    let ix := v.idx n
    let b := baseOr (vBase (v.baseF o))
    let st := spaceOf cl b.reg
    if fmtBlock f then
      let s := baseOr (vBase (v.scaleF o))
      -- data and scale entries may stand in different spaces, so each is read where it stands
      let side := v.aPeel
      let i := ix.getD 0 0
      let row := vRowAddr v d o b ix
      let sa := s.off + vRowNo v ix * cdiv (v.e 0) 32 * vEntry v o + i / 32 * vEntry v o
      let sst := spaceOf cl s.reg
      let sc := leNat (sst.read sa (vEntry v o))
      let bb := battBytes f
      let p := st.poisoned 32 (row + i / 32 * bb) bb || sst.poisoned 32 sa (vEntry v o)
      if side && bitAt sc 8 && bitsAt sc 9 5 == i % 32 then
        let x := decodeFp .bf16 fpBF16 (bitsAt sc 16 16)
        { val := x.1, poi := p, inf := b2n x.2 }
      else
        let x := decodeScaled f sc (groupCode f (leNat (st.read (row + i / 32 * bb) bb)) (i % 32))
        { val := x.1, poi := p, inf := b2n x.2 }
    else if rowScaled cat v o then
      let s := baseOr (vBase (v.scaleF o))
      let a := vAddr v d o b ix
      let sa := s.off + (vRowNo v ix * cdiv (v.e 0) v.seg + ix.getD 0 0 / v.seg) * 4
      let sst := spaceOf cl s.reg
      let sc := decodeFp .fp32 fpFP32 (leNat (sst.read sa 4))
      { val := mulNum (numOfInt (signed 8 (st.get a).toNat) 0) sc.1
        poi := st.poisoned 32 a 1 || sst.poisoned 32 sa 4
        inf := b2n sc.2 }
    else if f = .fp32p && v.fmt 0 = .fp32 then
      -- conversion from FP32P to FP32 returns hi (R58)
      let a := vAddr v d o b ix
      let x := decodeFp .fp32 fpFP32 (leNat (st.read a 4))
      { val := x.1, poi := st.poisoned 32 a 8, inf := b2n x.2 }
    else readScalar st f (vAddr v d o b ix)

/-- Raw bits of an element, for logic operations and shifts (R197). -/
def vRaw (cl : Cluster) (v : VDesc) (d : Bytes) (imm o n : Nat) : Nat × Bool :=
  let f := v.fmt o
  if o = 2 && v.bImm then (imm % 2 ^ fmtBits f, false) else
  let b := baseOr (vBase (v.baseF o))
  let st := spaceOf cl b.reg
  let a := vAddr v d o b (v.idx n)
  (leNat (st.read a (fmtBits f / 8)), st.poisoned 32 a (fmtBits f / 8))

/-- Whether the mask makes element n active, and whether its mask granule is poisoned (R192). -/
def vMask (cl : Cluster) (v : VDesc) (n : Nat) : Bool × Bool :=
  if !v.maskEn then (true, false) else
  let b := baseOr (vBase v.mask)
  let st := spaceOf cl b.reg
  (bitAt (st.get (b.off + n / 8)).toNat (n % 8), st.poisoned 32 (b.off + n / 8) 1)

/-- The exact result of a floating-point element-wise operation (R195, R196). -/
def fpResult (vop : Nat) (xs : List Num) : Num :=
  let a := xs.getD 0 .nan
  let b := xs.getD 1 .nan
  let c := xs.getD 2 .nan
  match vop with
  | 0x01 => sumNum [a, b]
  | 0x02 => sumNum [a, negNum b]
  | 0x03 => mulNum a b
  | 0x04 => sumNum [mulNum a b, c]
  | 0x05 => negNum a
  | 0x06 => absNum a
  | 0x07 => minNum a b
  | _ => maxNum a b

/-- A compare (R198): false when either operand is NaN; -0 equals +0. -/
def cmpResult (vop : Nat) (a b : Num) : Bool :=
  if a.isNan || b.isNan then false else
  match vop, Dy.cmp a.toDy b.toDy with
  | 0x09, .eq => true
  | 0x0A, .lt => true
  | 0x0B, .lt => true
  | 0x0B, .eq => true
  | _, _ => false

def numInt (x : Num) : Int := x.toDy.floor

/-- Largest magnitude of an integer format (R38). -/
def limOf : Fmt → Int
  | .int32 => 2147483647
  | .int16 => 32767
  | _ => 127

/-- Clamp to the limit, with the saturation it counts (R197). -/
def clampInt (f : Fmt) (x : Int) : Int × Nat :=
  let l := limOf f
  if x > l then (l, 1) else if x < -l then (-l, 1) else (x, 0)

/-- Integer operations (R197, R204): MULBS forms the result of IMUL. -/
def intResult (vop : Nat) (a b : Int) : Int :=
  match vop with
  | 0x10 => a + b
  | 0x11 => a - b
  | _ => a * b

/-- Logic operations and shifts on raw bits of width w (R197). -/
def bitResult (vop w a b : Nat) : Nat :=
  let m := 2 ^ w
  let s := b % 256
  match vop with
  | 0x14 => Nat.land a b
  | 0x15 => Nat.lor a b
  | 0x16 => Nat.xor a b
  | 0x17 => if s ≥ w then 0 else a * 2 ^ s % m
  | 0x18 => if s ≥ w then 0 else a / 2 ^ s
  | _ => unsigned w (if s ≥ w then (if signed w a < 0 then -1 else 0) else signed w a / 2 ^ s)

/-- One scalar result: code, saturations, NaNs. -/
def fpOut (f : Fmt) (x : Num) (mode : RMode) : Nat × SN :=
  let r := convertScalar f x mode
  (r.1, { sat := r.2.sat, nan := r.2.nan })

/-- Splits the writes of a space. -/
def VecOut.put (o : VecOut) (reg : Bool) (ws : List WByte) : VecOut :=
  if reg then { o with regW := o.regW ++ ws } else { o with opsW := o.opsW ++ ws }

/-- Granules of 32 bytes that poisoned bytes touch. -/
def poiGranules (ws : List WByte) : List Nat := ws.foldl (fun l w => if w.poi then nsSet l (w.addr / 32) true else l) []

/-- Marks POISONB and STATUS.POISON from the writes of a scalar destination (R200, R201, R61). -/
def VecOut.seal (o : VecOut) : VecOut :=
  let p := (poiGranules o.opsW).length + (poiGranules o.regW).length
  { o with counts := { o.counts with poison := p }, poi := p > 0 }

/-- The transcendental operation of a VOP (R195). -/
def trOf (vop : Nat) : TrOp :=
  match vop with
  | 0x28 => .exp2
  | 0x29 => .log2
  | 0x2A => .rcp
  | _ => .rsqrt

/-- One element of an element-wise operation with a scalar destination: code and counts (R195 to R199, R205, R223). -/
def elemResult (cl : Cluster) (vop : Nat) (cat : VCat) (v : VDesc) (d : Bytes) (imm n : Nat) (r16 : Nat → Nat) :
    Nat × SN × Bool :=
  let f := v.fmt 0
  let es := (vopSrcs vop).map (fun o => vElem cl cat v d imm o n)
  let poi := es.any Elem.poi
  let infs := (es.map Elem.inf).sum
  let xs := es.map Elem.val
  let a := xs.getD 0 .nan
  let addInf (r : Nat × SN) : Nat × SN × Bool := (r.1, { sat := r.2.sat + infs, nan := r.2.nan }, poi)
  match cat with
  | .fp => addInf (fpOut f (fpResult vop xs) .rne)
  | .tr => match fpOf f with
    | some K => addInf (trans (trOf vop) f K a)
    | none => (0, SN.zero, poi)
  | .int =>
    let r := clampInt f (intResult vop (numInt a) (numInt (xs.getD 1 .nan)))
    (unsigned (fmtBits f) r.1, { sat := r.2, nan := 0 }, poi)
  | .bit =>
    let x := vRaw cl v d imm 1 n
    let y := vRaw cl v d imm 2 n
    let shift := vop ≥ 0x17
    let b := if shift && v.bImm then imm % 64 else y.1
    (bitResult vop (fmtBits f) x.1 b, SN.zero, x.2 || (y.2 && !v.bImm))
  | .drop =>
    if r16 n < imm % 2 ^ 16 then addInf (fpOut f a .rne) else (0, { sat := infs, nan := 0 }, poi)
  | _ => addInf (fpOut f a (if vop = 0x21 then .sr (r16 n) else .rne))

/-- Distinct counter indices that a list of element indices draws (R539). -/
def distinctDraws (es : List Nat) : Nat := (es.foldl (fun l e => nsSet l (e % 2 ^ 64 / 8) true) []).length

/-- The first element index of a drawing operation (R199). -/
def drawFirst (vop imm : Nat) : Nat := if vop = 0x38 then imm / 2 ^ 32 else imm

/-- Active elements in linear order. -/
def activeList (cl : Cluster) (v : VDesc) : List Nat := (List.range v.total).filter (fun n => (vMask cl v n).1)

/-- Element-wise operations with a scalar destination, SPLIT3 among them (R191, R192, R199). Saturations and NaNs count whatever the
poison (R201). -/
def runElems (cl : Cluster) (vop : Nat) (cat : VCat) (v : VDesc) (d : Bytes) (imm : Nat) (r16 : Nat → Nat) : VecOut :=
  let b := baseOr (vBase v.dst)
  let f := v.fmt 0
  let act := activeList cl v
  let outs := act.map (fun n =>
    let a := vAddr v d 0 b (v.idx n)
    let mp := (vMask cl v n).2
    if cat == .split then
      let e := vElem cl cat v d imm 1 n
      let x := (toFp32 e.val).1
      let p := split3 x
      let poi := e.poi || mp
      let st := imm % 2 ^ 32
      (wbytes a (natLe 2 p.1) poi ++ wbytes (a + st) (natLe 2 p.2.1) poi ++ wbytes (a + 2 * st) (natLe 2 p.2.2) poi,
        ({ sat := e.inf, nan := b2n e.val.isNan } : SN))
    else
      let r := elemResult cl vop cat v d imm n r16
      let poi := r.2.2 || mp
      (wbytes a (natLe (fmtBits f / 8) r.1) poi, r.2.1))
  let sn := outs.foldl (fun s o => s.add o.2) SN.zero
  let o : VecOut := { VecOut.nothing with
    counts := { sat := sn.sat, nan := sn.nan }
    empty := act.isEmpty
    active := act.length
    evals := if vop = 0x21 || vop = 0x38 then distinctDraws (act.map (drawFirst vop imm + ·)) else 0 }
  (o.put b.reg (outs.map (·.1)).flatten).seal

/-- Compares: one bit per element in linear order, 0 at an inactive element (R192, R198). -/
def runCompare (cl : Cluster) (vop : Nat) (v : VDesc) (d : Bytes) (imm : Nat) : VecOut :=
  let b := baseOr (vBase v.dst)
  let bits := (List.range v.total).map (fun n =>
    let m := vMask cl v n
    if m.1 then
      let x := vElem cl .cmp v d imm 1 n
      let y := vElem cl .cmp v d imm 2 n
      (cmpResult vop x.val y.val, x.poi || y.poi || m.2, true)
    else (false, false, false))
  let ws := (runsOf 8 bits.length bits).zipIdx.map (fun (g : List (Bool × Bool × Bool) × Nat) =>
    let byte := g.1.zipIdx.foldl (fun acc (x : (Bool × Bool × Bool) × Nat) => acc + if x.1.1 then 2 ^ x.2 else 0) 0
    ({ addr := b.off + g.2, byte := BitVec.ofNat 8 byte, poi := g.1.any (fun x => x.2.1) } : WByte))
  let act := (bits.filter (fun x => x.2.2)).length
  ((({ VecOut.nothing with empty := act == 0, active := act } : VecOut).put b.reg ws)).seal

/-- Marks POISONB and STATUS.POISON of an operation that writes rows: the poisoned batts that the rows counted, or in a format without
batts the distinct poisoned granules (R200, R201). -/
def VecOut.sealRows (o : VecOut) (f : Fmt) : VecOut := if fmtBlock f then { o with poi := o.counts.poison > 0 } else o.seal

/-- CVT and CVTSR into a block-scaled or row-scaled destination, row by row (R199, R47, R55). The elements of INT8 with row scale lie where
the strides of the destination put them, dimension 0 included (R191). -/
def runRows (cl : Cluster) (vop : Nat) (v : VDesc) (d : Bytes) (imm : Nat) (r16 : Nat → Nat) : VecOut :=
  let b := baseOr (vBase v.dst)
  let s := baseOr (vBase v.sd)
  let f := v.fmt 0
  let e0 := v.e 0
  let es := vEntry v 0
  let rows := (List.range v.rows).map (fun r =>
    let n0 := r * e0
    let ix := v.idx n0
    let els := (List.range e0).map (fun i => vElem cl .cvt v d imm 1 (n0 + i))
    let per := if f = .int8row then cdiv e0 v.seg else cdiv e0 32
    -- scale entries are addressed apart from the data, so the row is formed with scale base 0 and its entries are moved
    let sbase := s.off + r * per * es
    let out := rowOut f (vRowAddr v d 0 b ix) (2 ^ 40 + sbase) v.dPeel v.peel v.seg
      (fun i => if vop = 0x21 then .sr (r16 (n0 + i)) else .rne) (els.map (fun e => (e.val, e.poi)))
    let infs := ((els.zip out.bad).map (fun x => if x.2 && fmtBlock f then 0 else x.1.inf)).sum
    let row := vRowAddr v d 0 b ix
    let place (w : WByte) : WByte :=
      if f = .int8row && w.addr < 2 ^ 40 then { w with addr := vAddr v d 0 b (ix.set 0 (w.addr - row)) } else w
    ({ out with ws := out.ws.map place }, infs))
  let ws := (rows.map (fun r => r.1.ws)).flatten
  let data := ws.filter (fun w => w.addr < 2 ^ 40)
  let scal := (ws.filter (fun w => w.addr ≥ 2 ^ 40)).map (fun w => { w with addr := w.addr - 2 ^ 40 })
  let c : Counts := rows.foldl (fun (c : Counts) r => c.add r.1.counts) {}
  let infs := (rows.map (·.2)).sum
  let n := v.rows * e0
  ((({ VecOut.nothing with
    counts := { c with sat := c.sat + infs }
    empty := n == 0
    active := n
    evals := if vop = 0x21 then distinctDraws ((List.range n).map (imm + ·)) else 0 } : VecOut).put b.reg data).put s.reg scal).sealRows f

/-- A value in a reduction: a decoded value, an integer, a decoded value with its index, or an absent position. -/
inductive RVal where
  | num (x : Num)
  | int (i : Int)
  | idx (v : Num) (i : Nat)
  | absent
deriving DecidableEq, Repr

/-- An exact result of a combination rounded once into FP32, with its saturation (R202). -/
def roundComb (x : Num) : RVal × Nat :=
  let r := roundCount .fp32 fpFP32 x .rne
  (.num (dec32 r.1).1, r.2.sat)

/-- comb of R202, with the saturations it counts. -/
def comb (vop : Nat) (f : Fmt) (a b : RVal) : RVal × Nat :=
  match a, b with
  | .num x, .num y =>
    match vop with
    | 0x30 => roundComb (sumNum [x, y])
    | 0x31 => roundComb (mulNum x y)
    | 0x32 => (.num (maxNum x y), 0)
    | _ => (.num (minNum x y), 0)
  | .int x, .int y =>
    match vop with
    | 0x30 => (.int (x + y), 0)
    | 0x31 => let r := clampInt f (x * y); (.int r.1, r.2)
    | 0x32 => (.int (max x y), 0)
    | _ => (.int (min x y), 0)
  | .idx x i, .idx y j =>
    if x.isNan && y.isNan then (if i ≤ j then a else b, 0)
    else if x.isNan then (a, 0)
    else if y.isNan then (b, 0)
    else
      let c := Dy.cmp x.toDy y.toDy
      let better := if vop = 0x34 then c == .lt else c == .gt
      if better then (b, 0) else if c == .eq then (if i ≤ j then a else b, 0) else (a, 0)
  | .absent, y => (y, 0)
  | x, .absent => (x, 0)
  | x, _ => (x, 0)

/-- Identity of an operation (R203). -/
def identityOf (vop : Nat) (isInt : Bool) (f : Fmt) : RVal :=
  if vop = 0x34 || vop = 0x35 then .absent else
  if isInt then
    match vop with
    | 0x30 => .int 0
    | 0x31 => .int 1
    | 0x32 => .int (-limOf f)
    | _ => .int (limOf f)
  else
    let mx := if f = .bf16 then 0x7F7F0000 else 0x7F7FFFFF
    match vop with
    | 0x30 => .num Num.zero
    | 0x31 => .num (dec32 0x3F800000).1
    | 0x32 => .num (dec32 (2 ^ 31 + mx)).1
    | _ => .num (dec32 mx).1

/-- One level of the fixed pairwise tree (R202). -/
def treeLevel (vop : Nat) (f : Fmt) : List RVal → List RVal × Nat
  | a :: b :: t =>
    let r := comb vop f a b
    let q := treeLevel vop f t
    (r.1 :: q.1, r.2 + q.2)
  | l => (l, 0)

/-- Seven levels: 128 values to one. -/
def treeReduce (vop : Nat) (f : Fmt) : Nat → List RVal → List RVal × Nat
  | 0, l => (l, 0)
  | k + 1, l =>
    let r := treeLevel vop f l
    let q := treeReduce vop f k r.1
    (q.1, r.2 + q.2)

/-- reduce of R202 over the positions, an inactive one being the identity; the saturations counted. -/
def reduceVals (vop : Nat) (f : Fmt) (ident : RVal) (vals : List RVal) : RVal × Nat :=
  let chunks := runsOf 128 vals.length vals
  let r := chunks.foldl (fun (st : Option RVal × Nat) c =>
    let full := c ++ List.replicate (128 - c.length) ident
    let t := treeReduce vop f 7 full
    let v := t.1.headD ident
    match st.1 with
    | none => (some v, st.2 + t.2)
    | some a => let q := comb vop f a v; (some q.1, st.2 + t.2 + q.2)) (none, 0)
  (r.1.getD ident, r.2)

/-- The final value of a reduction as a code of DFMT, with its counts (R201, R202). -/
def reduceOut (f : Fmt) (v : RVal) : Nat × SN :=
  match v with
  | .num x => fpOut f x .rne
  | .int i =>
    let r := clampInt f i
    (unsigned (fmtBits f) r.1, { sat := r.2, nan := 0 })
  | .idx _ i => (i, SN.zero)
  | .absent => (0xFFFFFFFF, SN.zero)

/-- Indices of reduction output o: 0 in the reduced dimensions (R191). -/
def outIdx (v : VDesc) (o : Nat) : List Nat :=
  ((List.range 4).foldl (fun (s : Nat × List Nat) k =>
    if k < v.rdims then (s.1, s.2 ++ [0]) else (s.1 / v.e k, s.2 ++ [s.1 % v.e k])) (o, [])).2

/-- The reductions (R191, R202, R203). -/
def runReduce (cl : Cluster) (vop : Nat) (v : VDesc) (d : Bytes) (imm : Nat) : VecOut :=
  let b := baseOr (vBase v.dst)
  let f := v.fmt 0
  let isI := isInt (v.fmt 1)
  let nRed := (v.ext.take v.rdims).foldl (· * ·) 1
  let nOut := (v.ext.drop v.rdims).foldl (· * ·) 1
  let ident := identityOf vop isI f
  let arg := vop = 0x34 || vop = 0x35
  let outs := (List.range nOut).map (fun o =>
    let items := (List.range nRed).map (fun i =>
      let n := o * nRed + i
      let m := vMask cl v n
      if m.1 then
        let e := vElem cl .red v d imm 1 n
        (some (if arg then RVal.idx e.val i else if isI then RVal.int (numInt e.val) else RVal.num e.val),
          e.poi || m.2, e.inf)
      else (none, false, 0))
    let act := (items.filter (fun x => x.1.isSome)).length
    let r := if act = 0 then (ident, 0) else reduceVals vop f ident (items.map (fun x => x.1.getD ident))
    let poi := items.any (fun x => x.2.1)
    let infs := (items.map (fun x => x.2.2)).sum
    let q := reduceOut f r.1
    (wbytes (vAddr v d 0 b (outIdx v o)) (natLe (fmtBits f / 8) q.1) poi,
      ({ sat := r.2 + infs + q.2.sat, nan := q.2.nan } : SN), act))
  let sn := outs.foldl (fun s o => s.add o.2.1) SN.zero
  let act := (outs.map (fun o => o.2.2)).sum
  ((({ VecOut.nothing with
    counts := { sat := sn.sat, nan := sn.nan }
    empty := act == 0 || outs.any (fun o => o.2.2 == 0)
    active := act } : VecOut).put b.reg (outs.map (·.1)).flatten)).seal

/-- Word at 4 * j of an FP32 array. -/
def arrWord (cl : Cluster) (b : VBase) (j : Nat) : Nat × Bool :=
  let st := spaceOf cl b.reg
  (leNat (st.read (b.off + 4 * j) 4), st.poisoned 32 (b.off + 4 * j) 4)

/-- Whether a reference is one that R208 rejects. -/
def badRef (x : Num) : Bool :=
  match x with
  | .nan => true
  | x =>
    let v := x.toDy
    let i := v.floor
    Dy.cmp v (Dy.ofInt i) != .eq || i < -(2 ^ 24) || i > 2 ^ 24

/-- Element (j, c) of the e tensor (R208). -/
def softElem (cl : Cluster) (s : SoftF) (j c : Nat) : Elem :=
  let f := (fmtOfCode s.efmt).getD .fp32
  let e := baseOr (vBase s.e)
  let es := baseOr (vBase s.es)
  let st := spaceOf cl e.reg
  if fmtBlock f then
    let sst := spaceOf cl es.reg
    let bb := battBytes f
    let a := e.off + j * s.epit + c / 32 * bb
    let sa := es.off + j * s.espit + c / 32
    let x := decodeScaled f (sst.get sa).toNat (groupCode f (leNat (st.read a bb)) (c % 32))
    { val := x.1, poi := st.poisoned 32 a bb || sst.poisoned 32 sa 1, inf := b2n x.2 }
  else readScalar st f (e.off + j * s.epit + c * (fmtBits f / 8))

/-- One row of STREAMSOFTMAX: new denominator, output and reference, the outputs with their poison (R61: each is poisoned where
something it depends on is), the counts, and the number of active columns (R208). -/
structure SoftRow where
  l    : Nat × Bool
  o    : List (Nat × Bool)
  rn   : Nat × Bool
  sn   : SN
  act  : Nat
deriving DecidableEq, Repr

/-- One addition of R208: old * 2^(-k) + add * 2^sh in one rounding, an exactly zero sum being +0 (R69); NaN propagates. -/
def softFold (old add : Num) (k sh : Int) : Nat × SN :=
  if old.isNan || add.isNan then (nan32, { sat := 0, nan := 1 }) else
  let r := round32 ((old.scale (-k)).toDy.add (add.scale sh).toDy)
  (r.1, { sat := b2n r.2, nan := 0 })

def softRow (cl : Cluster) (s : SoftF) (kpos j : Nat) : SoftRow :=
  let q := arrWord cl (baseOr (vBase s.qpos)) j
  let cols := (List.range s.nb).map (fun c =>
    if !s.causal || kpos + c ≤ q.1 then some (softElem cl s j c) else none)
  let act := cols.filterMap id
  let items (ident : RVal) := cols.map (fun c => (c.map (fun e => RVal.num e.val)).getD ident)
  let sumI : RVal := .num Num.zero
  let maxI := identityOf 0x32 false .fp32
  let S := if act.isEmpty then (sumI, 0) else reduceVals 0x30 .fp32 sumI (items sumI)
  let M := if act.isEmpty then (maxI, 0) else reduceVals 0x32 .fp32 maxI (items maxI)
  let sOut := reduceOut .fp32 S.1
  let mOut := reduceOut .fp32 M.1
  let sNum := (dec32 sOut.1).1
  let mNum := (dec32 mOut.1).1
  let rbw := arrWord cl (baseOr (vBase s.rb)) j
  let old (w : Nat × Bool) : Nat × Bool := if s.first then (0, false) else w
  let rcw := old (arrWord cl (baseOr (vBase s.rc)) j)
  let lw := old (arrWord cl (baseOr (vBase s.l)) j)
  let rb := dec32 rbw.1
  let r := if s.first then rb else dec32 rcw.1
  let lOld := dec32 lw.1
  let shared := (s.causal && q.2) || act.any Elem.poi || rbw.2 || rcw.2
  let infs := (act.map Elem.inf).sum + rb.2.sat + (if s.first then 0 else r.2.sat) + lOld.2.sat
  let dvs := List.range s.dv
  let outs := dvs.map (fun i => (old (arrWord cl (baseOr (vBase s.o)) (j * s.dv + i)), arrWord cl (baseOr (vBase s.ob)) (j * s.dv + i)))
  let poiO (x : (Nat × Bool) × (Nat × Bool)) : Bool := shared || x.1.2 || x.2.2
  let rbI := rb.1.toDy.floor
  let rI := r.1.toDy.floor
  let k : Int := match mNum with
    | .nan => 0
    | .fin n g e => if act.isEmpty || g = 0 || n then 0 else max 0 (fexp g e + rbI - rI)
  let rk := rI + k
  if badRef rb.1 || badRef r.1 || rk < -(2 ^ 24) || rk > 2 ^ 24 then
    { l := (nan32, shared || lw.2), o := outs.map (fun x => (nan32, poiO x)), rn := (nan32, shared)
      sn := { sat := infs + S.2 + sOut.2.sat + mOut.2.sat, nan := 2 + s.dv }, act := act.length }
  else
    let sh := rbI - rI - k
    let l := softFold lOld.1 sNum k sh
    let out := outs.map (fun x =>
      let a := dec32 x.1.1
      let b := dec32 x.2.1
      (softFold a.1 b.1 k sh, a.2.sat + b.2.sat, poiO x))
    { l := (l.1, shared || lw.2), o := out.map (fun x => (x.1.1, x.2.2)), rn := ((toFp32 (numOfInt rk 0)).1, shared)
      sn := out.foldl (fun a x => a.add { sat := x.1.2.sat + x.2.1, nan := x.1.2.nan })
        ({ sat := infs + S.2 + sOut.2.sat + mOut.2.sat + l.2.sat, nan := l.2.nan } : SN)
      act := act.length }

/-- STREAMSOFTMAX (R207, R208): rows in ascending order; a row reads no other row's results. -/
def runSoft (cl : Cluster) (w : IWord) (d : Bytes) : VecOut :=
  let s := softFields d
  let kpos := vecImm w
  let lB := baseOr (vBase s.l)
  let oB := baseOr (vBase s.o)
  let nB := baseOr (vBase s.rn)
  let rows := (List.range s.rows).map (fun j => (j, softRow cl s kpos j))
  let put (o : VecOut) (b : VBase) (f : Nat × SoftRow → List WByte) : VecOut := o.put b.reg (rows.map f).flatten
  let sn := rows.foldl (fun a r => a.add r.2.sn) SN.zero
  let act := (rows.map (fun r => r.2.act)).sum
  let o0 : VecOut := { VecOut.nothing with
    counts := { sat := sn.sat, nan := sn.nan }, empty := act == 0 || rows.any (fun r => r.2.act == 0), active := act }
  let o1 := put o0 lB (fun r => wbytes (lB.off + 4 * r.1) (natLe 4 r.2.l.1) r.2.l.2)
  let o2 := put o1 oB (fun r => (r.2.o.zipIdx.map (fun (x : (Nat × Bool) × Nat) =>
    wbytes (oB.off + 4 * (r.1 * s.dv + x.2)) (natLe 4 x.1.1) x.1.2)).flatten)
  (put o2 nB (fun r => wbytes (nB.off + 4 * r.1) (natLe 4 r.2.rn.1) r.2.rn.2)).seal

/-- TURN (R146): D[c][r] = S[r][c], one row of the destination at a time. -/
def runTurn (cl : Cluster) (d : Bytes) : VecOut :=
  let t := turnFields d
  let sf := (fmtOfCode t.sfmt).getD .fp32
  let df := (fmtOfCode t.dfmt).getD .fp32
  let el (r c : Nat) : Elem :=
    if sf = .fp32p && df = .fp32 then
      let a := t.src + r * t.spit + 8 * c
      let x := decodeFp .fp32 fpFP32 (leNat (cl.ops.read a 4))
      { val := x.1, poi := cl.ops.poisoned 32 a 8, inf := b2n x.2 }
    else readElemAt cl.ops sf (t.src + r * t.spit) (t.ss + r * t.sspit) t.sPeel 0 c
  let rows := (List.range t.cols).map (fun c =>
    let es := (List.range t.rows).map (fun r => el r c)
    let o := rowOut df (t.dst + c * t.dpit) (t.ds + c * t.dspit) t.peelEn t.peel 0 (fun _ => .rne)
      (es.map (fun e => (e.val, e.poi)))
    (o, ((es.zip o.bad).map (fun x => if x.2 && fmtBlock df then 0 else x.1.inf)).sum))
  let c : Counts := rows.foldl (fun (c : Counts) r => c.add r.1.counts) {}
  let n := t.rows * t.cols
  ({ VecOut.nothing with
    opsW := (rows.map (fun r => r.1.ws)).flatten
    counts := { c with sat := c.sat + (rows.map (·.2)).sum }
    empty := false
    active := n } : VecOut).sealRows df

/-- What an accepted vector instruction computes: `tag` and `step` are those it draws under (R199, R218, R227). -/
def runVec (cl : Cluster) (j : VecJob) : VecOut :=
  let vop := vecVop j.word
  let v := vecDesc j.desc
  let imm := vecImm j.word
  let r16 (n : Nat) : Nat := drawR16 cl.rng.seed j.tag j.step (drawFirst vop imm + n)
  match vopCat vop with
  | none => VecOut.nothing
  | some .soft => runSoft cl j.word j.desc
  | some .turn => runTurn cl j.desc
  | some .red => runReduce cl vop v j.desc imm
  | some .cmp => if v.total = 0 then VecOut.nothing else runCompare cl vop v j.desc imm
  | some .cvt =>
    if v.total = 0 then VecOut.nothing
    else if fmtBlock (v.fmt 0) || v.fmt 0 = .int8row then runRows cl vop v j.desc imm r16
    else runElems cl vop .cvt v j.desc imm r16
  | some c => if v.total = 0 then VecOut.nothing else runElems cl vop c v j.desc imm r16

/-- Where the completion record of an instruction goes (R190, R200, R207). -/
def compAddr (w : IWord) (d : Bytes) : Nat :=
  match vopCat (vecVop w) with
  | some .soft => (softFields d).comp
  | some .turn => vecImm w % 2 ^ 32
  | _ => (vecDesc d).comp

/-- The completion record of R200 and R201 for a given INDEX. -/
def compRecord (o : VecOut) (index : W64) : Bytes :=
  let c := o.counts
  let sat28 := min c.sat 0xFFFFFFF
  let nan28 := min c.nan 0xFFFFFFF
  natLe 8 (sat28 * 2 ^ 36 + nan28 * 2 ^ 8 + b2n o.poi * 8 + b2n o.empty * 4 + 1) ++ natLe 8 index.toNat ++
    natLe 4 (min c.crushed 0xFFFFFFFF) ++ natLe 4 (min c.empty 0xFFFFFFFF) ++ natLe 4 (min c.peeled 0xFFFFFFFF) ++
    natLe 4 (min c.poison 0xFFFFFFFF)

/-- Array cycles that an instruction occupies the engine (R210, R204, R146). -/
def vecCycles (cl : Cluster) (j : VecJob) : Nat :=
  let vop := vecVop j.word
  let v := vecDesc j.desc
  let chunkOf (f : Fmt) : Nat := if fmtBlock f || f = .fp32p then 128 else 4096 / fmtBits f
  let named := (vopSrcs vop).map v.fmt ++ (if vopCat vop == some .cmp then [] else [v.fmt 0])
  let lw := (named.map chunkOf).foldl min 512
  let chunks := v.rows * cdiv (v.e 0) lw
  let cop : Nat := match vopCat vop with
    | some .tr => 4
    | some .split => 3
    | some .cvt =>
      if vop = 0x21 then 2 else
      if fmtBlock (v.fmt 1) || fmtBlock (v.fmt 0) || v.fmt 1 == .int8row || v.fmt 0 == .int8row then 2 else 1
    | some .int => if vop = 0x12 then 4 else 1
    | _ => if vop = 0x04 && !v.bImm && [v.a, v.b, v.c].all (fun x => !bitAt x 31) then 2 else 1
  match vopCat vop with
  | some .red => 24 + (v.ext.drop v.rdims).foldl (· * ·) 1 * cdiv ((v.ext.take v.rdims).foldl (· * ·) 1) 128
  | some .soft =>
    let s := softFields j.desc
    16 + s.rows * (cdiv s.nb 128 + cdiv s.dv 128 + 2)
  | some .turn =>
    let t := turnFields j.desc
    let wd (c : Nat) : Nat := cdiv (1024 * fmtBits ((fmtOfCode c).getD .fp32)) 4096
    24 + cdiv t.rows 32 * cdiv t.cols 32 * max 2 (max (wd t.sfmt) (wd t.dfmt))
  | _ =>
    if vop = 0x13 then
      16 + ((List.range v.rows).map (fun r => ((List.range (cdiv (v.e 0) lw)).map (fun k =>
        let ns := (span (k * lw) lw).filter (fun i => i < v.e 0)
        let pops := ns.map (fun i =>
          let n := r * v.e 0 + i
          if (vMask cl v n).1 then
            let x := (numInt (vElem cl .int v j.desc (vecImm j.word) 2 n).val).natAbs
            ((List.range 32).filter (bitAt x)).length
          else 0)
        max 1 (cdiv (pops.foldl max 0) 2))).sum)).sum
    else 16 + cop * chunks

end Sys2Proof.Machine
end

