-- ==== Sys2Proof/Machine/PlankOps.lean ====
section
/-! DEFINITION. The plank and the vector engine as units (R85, R93, R109 to R116, R189, R200, R210): when passes run, what a fault
abandons, re-execution, freezing, and the start of a vector instruction. -/

namespace Sys2Proof.Machine

/-- Staging start and first-row cycle of a pass issued in cycle t (R93). -/
def passTimes (last : Option LastPass) (newChain : Bool) (shape m t : Nat) : Nat × Nat :=
  let sg := sigmaOf shape
  let edge (x : Nat) : Nat := if shape = 5 then max x (t + m) else x
  match last with
  | none => (t, edge (t + sg))
  | some l =>
    let st := max t l.firstC
    if newChain then (st, edge (max (st + sg) (l.commitC + 1))) else (st, max (l.firstC + l.m) (st + sg))

/-- The activation set of a VECMAT pass: what its edge buffer holds (R85, R88). Fields of the tile record that the format does not use
are no part of it (R135). -/
def actSet (p : PassF) (tile : Bytes) : Bytes :=
  let rs := p.a == .int8row
  sliceB tile 0 8 ++ (if fmtBlock p.a || rs then sliceB tile 8 8 else []) ++ (if rs then sliceB tile 88 4 else []) ++
    natLe 1 (if fmtBlock p.a then fieldU tile 104 1 % 2 else 0) ++ natLe 1 p.afmt ++ natLe 1 p.kg ++ natLe 2 p.m

/-- Whether a pass starts a new chain (R85, R137). -/
def startsChain (k : Plank) (p : PassF) (fusion : Nat) (aset : Bytes) (t : Nat) : Bool :=
  match k.last with
  | none => true
  | some l => k.brk || p.brk || l.fusion != fusion || l.shape != p.shape || (p.shape == 5 && l.aset != aset) || decide (l.commitC < t)

def Pass.fusion (q : Pass) : Nat := fusionOf q.p.a q.p.w
def Pass.commitC (q : Pass) : Nat := q.firstC + q.m + 69

/-- The record of the pass issued last that later passes are timed by. -/
def Pass.asLast (q : Pass) : LastPass :=
  { firstC := q.firstC, m := q.m, commitC := q.commitC, fusion := q.fusion, shape := (passFields q.word).shape, chain := q.chain,
    aset := actSet (passFields q.word) q.tile }

/-- Passes that may run: those before the first abandoned one, whose first row enters by a limit (R109, R112). -/
def Plank.running (k : Plank) (lim : Nat) : List Pass :=
  (k.passes.takeWhile (fun q => q.aband.isNone)).filter (fun q => decide (q.firstC ≤ lim))

/-- Passes in flight (R94). -/
def inFlight (s : State) (c : Fin 64) : List Pass := (s.cl c).plk.running (rowLimit s c)

/-- Passes timed afresh from cycle t as a new chain, those that follow keeping their chains (R93, R110, R112). -/
def retime (t : Nat) : Option LastPass → Option Nat → List Pass → List Pass
  | _, _, [] => []
  | last, prevChain, q :: r =>
    let x := passTimes last (prevChain != some q.chain) (passFields q.word).shape q.m t
    let q' := { q with issueC := t, stagedC := x.1 + sigmaOf (passFields q.word).shape, firstC := x.2 }
    q' :: retime t (some q'.asLast) (some q.chain) r

/-- The edge buffers of the VECMAT chains that some passes begin (R88). -/
def edgesOf : Option Nat → List Pass → List Edge
  | _, [] => []
  | prev, q :: r =>
    (if q.p.shape = 5 && prev != some q.chain then [{ chain := q.chain, start := q.issueC, word := q.word, tile := q.tile, rows := [] }] else []) ++
      edgesOf (some q.chain) r

/-- All passes of the plank timed afresh, none being in flight: their tiles are staged and their activations streamed anew (R110, R112). -/
def Plank.restart (k : Plank) (t : Nat) : Plank :=
  let ps := retime t none none (k.passes.map (fun q => { q with run := PassRun.idle }))
  { k with passes := ps, last := (ps.getLast?.map Pass.asLast) <|> k.last, edges := edgesOf none ps }

/-- Shift of the event codes and PLK_FAULT bits of the three faults (R111): 0 PLANK_RESIDUE, 1 ACC_ECC, 2 SHADOW_PARITY. -/
def faultEvent (kind : Nat) : Nat := 0x1001 + kind

def Plank.setFault (k : Plank) (kind seqNo : Nat) : Plank :=
  { k with fltRes := k.fltRes || kind == 0, fltEcc := k.fltEcc || kind == 1, fltShadow := k.fltShadow || kind == 2, fltSeq := BitVec.ofNat 32 seqNo }

/-- The cycle in which a kind of fault acts on a pass (R111). -/
def Pass.faultC (q : Pass) (kind : Nat) : Nat := if kind = 2 then q.firstC else q.commitC - 1

/-- A pass that a fault in cycle `act` abandons: what it has computed is discarded (R112). -/
def Pass.abandon (q : Pass) (act : Nat) : Pass := { q with aband := some act, kinds := [], run := PassRun.idle }

/-- A kind of fault noted on a pass that is abandoned (R111, R414). -/
def Pass.note (q : Pass) (kind : Nat) : Pass := { q with kinds := kind :: q.kinds, ecc := q.ecc || kind == 1 }

/-- The first fault of a pass in flight in one cycle (R111 to R113, R414): the pass and the later passes of its chain that have started
are abandoned; or, after its last attempt, and whenever the plank is in FAULTED and so executes nothing again, it is dropped with every
later pass and the plank is in FAULTED. -/
def faultPass (s : State) (c : Fin 64) (kind : Nat) (q : Pass) : State :=
  let k := s.cl c
  let act := q.faultC kind
  let lim := min act (rowLimit s c)
  let p1 : Plank := { k.plk with fusion := q.fusion, shape := q.p.shape }
  let hit (y : Pass) : Bool := decide (q.seqNo ≤ y.seqNo) && y.chain == q.chain && decide (y.firstC ≤ lim)
  let ps := p1.passes.map (fun y =>
    let z := if hit y then y.abandon act else y
    if y.seqNo = q.seqNo then z.note kind else z)
  let spent := decide (p1.retryMax.toNat ≤ q.attempt)
  if spent || p1.faulted then
    let p2 := { p1 with
      passes := ps.takeWhile (fun y => y.seqNo != q.seqNo), dropped := p1.dropped ++ ps.dropWhile (fun y => y.seqNo != q.seqNo)
      faulted := true, fltExh := p1.fltExh || spent }
    let s2 := s.setCl c { k with plk := p2 }
    if spent then spareCluster (clLog s2 c 0x1004 []) c else s2
  else
    let s2 := s.setCl c { k with plk := { p1 with passes := ps } }
    if kind = 1 && q.ecc then spareCluster s2 c else s2

/-- A fault of one kind found in a pass (R111): its bit, its number, its event, and what follows. A kind that acts in the cycle in which
the pass was abandoned or dropped is noted and logged, once each; nothing acts on a pass that was abandoned in another cycle, or while the
plank is frozen (R114). -/
def plankFault (s : State) (c : Fin 64) (kind seqNo tile : Nat) : State :=
  let k := s.cl c
  match (k.plk.passes ++ k.plk.dropped).find? (fun q => q.seqNo == seqNo) with
  | none => s
  | some q =>
    let act := q.faultC kind
    let live := (inFlight s c).any (fun y => y.seqNo == seqNo)
    if k.frozen || decide (arrCyc s c < act) || !(live || (q.aband == some act && !q.kinds.contains kind)) then s else
    let s1 := clLog (s.setCl c { k with plk := k.plk.setFault kind seqNo }) c (faultEvent kind)
      (payload [(0, 8, seqNo), (8, 1, tile), (9, 1, q.attempt)])
    if live then faultPass s1 c kind q
    else
      let k1 := s1.cl c
      let mark (ps : List Pass) : List Pass := ps.map (fun y => if y.seqNo = seqNo then y.note kind else y)
      s1.setCl c { k1 with plk := { k1.plk with passes := mark k1.plk.passes, dropped := mark k1.plk.dropped } }

/-- The abandoned passes executed again as a new chain, the array being empty (R112, R120). -/
def reexecute (s : State) (c : Fin 64) : State :=
  let k := s.cl c
  let n := (k.plk.passes.filter (fun q => q.aband.isSome)).length
  let ps := k.plk.passes.map (fun q =>
    if q.aband.isSome then { q with aband := none, kinds := [], attempt := if q.kinds.isEmpty then q.attempt else q.attempt + 1 } else q)
  s.setCl c { k with plk := { k.plk with passes := ps, retries := min 0xFFFF (k.plk.retries + n) }.restart (arrCyc s c) }

-- The vector engine (R189, R200)

/-- FX of a vector instruction's count of elements: its DFMT (0x00 in a compare), 15 where its descriptor has none (R195, R506). -/
def vecFx (w : IWord) (d : Bytes) : Nat :=
  let code : Nat := match vopCat (vecVop w) with
    | some .cmp => 0
    | some .soft => 15
    | some .turn => (turnFields d).dfmt
    | _ => (vecDesc d).dfmt
  if code ≤ 0x0D then code else 15

/-- Starts the first vector instruction where none executes and neither a pause nor a stall holds the engine; a freeze of the plank alone
does not (R212). Its results are written; its completion record follows at its completion (R126). -/
def startVec (s0 : State) (c : Fin 64) : State :=
  let k0 := s0.cl c
  if k0.seq.pauseReq || k0.seq.paused || k0.stalled then s0 else
  match k0.vec.jobs with
  | [] => s0
  | j :: r =>
    if j.start.isSome then s0 else
    let s := rowsNow s0 c
    let k := s.cl c
    let o := runVec k j
    let rec0 := compRecord o 0
    let sat := min o.counts.sat 0xFFFFFFF
    let nan := min o.counts.nan 0xFFFFFFF
    s.setCl c { k with
      ops := k.ops.commit 32 o.opsW, vreg := k.vreg.commit 32 o.regW
      rng := { k.rng with evals := k.rng.evals + BitVec.ofNat 64 o.evals }
      vec := { k.vec with jobs := { j with start := some (rec0, o.active, sat, nan) } :: r } }

/-- The executing vector instruction completes: its record is written, the next one starts (R200, R201, R215). -/
def completeVec (s0 : State) (c : Fin 64) : State :=
  match (s0.cl c).vec.jobs with
  | [] => s0
  | j :: r =>
    match j.start with
    | none => s0
    | some (rec0, active, sat, nan) =>
      let s := rowsNow s0 c
      let k := s.cl c
      let b := patchB rec0 8 (natLe 8 k.vec.index.toNat)
      let k1 := { k with
        ops := k.ops.write 32 (compAddr j.word j.desc) b false
        vec := { k.vec with vop := BitVec.ofNat 8 (vecVop j.word), jobs := r, index := k.vec.index + 1, done := k.vec.done + 1, sat := k.vec.sat + BitVec.ofNat 64 sat,
                            nan := k.vec.nan + BitVec.ofNat 64 nan } }
      let s1 := countOp (s.setCl c k1) (clPart k) (32 + vecFx j.word j.desc) active
      let s2 := if k.trc.vec then traceRec s1 c 3 (vecVop j.word) k.vec.index.toNat else s1
      afterUnit (startVec s2 c) c

-- Freezing (R114, R211, R456)

/-- A freeze cause takes effect on a cluster: the plank's freeze, or the engine's stall, begins with the first cause that holds it. -/
def freezeCl (s : State) (c : Fin 64) (why : FreezeCause) : State :=
  let k := s.cl c
  if !clOn s c || k.frz.contains why then s
  else
    let k1 := { k with frz := why :: k.frz }
    let k2 := { k1 with
      frzAt := if k1.frozen && !k.frozen then s.now else k.frzAt, stlAt := if k1.stalled && !k.stalled then s.now else k.stlAt
      plk := { k.plk with overridden := false } }
    let s1 := s.setCl c k2
    if k.trc.freeze && k1.frozen && !k.frozen then traceRec s1 c 4 0 0 else s1

/-- A freeze cause releases; the plank advances, and the engine, once no cause of its own holds; the cycles lost are counted (R114,
R211). -/
def releaseCl (s : State) (c : Fin 64) (why : FreezeCause) : State :=
  let k := s.cl c
  if !clOn s c || !k.frz.contains why then s
  else
    let k1 := { k with frz := k.frz.filter (· != why) }
    let lost (t0 : Nat) : W64 := BitVec.ofNat 64 (cycIn s s.now - cycIn s t0)
    let plankGo := k.frozen && !k1.frozen
    let engGo := k.stalled && !k1.stalled
    let k2 := { k1 with
      cnt := if plankGo then { k.cnt with frozen := k.cnt.frozen + lost k.frzAt } else k.cnt
      vec := if engGo then { k.vec with stall := k.vec.stall + lost k.stlAt } else k.vec }
    let s1 := s.setCl c k2
    let s2 := if k.trc.freeze && plankGo then traceRec s1 c 5 0 0 else s1
    if engGo then startVec s2 c else s2

-- Pausing (R109, R110, R153)

/-- Whether every unit of a pausing cluster is at its stopping point: the plank is not frozen (R116) and the array is empty, no vector
instruction executes, and a MOVE under way has been stopped before its end. -/
def atPausePoint (s : State) (c : Fin 64) : Bool :=
  let k := s.cl c
  !k.frozen && (inFlight s c).isEmpty && (match k.vec.jobs with
    | j :: _ => j.start.isNone
    | [] => true) &&
  (match frontMove k.dma with
    | some (_, _, b, some n) => decide (n < b)
    | _ => true)

/-- Once every powered cluster of a partition is at its pause point, the PAUSE ticket is answered (R370, R380). -/
def pauseDone (s : State) (p : Fin 8) : State :=
  match (s.slot p).pauseNum with
  | none => s
  | some n =>
    if ((s.slot p).asg.cmap.filter (fun c => clOn s c)).all (fun c => (s.cl c).seq.paused) then
      let s1 := s.setSlot p { s.slot p with pauseNum := none }
      let s2 := match findTicket s1 p n with
        | some t => answer s1 p t stDone 0 (stepNow s1 p)
        | none => s1
      let s3 := setPState s2 p .paused
      if (s3.slot p).parking then park s3 p else s3
    else s

/-- The cluster enters PAUSED. -/
def enterPaused (s : State) (c : Fin 64) : State :=
  let k := s.cl c
  let s1 := s.setCl c { k with seq := { k.seq with pauseReq := false, paused := true } }
  match claimOf s1 c with
  | some (p, _) => pauseDone s1 p
  | none => s1

/-- A PAUSE reaches a cluster (R109, R153, R155): the tiles staged for passes that have not started are discarded; where nothing runs,
its pause point is immediate. -/
def pauseCluster (s0 : State) (c : Fin 64) : State :=
  if !clOn s0 c || (s0.cl c).seq.paused || (s0.cl c).seq.pauseReq then s0 else
  let s := rowsNow s0 c
  let k := s.cl c
  let ps := k.plk.passes.map (fun q => if arrCyc s c < q.firstC then { q with run := PassRun.idle } else q)
  let s1 := stopMove (s.setCl c { k with plk := { k.plk with passes := ps }, seq := { k.seq with pauseReq := true, pauseC := arrCyc s c } }) c
  if atPausePoint s1 c then enterPaused s1 c else s1

/-- A RESUME from PAUSED (R110, R153, R155): passes not yet started are timed afresh as a new chain, and where there is none the next PASS
starts one (R137); the engines go on, and a recorded RELEASE takes effect. -/
def resumeCluster (s : State) (c : Fin 64) : State :=
  let k := s.cl c
  if !clOn s c || !k.seq.paused then s else
  let p1 := if k.plk.passes.any (fun q => q.aband.isSome) then k.plk else k.plk.restart (arrCyc s c)
  let s1 := s.setCl c { k with seq := { k.seq with paused := false }, plk := { p1 with brk := p1.brk || p1.passes.isEmpty } }
  let s2 := startMove (startVec s1 c) c
  let s3 := if k.seq.mode == .held && k.seq.released then releaseHeld s2 c else s2
  afterUnit s3 c

end Sys2Proof.Machine
end

