-- ==== Sys2Proof/Machine/Sequencer.lean ====
section
/-! DEFINITION. The commands of the sequencer's own instructions (R130 to R133, R147 to R150) and of SEQ_CTRL (R152 to R158). -/

namespace Sys2Proof.Machine

def execNop (t : Nat) (c : Fin 64) (s : State) : Answer := issueWord t c 0 0 (fun s _ => advanceWord s c) s

/-- ENDSTEP (R130, R148): SEM_RES where a semaphore is left non-zero; DONE. -/
def endstepBody (c : Fin 64) (s : State) : State :=
  let k := s.cl c
  if !idleUnits k || !k.seq.sigOut.isEmpty || !k.plk.checks.isEmpty then s else
  let nz := (List.range 32).filter (fun i => k.seq.sems.toList.getD i 0 != 0)
  let k1 := { k with
    seq := { k.seq with mode := .done }
    sreg := { k.sreg with issued := k.sreg.issued + 1, semRes := k.sreg.semRes || !nz.isEmpty } }
  let s1 := s.setCl c k1
  match nz with
  | [] => s1
  | i :: _ => clLog s1 c 0x7042 (payload [(0, 1, i), (2, 2, (k.seq.sems.toList.getD i 0).toNat), (4, 4, k.sreg.step.toNat),
      (8, 4, (nz.map (fun j => 2 ^ j)).sum)])

def execEndstep (t : Nat) (c : Fin 64) (s : State) : Answer := issueWord t c 0 1 (fun s _ => endstepBody c s) s
def execJump (t : Nat) (c : Fin 64) (s : State) : Answer := issueWord t c 0 2 (fun s w => transfer s c w) s
def execCallv (t : Nat) (c : Fin 64) (s : State) : Answer := issueWord t c 0 3 (fun s w => transfer s c w) s
def execRet (t : Nat) (c : Fin 64) (s : State) : Answer := issueWord t c 0 4 (fun s w => transfer s c w) s

/-- LOOP (R130, R131). -/
def loopBody (c : Fin 64) (s : State) (w : IWord) : State :=
  let k := s.cl c
  let q := k.seq
  let ws := (q.block.map Block.words).getD []
  let first := q.idx + 1
  let last := q.idx + 1 + bitsAt w.toNat 90 6
  let body := (ws.drop first).take (last + 1 - first)
  let nested := match q.loops with
    | [] => true
    | [l] => decide (last ≤ l.last)
    | _ => false
  if decide (last < ws.length) && nested && !body.any isFlow then
    s.setCl c { k with
      seq := { q with mode := .run, idx := first, loops := { first := first, last := last, left := bitsAt w.toNat 96 16 } :: q.loops }
      sreg := { k.sreg with issued := k.sreg.issued + 1 } }
  else stopHere s c reasonFlow w

def execLoop (t : Nat) (c : Fin 64) (s : State) : Answer := issueWord t c 0 5 (loopBody c) s

/-- TRAP: the service request is raised once and waits for TRAP_DONE (R130). -/
def trapBody (c : Fin 64) (s : State) (w : IWord) : State :=
  let k := s.cl c
  if k.seq.trap.isSome then s else s.setCl c { k with seq := { k.seq with mode := .wait, trap := some (bitsAt w.toNat 96 16) } }

def execTrap (t : Nat) (c : Fin 64) (s : State) : Answer := issueWord t c 0 6 (trapBody c) s

/-- SIG (R147, R148): the next sequence number of the pair; outstanding until acknowledged. -/
def sigBody (c : Fin 64) (s : State) (w : IWord) : State :=
  let k := s.cl c
  let v := w.toNat
  let inc := bitsAt v 93 8
  match physOf s (clPart k) (bitsAt v 106 6) with
  | none => stopHere s c reasonSync w
  | some g =>
    if inc = 0 then stopHere s c reasonSync w else
    let n := (alGet k.seq.sigNext g.val).getD 0
    advanceWord (s.setCl c { k with seq := { k.seq with
      sigNext := alPut k.seq.sigNext g.val (some ((n + 1) % 2 ^ 16))
      sigOut := k.seq.sigOut ++ [{ tgt := g, seq := n, sem := bitsAt v 101 5, inc := inc }] } }) c

def execSig (t : Nat) (c : Fin 64) (s : State) : Answer := issueWord t c 4 0 (sigBody c) s

/-- A SIG reaches its target (R148): applied once; a repeat is acknowledged, discarded and logged. -/
def applySig (s : State) (src tgt : Fin 64) (g : SigOut) : State :=
  let k := s.cl tgt
  if k.seq.sigSeen.contains (src.val, g.seq) then clLog s tgt 0x7043 [] else
  let i : Fin 32 := ⟨g.sem % 32, Nat.mod_lt _ (by decide)⟩
  let v := (k.seq.sems.get i).toNat + g.inc
  let exceeds := decide (0xFFFF < v)
  let s1 := s.setCl tgt { k with
    seq := { k.seq with sems := vset k.seq.sems i (BitVec.ofNat 16 (min v 0xFFFF)), sigSeen := (src.val, g.seq) :: k.seq.sigSeen }
    sreg := { k.sreg with semOvf := k.sreg.semOvf || exceeds } }
  if exceeds then clLog s1 tgt 0x7041 (payload [(0, 1, g.sem), (1, 1, clLcl (s.cl src)), (4, 4, k.sreg.step.toNat)]) else s1

/-- The source receives the acknowledgement: the SIG is no longer outstanding, and it will not be repeated. -/
def ackSig (s : State) (src tgt : Fin 64) (seq : Nat) : State :=
  let k := s.cl src
  let s1 := s.setCl src { k with seq := { k.seq with sigOut := k.seq.sigOut.filter (fun x => !(x.tgt == tgt && x.seq == seq)) } }
  let j := s1.cl tgt
  settleSeq (s1.setCl tgt { j with seq := { j.seq with sigSeen := j.seq.sigSeen.filter (fun x => x != (src.val, seq)) } }) src

/-- The delivery of an outstanding SIG to a powered target; `ackLost` keeps it outstanding (R148). -/
def deliverSig (s : State) (src tgt : Fin 64) (seq : Nat) (ackLost : Bool) : State :=
  match (s.cl src).seq.sigOut.find? (fun x => x.tgt == tgt && x.seq == seq) with
  | none => s
  | some g =>
    if !clOn s src || !clOn s tgt then s else
    let s1 := applySig s src tgt g
    if ackLost then s1 else ackSig s1 src tgt seq

def execSigDelivery (t : Nat) (src tgt : Fin 64) (seq : Nat) (ackLost : Bool) (s : State) : Answer :=
  .next (deliverSig (tick t s) src tgt seq ackLost)

/-- A claimed cluster that is off and is needed is powered, which is logged (R449). -/
def wakeLate (s : State) (c : Fin 64) (step : Nat) : State :=
  if clOn s c || s.pwr.want.getLsbD c.val then s else
  match claimOf s c with
  | none => s
  | some (p, l) => logEv (wantCl s c) 0x0701 0x800A p.val (payload [(0, 1, l), (4, 4, step)])

/-- The hatband repeats an unacknowledged SIG (R148); a target that is off is woken (R449). -/
def execSigRepeat (t : Nat) (src tgt : Fin 64) (seq : Nat) (ackLost : Bool) (s0 : State) : Answer :=
  let s := tick t s0
  if !((s.cl src).seq.sigOut.any (fun x => x.tgt == tgt && x.seq == seq)) then .next s
  else if !clOn s tgt then .next (wakeLate s tgt (s.cl src).sreg.step.toNat)
  else .next (deliverSig s src tgt seq ackLost)

/-- WAIT (R147). -/
def waitBody (c : Fin 64) (s : State) (w : IWord) : State :=
  let k := s.cl c
  let n := bitsAt w.toNat 85 16
  let i : Fin 32 := ⟨bitsAt w.toNat 101 5 % 32, Nat.mod_lt _ (by decide)⟩
  let v := k.seq.sems.get i
  if n = 0 then stopHere s c reasonSync w
  else if n ≤ v.toNat then advanceWord (s.setCl c { k with seq := { k.seq with sems := vset k.seq.sems i (v - BitVec.ofNat 16 n) } }) c
  else s.setCl c { k with seq := { k.seq with mode := .wait } }

def execWait (t : Nat) (c : Fin 64) (s : State) : Answer := issueWord t c 4 1 (waitBody c) s

/-- Generation of barrier b that a cluster has joined last (R149). -/
def barCount (k : Cluster) (b : Nat) : Nat := (alGet k.seq.barGen b).getD 0

/-- The members of a barrier that wait at it are released (R149). -/
def releaseBar (s : State) (p : Fin 8) (b : Nat) : State :=
  (s.slot p).asg.cmap.foldl (fun (t : State) c =>
    if (t.cl c).seq.barWait == some b then
      let k := t.cl c
      t.setCl c (stepWord { k with seq := { k.seq with barWait := none } })
    else t) s

/-- BAR (R149): joins the next generation; the last arrival releases every member. -/
def barBody (c : Fin 64) (s : State) (w : IWord) : State :=
  let k := s.cl c
  let p := clPart k
  let b := bitsAt w.toNat 108 4
  let m := barrierMask s p b
  if !bitAt m (clLcl k) then stopHere s c reasonSync w
  else if k.seq.barWait.isSome then s
  else
    let n := barCount k b + 1
    let s1 := s.setCl c { k with seq := { k.seq with mode := .wait, barWait := some b, barGen := alPut k.seq.barGen b (some n) } }
    let all := (List.range 64).all (fun l => !bitAt m l || (match physOf s1 p l with
      | some g => decide (n ≤ barCount (s1.cl g) b)
      | none => false))
    if all then releaseBar s1 p b else s1

def execBar (t : Nat) (c : Fin 64) (s : State) : Answer := issueWord t c 4 2 (barBody c) s

/-- STAT.FLUSH (R150, R163, R164): refused, or taken; its record is written at once where nothing earlier is left to fold. -/
def flushBody (c : Fin 64) (s : State) (w : IWord) : State :=
  let k := s.cl c
  let L := bitsAt w.toNat 96 16
  let a := bitsAt w.toNat 0 48
  if 6 ≤ outD k then s
  else if a % 256 != 0 || !decide (a + 768 ≤ dramEnd) || !partOwns s (clPart k) a 768 then stopHere s c reasonDma w
  else
    let mine := k.plk.passes.filter (fun q => q.layer == L)
    let f : FlushJob :=
      { layer := L, addr := a, ovf := passDropped k
        slot := (k.card.slots.find? (fun x => x.layer == L)).getD (CardSlot.clear L)
        waitP := mine.map (fun q => q.seqNo)
        waitC := (mine.filter (fun q => q.draw.isSome)).map (fun q => q.seqNo) ++ (k.plk.checks.filter (fun h => h.layer == L)).map (fun h => h.seqNo) }
    afterUnit (advanceWord (s.setCl c { k with dma := k.dma ++ [.flush f] }) c) c

def execFlush (t : Nat) (c : Fin 64) (s : State) : Answer := issueWord t c 5 0 (flushBody c) s

-- SEQ_CTRL (R158); a write from a requester that may not write the register has no effect (R156)

def seqCtrl (s : State) (who : Requester) (c : Fin 64) (f : State → State) : State :=
  if seqWriter who c && clOn s c then f s else s

/-- RELEASE (R154, R155): the held transfer is made, or recorded under a pause. SEQ_STATUS.CORE_RST returns to 0 at any RELEASE that its
requester may write: the restarted core writes it last (R154 gives no other moment: DESIGN CHOICE, log entry 18). -/
def seqRelease (s : State) (c : Fin 64) : State :=
  let k := s.cl c
  let s1 := s.setCl c { k with seq := { k.seq with coreRst := false, released := k.seq.mode == .held } }
  if k.seq.mode == .held && !k.seq.paused && !k.seq.pauseReq then releaseHeld s1 c else s1

def seqTrapDone (s : State) (c : Fin 64) : State :=
  let k := s.cl c
  if k.seq.trap.isNone then s else s.setCl c (stepWord { k with seq := { k.seq with trap := none } })

def seqClrStop (s : State) (c : Fin 64) : State :=
  let k := s.cl c
  if k.seq.mode == .stopped then s.setCl c { k with seq := { k.seq with mode := .idle } } else s

def execSeqCtrlGo (t : Nat) (who : Requester) (c : Fin 64) (s : State) : Answer :=
  .next (seqCtrl (tick t s) who c (fun s => goCluster s c))
def execSeqCtrlRelease (t : Nat) (who : Requester) (c : Fin 64) (s : State) : Answer :=
  .next (seqCtrl (tick t s) who c (fun s => seqRelease s c))
def execSeqCtrlTrapDone (t : Nat) (who : Requester) (c : Fin 64) (s : State) : Answer :=
  .next (seqCtrl (tick t s) who c (fun s => seqTrapDone s c))
def execSeqCtrlClrStop (t : Nat) (who : Requester) (c : Fin 64) (s : State) : Answer :=
  .next (seqCtrl (tick t s) who c (fun s => seqClrStop s c))
def execSeqCtrlPause (t : Nat) (who : Requester) (c : Fin 64) (s : State) : Answer :=
  .next (seqCtrl (tick t s) who c (fun s => pauseCluster s c))
def execSeqCtrlResume (t : Nat) (who : Requester) (c : Fin 64) (s : State) : Answer :=
  .next (seqCtrl (tick t s) who c (fun s => resumeCluster s c))

/-- The pause point (R109): a pausing cluster whose units have all stopped. -/
def execPausePoint (t : Nat) (c : Fin 64) (s0 : State) : Answer :=
  let s := tick t s0
  if clOn s c && (s.cl c).seq.pauseReq && atPausePoint s c then .next (enterPaused s c) else .next s

end Sys2Proof.Machine
end

