-- ==== Sys2Proof/Machine/CollOps.lean ====
section
/-! DEFINITION. How a collective computes (R276 to R281): chunks of a torus, transport formats, the reduction of one hop, the carder
reduction, and which messages and results the contributions received so far allow. -/

namespace Sys2Proof.Machine

-- Transport (R277 to R279)

def f32Num (x : Num) : Num := (decodeFp .fp32 fpFP32 (toFp32 x).1).1

def CElem.num : CElem → Num
  | .val x _ => x
  | .card _ => .nan

def CElem.poi : CElem → Bool
  | .val _ p => p
  | .card _ => false

/-- Pieces of n elements. -/
def piecesOf {α : Type} (n : Nat) : Nat → List α → List (List α)
  | 0, _ => []
  | f + 1, l => if l.isEmpty then [] else l.take n :: piecesOf n f (l.drop n)

/-- Granules of 32 bytes that elements of w bytes with poison lie in. -/
def chunkPoi (w : Nat) (xs : List CElem) : List Nat :=
  (xs.zipIdx).foldl (fun (l : List Nat) (x : CElem × Nat) => if x.1.poi then nsSet l (w * x.2 / 32) true else l) []

/-- One batt as to_t quantises it: what it decodes to, its 32 bytes, its scale, and whether it is poisoned (R47, R61). -/
def battT (f : Fmt) (xs : List CElem) : List CElem × Bytes × Nat × Bool :=
  let b := quantiseBatt (xs.map (fun x => (toFp32 x.num).1)) f false 0 (fun _ => .rne)
  let p := xs.any CElem.poi
  ((b.elems.take xs.length).map (fun c => .val (decodeScaled f b.scale c).1 p), packBits 8 b.elems, b.scale, p)

/-- to_t over the elements of a chunk: the values it stands for, the transport data, and the poisoned granules of the data. -/
def toT (tf : Nat) (xs : List CElem) : List CElem × Bytes × List Nat :=
  match fmtOfCode tf with
  | some .fp32 => scalar .fp32 fpFP32 4
  | some .bf16 => scalar .bf16 fpBF16 2
  | some f =>
    let bs := (piecesOf 32 (xs.length / 32 + 1) xs).map (battT f)
    ((bs.map (fun b => b.1)).flatten, (bs.map (fun b => b.2.1)).flatten ++ (bs.map (fun b => (natLe 1 b.2.2.1))).flatten,
      (bs.zipIdx.filter (fun b => b.1.2.2.2)).map (fun b => b.2))
  | none => (xs, [], [])
where
  scalar (f : Fmt) (K : FpK) (w : Nat) : List CElem × Bytes × List Nat :=
    let cs := xs.map (fun x => (roundTo f K x.num .rne).1)
    (List.zipWith (fun (c : Nat) (x : CElem) => CElem.val (decodeFp f K c).1 x.poi) cs xs, (cs.map (natLe w)).flatten, chunkPoi w xs)

/-- The elements that transport data stand for. A batt is poisoned through its data granule or the granule of its scale entry (R279). -/
def fromT (tf : Nat) (data : Bytes) (poi : List Nat) (m : Nat) : List CElem :=
  match fmtOfCode tf with
  | some .fp32 => (List.range m).map (fun k => .val (decodeFp .fp32 fpFP32 (fieldU data (4 * k) 4)).1 (poi.contains (4 * k / 32)))
  | some .bf16 => (List.range m).map (fun k => .val (decodeFp .bf16 fpBF16 (fieldU data (2 * k) 2)).1 (poi.contains (2 * k / 32)))
  | some f =>
    let nb := cdiv m 32
    (List.range m).map (fun k =>
      let b := k / 32
      .val (decodeScaled f (fieldU data (32 * nb + b) 1) (fieldU data k 1)).1 (poi.contains b || poi.contains ((32 * nb + b) / 32)))
  | none => []

-- Carder records (R165, R168, R169)

/-- How a field of a section reduces. -/
inductive CardRed where
  | maxU | minU | wrap | sat | zero | maxS
deriving DecidableEq, Repr

/-- Bytes and reduction of each field of a section, in order. -/
def cardFields : List (Nat × CardRed) :=
  [(4, .maxU), (4, .minU), (8, .wrap), (8, .wrap), (8, .wrap), (4, .sat), (4, .sat), (4, .sat), (4, .sat), (4, .sat), (4, .sat), (4, .sat),
    (4, .sat), (8, .wrap), (2, .maxS), (2, .zero), (4, .sat)] ++ List.replicate 32 (4, .sat)

def redField (r : CardRed) (n : Nat) (a b : Bytes) : Bytes :=
  let x := leNat a
  let y := leNat b
  match r with
  | .maxU => natLe n (max x y)
  | .minU => natLe n (min x y)
  | .wrap => natLe n (x + y)
  | .sat => natLe n (satU32 (x + y))
  | .zero => zeroB n
  | .maxS => intLe n (max (fieldS a 0 n) (fieldS b 0 n))

/-- Two sections combined field by field. -/
def redSection : List (Nat × CardRed) → Bytes → Bytes → Bytes
  | [], _, _ => []
  | (n, r) :: t, a, b => redField r n (a.take n) (b.take n) ++ redSection t (a.drop n) (b.drop n)

/-- Two records combined: NREC adds, POISONED and OVF are ORed, LCL reads 0xFFFF. -/
def cardComb (a b : Bytes) : Bytes :=
  sliceB a 0 2 ++ natLe 2 1 ++ sliceB a 4 4 ++ natLe 2 0xFFFF ++ natLe 2 ((fieldU a 10 2 ||| fieldU b 10 2) &&& 3) ++
    natLe 4 (fieldU a 12 4 + fieldU b 12 4) ++ zeroB 48 ++
    redSection cardFields (sliceB a 64 208) (sliceB b 64 208) ++ redSection cardFields (sliceB a 272 208) (sliceB b 272 208) ++
    redSection cardFields (sliceB a 480 208) (sliceB b 480 208) ++ zeroB 80

/-- The record of a layer to which no cluster has contributed. -/
def cardNone (layer : Nat) : Bytes :=
  natLe 2 layer ++ natLe 2 1 ++ zeroB 4 ++ natLe 2 0xFFFF ++ zeroB 2 ++ zeroB 4 ++ zeroB 48 ++
    Section.clear.bytes ++ Section.clear.bytes ++ Section.clear.bytes ++ zeroB 80

/-- FLAGS.POISONED set. -/
def cardPoison (b : Bytes) : Bytes := patchB b 10 (natLe 2 (fieldU b 10 2 &&& 3 ||| 1))

/-- comb of R277 for one element: ADD, MAX, MIN or the carder reduction; a result with a poisoned input is poisoned (R61). -/
def combElem (red : Nat) (a b : CElem) : CElem :=
  match a, b with
  | .card x, .card y => .card (cardComb x y)
  | a, b =>
    let x := a.num
    let y := b.num
    let r := match red with
      | 0 => sumNum [x, y]
      | 1 => maxNum x y
      | _ => minNum x y
    .val (f32Num r) (a.poi || b.poi)

-- Geometry (R273, R276)

/-- One dimension of a collective: its rings as TX and RX ports, members, own position, the piece it works on and its chunk size. -/
structure CDim where
  rings : List (Fin 16 × Fin 16)
  p     : Nat
  pos   : Nat
  start : Nat
  len   : Nat
  cs    : Nat
deriving DecidableEq, Repr

/-- A collective as its descriptor and the image describe it; `n` counts elements, which are layers for CARDER. -/
structure Geo where
  op   : Nat
  red  : Nat
  tf   : Nat
  n    : Nat
  root : Nat
  dims : List CDim
  /-- The piece owned after every dimension. -/
  own  : Nat × Nat
deriving DecidableEq, Repr

def ringOf (i : Img) (r : Nat) : Nat × Nat × Nat × Nat × Nat :=
  let b := 272 + 8 * r
  (fieldU i.links b 1, fieldU i.links (b + 1) 1, fieldU i.links (b + 2) 1, fieldU i.links (b + 4) 2, fieldU i.links (b + 6) 2)

def toPort (n : Nat) : Fin 16 := ⟨n % 16, Nat.mod_lt _ (by decide)⟩

/-- The dimensions that a collective's rings span, in ascending order, each working on the piece owned after the previous one. -/
def geoDims (i : Img) (rings : Nat) : List Nat → Nat × Nat → List CDim × (Nat × Nat)
  | [], w => ([], w)
  | d :: ds, w =>
    let rs := ((List.range 32).filter (fun r => bitAt rings r)).map (ringOf i)
    match rs.filter (fun r => r.1 == d) with
    | [] => geoDims i rings ds w
    | r :: t =>
      let R := t.length + 1
      let P := r.2.2.2.1
      let pos := r.2.2.2.2
      let cs := 32 * cdiv w.2 (32 * R * P)
      let k : CDim := { rings := (r :: t).map (fun x => (toPort x.2.1, toPort x.2.2.1)), p := P, pos := pos, start := w.1, len := w.2, cs := cs }
      let x := geoDims i rings ds (w.1 + pos * R * cs, min (R * cs) (w.2 - pos * R * cs))
      (k :: x.1, x.2)

def geoOf (i : Img) (d : Bytes) : Geo :=
  let red := fieldU d 5 1
  let n := if red = 3 then nLayer i else fieldU d 16 8
  let x := geoDims i (fieldU d 12 4) [0, 1, 2, 3] (0, n)
  { op := fieldU d 4 1, red := red, tf := fieldU d 7 1, n := n, root := fieldU d 10 1, dims := x.1, own := x.2 }

/-- First element of a chunk within its dimension's piece, and its number of elements (R276). -/
def CDim.chunk (k : CDim) (cid : Nat) : Nat × Nat := (cid * k.cs, min k.cs (k.len - cid * k.cs))

def CDim.r (k : CDim) : Nat := k.rings.length

/-- Chunks of a dimension that hold elements. -/
def CDim.chunks (k : CDim) : List Nat := (List.range (k.r * k.p)).filter (fun c => decide (0 < (k.chunk c).2))

/-- Hops from the first sender of a reduction to this position: 1 sends first, P owns (R277). -/
def CDim.hop (k : CDim) (cid : Nat) : Nat := let h := (k.pos + k.p - cid / k.r % k.p) % k.p; if h = 0 then k.p else h

/-- Hops from the owner, or from the root of a broadcast, to this position in a relay. -/
def CDim.dist (k : CDim) (root : Nat) : Nat := (k.pos + k.p - root % k.p) % k.p

-- What a collective can do (R277, R278)

def sliceL {α : Type} (xs : List α) (lo n : Nat) : List α := (xs.drop lo).take n

/-- A message used by the collective. -/
def Coll.msg (k : Coll) (dim chunk phase hop : Nat) : Option CMsg :=
  k.got.find? (fun m => m.dim == dim && m.chunk == chunk && m.phase == phase && m.hop == hop)

/-- Values of a chunk with the DISCORD flag of each element. -/
abbrev EVals := List (CElem × Bool)

/-- The elements of a message; a carder record from a poisoned granule takes FLAGS.POISONED (R169). -/
def msgVals (g : Geo) (m : CMsg) (n : Nat) : EVals :=
  let xs : List CElem := if g.red = 3 then
      (List.range n).map (fun j =>
        let b := sliceB m.data (768 * j) 768
        .card (if (span (24 * j) 24).any (fun u => m.poi.contains u) then cardPoison b else b))
    else fromT g.tf m.data m.poi n
  xs.map (fun x => (x, m.discord))

/-- One hop: the message received combined with the own input (R277); DISCORD marks the whole chunk (R281). -/
def combVals (g : Geo) (a b : EVals) : EVals :=
  List.zipWith (fun (x y : CElem × Bool) => (combElem g.red x.1 y.1, x.2 || y.2)) a b

/-- to_t of a chunk; carder records travel as they are. -/
def sendVals (g : Geo) (xs : EVals) : EVals × Bytes × List Nat :=
  if g.red = 3 then
    (xs, (xs.map (fun x => match x.1 with | .card b => b | .val _ _ => [])).flatten, [])
  else
    let t := toT g.tf (xs.map Prod.fst)
    (List.zipWith (fun (x : CElem) (y : CElem × Bool) => (x, y.2)) t.1 xs, t.2.1, t.2.2)

/-- What this position feeds into the reduction of dimension j: its input, then what it owns after each dimension. -/
def Coll.owned (k : Coll) (g : Geo) : Nat → Option EVals
  | 0 => some (k.inp.map (fun x => (x, false)))
  | j + 1 =>
    match k.owned g j, g.dims[j]? with
    | some prev, some d =>
      (List.range d.r).foldl (fun (acc : Option EVals) i =>
        match acc with
        | none => none
        | some l =>
          let cid := d.pos * d.r + i
          let c := d.chunk cid
          let x := sliceL prev c.1 c.2
          if d.p = 1 ∨ c.2 = 0 then some (l ++ x)
          else match k.msg j cid 0 (d.p - 1) with
            | none => none
            | some m => some (l ++ combVals g (msgVals g m c.2) x)) (some [])
    | _, _ => none

/-- A message that may leave: dimension, TX port, chunk, phase, hop, data, poisoned granules, DISCORD. -/
structure CSend where
  dim     : Nat
  port    : Fin 16
  chunk   : Nat
  phase   : Nat
  hop     : Nat
  data    : Bytes
  poi     : List Nat
  discord : Bool
deriving DecidableEq, Repr

def mkSend (g : Geo) (j : Nat) (d : CDim) (cid phase hop : Nat) (xs : EVals) : CSend :=
  let t := sendVals g xs
  { dim := j, port := (d.rings.getD (cid % d.r) (0, 0)).1, chunk := cid, phase := phase, hop := hop, data := t.2.1, poi := t.2.2
    discord := xs.any Prod.snd }

/-- Messages of the reduce phase of dimension j. -/
def reduceSends (k : Coll) (g : Geo) (j : Nat) (d : CDim) : List CSend :=
  match k.owned g j with
  | none => []
  | some prev =>
    if d.p ≤ 1 then [] else
    d.chunks.filterMap (fun cid =>
      let c := d.chunk cid
      let x := sliceL prev c.1 c.2
      let h := d.hop cid
      if h = d.p then none
      else if h = 1 then some (mkSend g j d cid 0 1 x)
      else (k.msg j cid 0 (h - 1)).map (fun m => mkSend g j d cid 0 h (combVals g (msgVals g m c.2) x)))

/-- The values of one chunk in the gather of dimension j, from the owned piece `top` of that dimension (R278). -/
def gatherChunk (k : Coll) (g : Geo) (j : Nat) (d : CDim) (top : Option EVals) (cid : Nat) : Option EVals :=
  let c := d.chunk cid
  if cid / d.r = d.pos then
    top.map (fun t => (sendVals g (sliceL t (c.1 - d.pos * d.r * d.cs) c.2)).1)
  else (k.msg j cid 1 (d.dist (cid / d.r) - 1)).map (fun m => msgVals g m c.2)

/-- The gathered values over the piece of dimension j; `top` carries those of the dimension above. -/
def gatherAll (k : Coll) (g : Geo) (j : Nat) (d : CDim) (top : Option EVals) : Option EVals :=
  d.chunks.foldl (fun (acc : Option EVals) cid =>
    match acc, gatherChunk k g j d top cid with
    | some l, some x => some (l ++ x)
    | _, _ => none) (some [])

/-- Owned pieces of the gather phases: element j is the piece that dimension j starts from, for the dimensions given from the last down. -/
def gatherTops (k : Coll) (g : Geo) : List (Nat × CDim) → Option EVals → List (Nat × CDim × Option EVals)
  | [], _ => []
  | (j, d) :: t, top => (j, d, top) :: gatherTops k g t (gatherAll k g j d top)

/-- The piece from which the gather starts: what it owns after the reduction, or for ALL_GATHER its input. -/
def gatherFrom (k : Coll) (g : Geo) : Option EVals :=
  if g.op = 2 then k.owned g 0 else k.owned g g.dims.length

def gatherDims (k : Coll) (g : Geo) : List (Nat × CDim × Option EVals) :=
  gatherTops k g ((g.dims.zipIdx.map (fun x => (x.2, x.1))).reverse) (gatherFrom k g)

/-- Messages of the gather phase of a dimension: the owner's, and the relay of what has been received. -/
def gatherSends (k : Coll) (g : Geo) (x : Nat × CDim × Option EVals) : List CSend :=
  let j := x.1
  let d := x.2.1
  d.chunks.filterMap (fun cid =>
    let h := d.dist (cid / d.r)
    let port := (d.rings.getD (cid % d.r) (0, 0)).1
    if h + 1 ≥ d.p then none
    else if h = 0 then
      let c := d.chunk cid
      x.2.2.map (fun t => mkSend g j d cid 1 0 (sliceL t (c.1 - d.pos * d.r * d.cs) c.2))
    else (k.msg j cid 1 (h - 1)).map (fun m =>
      { dim := j, port := port, chunk := cid, phase := 1, hop := h, data := m.data, poi := m.poi, discord := m.discord }))

/-- Values of one chunk of a broadcast along the rings of its first dimension (R278). -/
def castChunk (k : Coll) (g : Geo) (d : CDim) (cid : Nat) : Option EVals :=
  let c := d.chunk cid
  if d.dist g.root = 0 then some (sendVals g ((sliceL k.inp c.1 c.2).map (fun x => (x, false)))).1
  else (k.msg 0 cid 2 (d.dist g.root - 1)).map (fun m => msgVals g m c.2)

def castSends (k : Coll) (g : Geo) (d : CDim) : List CSend :=
  let h := d.dist g.root
  if h + 1 ≥ d.p then [] else
  d.chunks.filterMap (fun cid =>
    let c := d.chunk cid
    let port := (d.rings.getD (cid % d.r) (0, 0)).1
    if h = 0 then some (mkSend g 0 d cid 2 0 ((sliceL k.inp c.1 c.2).map (fun x => (x, false))))
    else (k.msg 0 cid 2 (h - 1)).map (fun m =>
      { dim := 0, port := port, chunk := cid, phase := 2, hop := h, data := m.data, poi := m.poi, discord := m.discord }))

/-- Every message that the contributions received so far allow. -/
def Coll.sends (k : Coll) (g : Geo) : List CSend :=
  let ds := g.dims.zipIdx
  let red := if g.op ≤ 1 then (ds.map (fun x => reduceSends k g x.2 x.1)).flatten else []
  let gat := if g.op = 0 ∨ g.op = 2 then ((gatherDims k g).map (gatherSends k g)).flatten else []
  let cst := if g.op = 3 then (match g.dims with | d :: _ => castSends k g d | [] => []) else []
  red ++ gat ++ cst

/-- A chunk of the result: its number, its first element in the whole tensor, its values. -/
abbrev CResult := Nat × Nat × EVals

/-- Every chunk of the result that is known (R276, R278). A collective of one member writes through to_t; a REDUCE_SCATTER otherwise keeps
the owner's FP32 values. -/
def Coll.results (k : Coll) (g : Geo) (dest1 : Bool) : List CResult :=
  match g.dims with
  | [] =>
    let x : EVals := k.inp.map (fun x => (x, false))
    [(0, 0, if dest1 then x else (sendVals g x).1)]
  | d0 :: _ =>
    if g.op = 1 then
      match g.dims.getLast?, k.owned g (g.dims.length - 1) with
      | some d, some prev =>
        (List.range d.r).filterMap (fun i =>
          let cid := d.pos * d.r + i
          let c := d.chunk cid
          let x := sliceL prev c.1 c.2
          if c.2 = 0 then none
          else if d.p = 1 then some (cid, d.start + c.1, x)
          else (k.msg (g.dims.length - 1) cid 0 (d.p - 1)).map (fun m => (cid, d.start + c.1, combVals g (msgVals g m c.2) x)))
      | _, _ => []
    else if g.op = 3 then d0.chunks.filterMap (fun cid => (castChunk k g d0 cid).map (fun v => (cid, (d0.chunk cid).1, v)))
    else match (gatherDims k g).getLast? with
      | some (j, d, top) => d.chunks.filterMap (fun cid => (gatherChunk k g j d top cid).map (fun v => (cid, (d.chunk cid).1, v)))
      | none => []

/-- Chunks that the result has. -/
def resultChunks (g : Geo) : List Nat :=
  match g.dims with
  | [] => [0]
  | d0 :: _ =>
    if g.op = 1 then
      match g.dims.getLast? with
      | some d => ((List.range d.r).map (fun i => d.pos * d.r + i)).filter (fun c => decide (0 < (d.chunk c).2))
      | none => []
    else d0.chunks

-- What a contribution must be (R280)

/-- The dimension and ring of a collective that receives on a port. -/
def rxRing (g : Geo) (q : Fin 16) : Option (Nat × CDim × Nat) :=
  (g.dims.zipIdx).findSome? (fun x => ((x.1.rings.map Prod.snd).idxOf? q).map (fun i => (x.2, x.1, i)))

/-- Whether the position expects a message of a phase and hop for a chunk: the hop that its predecessor sends (R277, R278). -/
def wantsHop (g : Geo) (j : Nat) (d : CDim) (cid phase hop : Nat) : Bool :=
  match phase with
  | 0 => decide (g.op ≤ 1) && decide (2 ≤ d.hop cid) && hop + 1 == d.hop cid
  | 1 => (g.op == 0 || g.op == 2) && decide (1 ≤ d.dist (cid / d.r)) && hop + 1 == d.dist (cid / d.r)
  | 2 => g.op == 3 && j == 0 && decide (1 ≤ d.dist g.root) && hop + 1 == d.dist g.root
  | _ => false

/-- The dimension of an expected contribution; none where it is not expected. LEN is no part of it: missing bytes read as zero, and bytes
beyond the chunk are not read. -/
def expects (i : Img) (g : Geo) (q : Fin 16) (h : ContribHdr) : Option Nat :=
  match rxRing g q with
  | none => none
  | some (j, d, r) =>
    let m := (d.chunk h.chunk).2
    if h.chunk < d.r * d.p ∧ h.chunk % d.r = r ∧ 0 < m ∧ 1 < d.p ∧ pkgId h.src.toNat = pkgId (fieldU i.links (16 + 16 * q.val + 2) 2) ∧
        wantsHop g j d h.chunk h.phase.toNat h.hop = true then some j else none

end Sys2Proof.Machine
end

