-- ==== Sys2Proof/Machine/Coll.lean ====
section
/-! DEFINITION. The commands of the collective engines (chapter 10): the schedule walk, contributions, completion, timeout. -/

namespace Sys2Proof.Machine

/-- The partition whose image names engine e (R348). -/
def enginePart (s : State) (e : Fin 4) : Option (Fin 8 × Img) :=
  (List.finRange 8).findSome? (fun p => match (s.slot p).img with
    | some i => if (imgUes i).contains e then some (p, i) else none
    | none => none)

/-- Whether a requester may write the COL_ and UPD_ registers (R289, R313). -/
def engWriter : Requester → Bool
  | .sched | .loader | .sec => true
  | _ => false

def colPartOf (s : State) (e : Fin 4) : Nat := match enginePart s e with | some (p, _) => p.val | none => 15

def logCol (s : State) (e : Fin 4) (event : Nat) (pl : Bytes) : State := logEv s (0x0280 + e.val) event (colPartOf s e) pl

def setColErr (s : State) (e : Fin 4) (bit : Nat) : State := s.setCol e { s.col e with err := (s.col e).err ||| BitVec.ofNat 5 (2 ^ bit) }

/-- Descriptor k of the schedule (R274). -/
def schedDesc (s : State) (p : Fin 8) (e : Fin 4) (k : Nat) : Bytes := pRead s p ((s.col e).base.toNat * 128 + 128 * k) 128

def schedIds (s : State) (p : Fin 8) (e : Fin 4) : List Nat :=
  (List.range (s.col e).count.toNat).map (fun k => pU32 s p ((s.col e).base.toNat * 128 + 128 * k))

/-- A stray contribution (R280, R540). -/
def strayContrib (s : State) (e : Fin 4) (h : ContribHdr) : State :=
  let s1 := s.setCol e { s.col e with strays := (s.col e).strays + 1 }
  logCol (setColErr s1 e 1) e 0x5021
    (payload [(0, 2, h.src.toNat), (2, 2, h.phase.toNat * 2 ^ 14 + h.hop), (4, 4, h.collId.toNat), (8, 4, h.chunk), (12, 4, h.step.toNat)])

/-- A duplicate contribution, logged once per collective and step (R280, R540). -/
def dupContrib (s : State) (e : Fin 4) (h : ContribHdr) : State :=
  let k := s.col e
  let s1 := setColErr (s.setCol e { k with dups := k.dups + 1 }) e 0
  if k.dupLog.contains h.collId.toNat then s1
  else logCol (s1.setCol e { s1.col e with dupLog := h.collId.toNat :: k.dupLog }) e 0x5020
    (payload [(0, 2, h.src.toNat), (4, 4, h.collId.toNat), (12, 4, k.step.toNat)])

-- Input (R274, R276)

/-- The carder records of this package combined per layer; a record with a poisoned granule is POISONED (R165, R168, R169). Where the
granule of LAYER itself is poisoned the layer is not known, and every layer's record is POISONED (log entry 52). -/
def cardInput (s : State) (p : Fin 8) (layers n src : Nat) : List CElem :=
  let lost := (List.range n).any (fun k => pPoiAny s p (src + 768 * k) 2)
  let recs := (List.range n).map (fun k =>
    let a := src + 768 * k
    let b := pRead s p a 768
    if pPoiAny s p a 768 then cardPoison b else b)
  (List.range layers).map (fun L =>
    let r := (recs.filter (fun b => fieldU b 0 2 == L)).foldl cardComb (cardNone L)
    .card (if lost then cardPoison r else r))

/-- The own input of a collective as it stands at the start: the whole tensor, or for ALL_GATHER the owned piece. -/
def collInput (s : State) (p : Fin 8) (g : Geo) (d : Bytes) : List CElem :=
  let src := fieldU d 24 8
  if g.red = 3 then cardInput s p g.n (fieldU d 16 8) src
  else
    let w := if fieldU d 6 1 = 0 then 4 else 2
    let n := if g.op = 2 then g.own.2 else g.n
    (List.range n).map (fun k =>
      let c := leNat (pRead s p (src + w * k) w)
      .val (if w = 4 then (decodeFp .fp32 fpFP32 c).1 else (decodeFp .bf16 fpBF16 c).1) (pPoiAny s p (src + w * k) w))

-- Progress of the collectives in flight

/-- A message leaves as COLL flits (R279); its transport bytes are counted (R506). -/
def sendContrib (s : State) (p : Fin 8) (e : Fin 4) (i : Img) (g : Geo) (collId : Nat) (m : CSend) : State :=
  let hdr := natLe 2 (ownPkg i) ++ natLe 2 (m.phase * 2 ^ 14 + m.hop) ++ natLe 4 collId ++ natLe 4 m.chunk ++
    natLe 4 (s.col e).step.toNat ++ natLe 4 m.data.length ++ natLe 1 (if m.discord then 1 else 0) ++ zeroB 11
  countOp (sendMsg s m.port 5 1 (hdr ++ m.data) (m.poi.map (· + 1))) p (16 * 4 + g.tf) m.data.length

/-- A chunk of the result written to memory (R276, R278, R281): DISCORD poisons its granules. -/
def writeResult (s : State) (p : Fin 8) (e : Fin 4) (g : Geo) (d : Bytes) (r : CResult) : State :=
  let ow := if g.red = 3 then 768 else if fieldU d 8 1 = 0 then 4 else 2
  let rel := if g.op = 1 then r.2.1 - g.own.1 else r.2.1
  let a := fieldU d 32 8 + rel * ow
  let ws := (r.2.2.zipIdx).flatMap (fun (x : (CElem × Bool) × Nat) =>
    let b : Bytes := match x.1.1 with
      | .card c => patchB c 4 (natLe 4 (s.col e).step.toNat)
      | .val v _ => if ow = 4 then natLe 4 (toFp32 v).1 else natLe 2 (roundTo .bf16 fpBF16 v .rne).1
    wbytes (a + ow * x.2) b (x.1.2 || x.1.1.poi))
  let s1 := pCommit s p ws
  if ws.any (fun w => w.poi) then setColErr s1 e 4 else s1

/-- The update engine that a DEST = 1 descriptor names (R274, R292). -/
def destUe (d : Bytes) : Fin 4 := ⟨fieldU d 9 1 / 16 % 4, Nat.mod_lt _ (by decide)⟩

/-- A chunk of a reduced gradient passes to its update engine in FP32 (R293, R294). -/
def giveChunk (s : State) (e : Fin 4) (k : Coll) (d : Bytes) (r : CResult) : State :=
  let u := destUe d
  let bs := (piecesOf 32 (r.2.2.length / 32 + 1) r.2.2).map (fun b =>
    (b.map (fun x => (toFp32 x.1.num).1), b.any (fun x => x.1.poi)))
  let c : UChunk :=
    { col := e, entry := k.entry, batt := (fieldU d 32 8 + r.2.1) / 32, step := (s.col e).step, batts := bs, discord := r.2.2.any Prod.snd
      mult := k.mult, checked := false }
  let x := s.ue u
  s.setUe u { x with st := { x.st with inbox := x.st.inbox ++ [c] } }

/-- Sends and results of one collective that have become possible; an update engine whose domain is off takes none. -/
def pumpColl (s : State) (p : Fin 8) (i : Img) (e : Fin 4) (k : Coll) : State × Coll :=
  let g := geoOf i k.desc
  let dest1 := fieldU k.desc 9 1 % 16 == 1
  let new := (k.sends g).filter (fun m => !k.sent.contains (m.dim, m.chunk, m.phase, m.hop))
  let s1 := new.foldl (fun (t : State) m => sendContrib t p e i g (fieldU k.desc 0 4) m) s
  let res := if dest1 && !ueOn s (destUe k.desc) then [] else (k.results g dest1).filter (fun r => !k.given.contains r.1)
  let s2 := res.foldl (fun (t : State) r => if dest1 then giveChunk t e k k.desc r else writeResult t p e g k.desc r) s1
  (s2, { k with sent := k.sent ++ new.map (fun m => (m.dim, m.chunk, m.phase, m.hop)), given := k.given ++ res.map (fun r => r.1) })

/-- Every collective in flight of an engine moves on as far as it can. -/
def pumpAll (s : State) (p : Fin 8) (i : Img) (e : Fin 4) : State :=
  let r := (s.col e).fly.foldl (fun (acc : State × List Coll) k =>
    let x := pumpColl acc.1 p i e k
    (x.1, acc.2 ++ [x.2])) (s, [])
  r.1.setCol e { r.1.col e with fly := r.2 }

-- Contributions (R280, R281)

/-- A contribution to a collective in flight. -/
def takeContrib (s : State) (i : Img) (e : Fin 4) (k : Coll) (q : Fin 16) (h : ContribHdr) (data : Bytes) (poi : List Nat) : State :=
  match expects i (geoOf i k.desc) q h with
  | none => strayContrib s e h
  | some j =>
    if (k.msg j h.chunk h.phase.toNat h.hop).isSome then dupContrib s e h else
    let c := s.col e
    let off := h.step != c.step
    let m : CMsg := { dim := j, chunk := h.chunk, phase := h.phase.toNat, hop := h.hop, data := data, poi := poi, discord := h.discord || off }
    let s1 := s.setCol e { c with fly := c.fly.map (fun x => if x.entry = k.entry then { x with got := x.got ++ [m], since := s.now } else x) }
    if off then
      logCol (setColErr s1 e 2) e 0x5022 (payload [(0, 2, h.src.toNat), (2, 2, h.phase.toNat * 2 ^ 14 + h.hop), (4, 4, h.collId.toNat),
        (8, 4, h.step.toNat), (12, 4, c.step.toNat)])
    else s1

/-- A contribution held for a collective that has not started. -/
def holdContrib (s : State) (e : Fin 4) (q : Fin 16) (h : ContribHdr) (data : Bytes) (poi : List Nat) : State :=
  s.setCol e { s.col e with held := (s.col e).held ++ [{ port := q, hdr := h, data := data, poi := poi }] }

/-- A contribution to a collective that has completed in the step: all it expected has come. -/
def lateContrib (s : State) (p : Fin 8) (i : Img) (e : Fin 4) (entry : Nat) (q : Fin 16) (h : ContribHdr) : State :=
  match expects i (geoOf i (schedDesc s p e entry)) q h with
  | some _ => dupContrib s e h
  | none => strayContrib s e h

/-- Where a contribution goes by the state of its engine (R280, R282, R411). -/
def routeContrib (s : State) (p : Fin 8) (i : Img) (e : Fin 4) (q : Fin 16) (h : ContribHdr) (data : Bytes) (poi : List Nat) : State :=
  let k := s.col e
  match (schedIds s p e).idxOf? h.collId.toNat with
  | none => strayContrib s e h
  | some entry =>
    if k.state = 3 then (if h.step = k.step then s else holdContrib s e q h data poi)
    else if k.state = 0 then
      if h.step = k.step && k.past.any (fun x => x.1 == entry) then lateContrib s p i e entry q h
      else holdContrib s e q h data poi
    else match k.fly.find? (fun x => x.entry == entry) with
      | some x => pumpAll (takeContrib s i e x q h data poi) p i e
      | none =>
        if k.next ≤ entry then holdContrib s e q h data poi else lateContrib s p i e entry q h

/-- The engine of a partition that a contribution on a port is for: the one on the port's link die whose schedule names the collective,
else the lowest-numbered one there (R14). -/
def contribEngine (s : State) (p : Fin 8) (i : Img) (q : Fin 16) (collId : Nat) : Option (Fin 4) :=
  let es := (imgUes i).filter (fun e => decide (e.val / 2 = q.val / 8) && ueOn s e)
  match es.find? (fun e => (schedIds s p e).contains collId) with
  | some e => some e
  | none => es.head?

/-- CONTRIBUTION: a message received whole on a port; `poisoned` are the poisoned granules of its transport data. -/
def execContribution (t : Nat) (p : Fin 16) (h : ContribHdr) (data : Bytes) (poisoned : List Nat) (s : State) : Answer :=
  let s1 := tick t s
  if (s1.port p).state ≠ 3 then .next s1 else
  match portDecl s1 p with
  | none => .next s1
  | some (o, _) =>
    match (s1.slot o).img with
    | none => .next s1
    | some i =>
      match contribEngine s1 o i p h.collId.toNat with
      | none => .next s1
      | some e => .next (routeContrib s1 o i e p h data poisoned)

-- The walk (R274, R275, R290)

/-- The step begins in the update engine of the same number (R290, R308, R314): its records of the last step are gone and it is in RUN; a
DISCORD stays until it is cleared. -/
def ueBegin (s : State) (e : Fin 4) : State :=
  let x := s.ue e
  if x.regs.state = 3 then s else s.setUe e { x with regs := { x.regs with state := 1 }, st := { UeStep.reset with inbox := x.st.inbox } }

/-- A write of COL_STEP (R274, R290): in IDLE it starts the walk. Held contributions that the schedule does not name are strays. -/
def colStepWrite (s : State) (who : Requester) (e : Fin 4) (val : W32) : State :=
  let k := s.col e
  if !engWriter who || !ueOn s e || k.state != 0 then s else
  let ids := match enginePart s e with | some (p, _) => schedIds s p e | none => []
  let keep := k.held.filter (fun x => ids.contains x.hdr.collId.toNat)
  let gone := k.held.filter (fun x => !ids.contains x.hdr.collId.toNat)
  let s1 := s.setCol e { k with
    step := val, next := 0, fly := [], past := [], dupLog := [], held := keep, state := if k.count = 0 then 0 else 1 }
  ueBegin (gone.foldl (fun (t : State) x => strayContrib t e x.hdr) s1) e

def execColStep (t : Nat) (who : Requester) (e : Fin 4) (val : W32) (s : State) : Answer := .next (colStepWrite (tick t s) who e val)

/-- COL_CTRL.ABORT (R290). -/
def colAbort (s : State) (who : Requester) (e : Fin 4) : State :=
  if engWriter who && ueOn s e then s.setCol e { s.col e with state := 0, fly := [], next := 0 } else s

def execColCtrlAbort (t : Nat) (who : Requester) (e : Fin 4) (s : State) : Answer := .next (colAbort (tick t s) who e)

/-- Whether every ready word of a descriptor equals COL_STEP (R275). -/
def readyWords (s : State) (p : Fin 8) (d : Bytes) (step : W32) : Bool :=
  (List.range (fieldU d 11 1)).all (fun j => pU32 s p (fieldU d 40 8 + 4 * j) == step.toNat)

/-- COLLECTIVE_START (R274, R275): the next collective of the list starts; what was held for it is used. -/
def execCollectiveStart (t : Nat) (e : Fin 4) (s : State) : Answer :=
  let s1 := tick t s
  let k := s1.col e
  if !ueOn s1 e || !(k.state == 1 || k.state == 2) || decide (2 ≤ k.fly.length) || decide (k.count.toNat ≤ k.next) then .next s1 else
  match enginePart s1 e with
  | none => .next s1
  | some (p, i) =>
    let d := schedDesc s1 p e k.next
    if !readyWords s1 p d k.step then .next s1 else
    let g := geoOf i d
    let u := destUe d
    let c : Coll :=
      { entry := k.next, desc := d, since := s1.now, inp := collInput s1 p g d, mult := pU32 s1 p (s1.ue u).regs.rate.toNat
        got := [], sent := [], given := [] }
    let mine := k.held.filter (fun x => x.hdr.collId.toNat == fieldU d 0 4)
    let s2 := s1.setCol e { k with
      state := 2, next := k.next + 1, fly := k.fly ++ [c], held := k.held.filter (fun x => x.hdr.collId.toNat != fieldU d 0 4) }
    let s3 := mine.foldl (fun (x : State) y =>
      match (x.col e).fly.find? (fun z => z.entry == k.next) with
      | some z => takeContrib x i e z y.port y.hdr y.data y.poi
      | none => x) s2
    .next (pumpAll s3 p i e)

-- Completion (R275, R294)

/-- Every contribution that a collective expects: dimension, chunk, phase, hop (R280). -/
def expectedKeys (g : Geo) : List (Nat × Nat × Nat × Nat) :=
  (g.dims.zipIdx).flatMap (fun x => x.1.chunks.flatMap (fun cid =>
    [0, 1, 2].flatMap (fun ph =>
      let hop := if ph = 0 then x.1.hop cid - 1 else if ph = 1 then x.1.dist (cid / x.1.r) - 1 else x.1.dist g.root - 1
      if decide (1 < x.1.p) && wantsHop g x.2 x.1 cid ph hop then [(x.2, cid, ph, hop)] else [])))

/-- All contributions received, every chunk of the result written or passed on; with DEST = 1, all of its batts applied (R294), and the
update engine not in DISCORD (R304). -/
def Coll.complete (k : Coll) (g : Geo) (s : State) (e : Fin 4) : Bool :=
  let u := s.ue (destUe k.desc)
  let x := u.st
  (expectedKeys g).all (fun q => (k.msg q.1 q.2.1 q.2.2.1 q.2.2.2).isSome) && (resultChunks g).all (fun c => k.given.contains c) &&
    (fieldU k.desc 9 1 % 16 != 1 ||
      (u.regs.state != 3 && !x.inbox.any (fun c => c.col == e && c.entry == k.entry) && !x.dead.contains (e.val, k.entry)))

/-- Semaphores that a descriptor's NOTIFY names: physical cluster and semaphore (R275). -/
def notifyTargets (s : State) (p : Fin 8) (d : Bytes) : List (Fin 64 × Nat) :=
  (List.range 4).filterMap (fun j =>
    let v := fieldU d (48 + 2 * j) 2
    if bitAt v 15 then (physOf s p (bitsAt v 5 6)).map (fun c => (c, v % 32)) else none)

/-- 1 added to a semaphore by a collective engine, as a SIG (R148, R275). -/
def notifySem (s : State) (x : Fin 64 × Nat) : State :=
  let k := s.cl x.1
  let i : Fin 32 := ⟨x.2 % 32, Nat.mod_lt _ (by decide)⟩
  let v := (k.seq.sems.get i).toNat + 1
  let exceeds := decide (0xFFFF < v)
  let s1 := s.setCl x.1 { k with
    seq := { k.seq with sems := vset k.seq.sems i (BitVec.ofNat 16 (min v 0xFFFF)) }, sreg := { k.sreg with semOvf := k.sreg.semOvf || exceeds } }
  if exceeds then clLog s1 x.1 0x7041 (payload [(0, 1, x.2), (4, 4, k.sreg.step.toNat)]) else s1

/-- The end of a collective: counted, out of flight, remembered for repeats; the engine idles after the last of the step. -/
def endColl (s : State) (e : Fin 4) (k : Coll) : State :=
  let c := s.col e
  let fly := c.fly.filter (fun x => x.entry != k.entry)
  let u := destUe k.desc
  let s1 := s.setCol e { c with
    done := c.done + 1, fly := fly
    past := (k.entry, k.got.map (fun m => (m.dim, m.chunk, m.phase, m.hop))) :: c.past
    state := if fly.isEmpty then (if c.count.toNat ≤ c.next then 0 else 1) else c.state }
  if fieldU k.desc 9 1 % 16 = 1 then
    let x := s1.ue u
    s1.setUe u { x with st := { x.st with dones := (e.val, k.entry) :: x.st.dones } }
  else s1

/-- NOTIFY (R275, R294): the oldest collective that is complete sends its SIGs and ends. A target that is off is woken first (R449). -/
def execNotify (t : Nat) (e : Fin 4) (s : State) : Answer :=
  let s1 := tick t s
  match enginePart s1 e with
  | none => .next s1
  | some (p, i) =>
    match (s1.col e).fly.find? (fun k => k.complete (geoOf i k.desc) s1 e) with
    | none => .next s1
    | some k =>
      let ts := notifyTargets s1 p k.desc
      if ts.all (fun x => clOn s1 x.1) then .next (endColl (ts.foldl notifySem s1) e k)
      else .next (ts.foldl (fun (u : State) x => wakeLate u x.1 (s1.col e).step.toNat) s1)

/-- COLL_TIMEOUT (R282, R409, R415): a collective that lacks a contribution has received none for TIMEOUT µs. -/
def execCollTimeout (t : Nat) (e : Fin 4) (s : State) : Answer :=
  let s1 := tick t s
  let k := s1.col e
  match enginePart s1 e with
  | none => .next s1
  | some (p, i) =>
    let late (x : Coll) : Bool := elapsed s1.now x.since (k.timeout.toNat * 1000) &&
      (expectedKeys (geoOf i x.desc)).any (fun q => (x.msg q.1 q.2.1 q.2.2.1 q.2.2.2).isNone)
    match k.fly.find? late with
    | none => .next s1
    | some x =>
      let oldest := match k.fly with | y :: _ => y.entry | [] => x.entry
      let s2 := setColErr (s1.setCol e { k with state := 3, fly := [], aborted := oldest }) e 3
      let s3 := logCol s2 e 0x5023 (payload [(4, 4, fieldU x.desc 0 4), (12, 4, k.step.toNat)])
      let w := (s3.slot p).twin
      if w.timedOut && twinned s3 p then .next (waitRejoin s3 p)
      else .next (raiseRecovery (setTwin s3 p { w with timedOut := true }) p 3 (stepNow s3 p))

end Sys2Proof.Machine
end

