-- ==== Sys2Proof/Machine/BootOps.lean ====
section
/-! DEFINITION. What start-up shares between its commands (chapter 12): the bundle's checks and measurement, which FW_COMMIT makes too, the
stages, and the network loader's retries. -/

namespace Sys2Proof.Machine

/-- Capacity of the transient allowance in nJ: (3,300 W - cap) x 5 ms (R21, R451); 0 without a valid class. -/
def bucketCap (cool : BitVec 2) : Nat :=
  match cool.toNat with
  | 0 => 10500000000
  | 1 => 7000000000
  | 2 => 3500000000
  | _ => 0

-- The firmware bundle (R325 to R328)

/-- Offset and size of the bundle staging area in the control SRAM (R321). -/
def stageOff : Nat := 0x400000
def stageLen : Nat := 0x400000

/-- The first n bytes of the staging area. -/
def staged (s : State) (n : Nat) : Bytes := s.ctl.read stageOff n

/-- The staging area emptied (R341, R388). -/
def clearStage (s : State) : State :=
  { s with ctl := { s.ctl with cells := s.ctl.cells.filter (fun c => !(decide (stageOff ≤ c.1) && decide (c.1 < stageOff + stageLen))) } }

/-- Section entries of a bundle. -/
def bundleSecs (b : Bytes) : List Bytes := (List.range (fieldU b 6 2)).map (fun i => sliceB b (64 + 64 * i) 64)

def secType (e : Bytes) : Nat := fieldU e 0 1
def secData (b e : Bytes) : Bytes := sliceB b (fieldU e 4 4) (fieldU e 8 4)

def bundleSec (b : Bytes) (typ : Nat) : Option Bytes := (bundleSecs b).find? (fun e => secType e == typ)

/-- The data of the section of a type; no bytes where it is missing. -/
def bundleData (b : Bytes) (typ : Nat) : Bytes :=
  match bundleSec b typ with
  | some e => secData b e
  | none => []

def bundleSigOff (b : Bytes) : Nat := fieldU b 12 4
def bundleSvn (b : Bytes) : Nat := fieldU b 16 4

/-- The digest that both signatures cover (R325). -/
def bundleDigest (b : Bytes) : Bytes := sha384 (b.take (bundleSigOff b))

/-- A section entry breaks a rule of R325 to R327. -/
def secBad (b e : Bytes) (hostPkgs : Nat) (hostBytes : Nat) : Bool :=
  let n := fieldU b 6 2
  let off := fieldU e 4 4
  let size := fieldU e 8 4
  let load := fieldU e 16 8
  let t := secType e
  t == 0 || decide (6 < t) || off % 64 != 0 || decide (off < 64 + 64 * n) || decide (bundleSigOff b < off + size) ||
    (sha384 (secData b e)).take 40 != sliceB e 24 40 ||
    (t != 5 && load != 0) || (t == 5 && (load % 4096 != 0 || decide (load < 0x1000) || decide (hostBytes < load + size))) ||
    ((t == 3 || t == 4) && decide (0x80000 < size)) || (t == 6 && (size != 8 || hostPkgs == 0))

/-- HOST_MEM enables parity only in groups whose 12 channels all belong to host packages (R242, R327). A parity group spans channels 12m to
12m + 11, a package eight. -/
def hostParityBad (pkgs parity : Nat) : Bool :=
  (List.range 16).any (fun m => bitAt parity m && (List.range 12).any (fun i => !bitAt pkgs ((12 * m + i) / 8)))

/-- The checks of R327 in one: 0 accepted, 6 BUNDLE_REJECT, 7 SVN_REJECT (R340). Fields that R325 shows as 0 are ignored (R538). -/
def bundleCheck (b : Bytes) (v : SigVerdict) (floor : Nat) : Nat :=
  let secs := bundleSecs b
  let hm := bundleData b 6
  let pkgs := fieldU hm 0 3
  let parity := fieldU hm 4 3
  let host := (dataChans pkgs parity).length * 2 ^ 34
  let n := fieldU b 6 2
  if fieldU b 0 4 ≠ 0x5746594B ∨ fieldU b 4 2 ≠ 1 ∨ n = 0 ∨ 15 < n ∨ fieldU b 8 4 ≠ b.length ∨ stageLen < b.length ∨
      bundleSigOff b % 64 ≠ 0 ∨ bundleSigOff b < 64 + 64 * n ∨ b.length < bundleSigOff b + 96 then 6
  else if secs.any (fun e => secBad b e pkgs host) then 6
  else if (List.range 6).any (fun i => (secs.filter (fun e => secType e == i + 1)).length != 1) then 6
  else if hostParityBad pkgs parity then 6
  else if !v.ecdsaOk || !v.hssOk then 6
  else if bundleSvn b < floor then 7
  else 0

/-- The firmware floor of the accepted owner record (R476); 0 on an unowned package. -/
def fwFloor (s : State) : Nat :=
  match s.sec.owner with
  | some o => fieldU o 8 4
  | none => 0

/-- An extend register (R473). -/
def extend (m d : Bytes) : Bytes := sha384 (m ++ d)

/-- An accepted bundle measured into index 2: its signed digest with its SVN (R328, R473). DEDUCED (log entry 12): the two are hashed together. -/
def measureBundle (s : State) (b : Bytes) : State :=
  { s with sec := { s.sec with meas2 := extend s.sec.meas2 (sha384 (bundleDigest b ++ natLe 4 (bundleSvn b))) } }

/-- A section copied to a resident copy in the control SRAM (R321). -/
def copyResident (s : State) (off : Nat) (b : Bytes) : State := devWrite s (ctlBase + off) b false

-- The network loader (R323, R324)

/-- The TFTP read request with its options (R324). -/
def tftpRequest (file : Bytes) : Bytes :=
  [0, 1] ++ file ++ [0] ++ ascii "octet" ++ [0] ++ ascii "blksize" ++ [0] ++ ascii "8192" ++ [0] ++ ascii "windowsize" ++ [0] ++ ascii "16" ++ [0] ++
    ascii "tsize" ++ [0] ++ ascii "0" ++ [0]

/-- An ACK of a block. -/
def sendAck (s : State) (block : Nat) : State :=
  emit { s with boot := { s.boot with ackAt := s.now } } .udp 69 ([0, 4] ++ natBe 2 block)

/-- A DHCPDISCOVER leaves while the link is up (R323). Of its bytes, which RFC 2131 gives, the client's firmware MAC address and the vendor
class identifier are shown. -/
def discover (s : State) : State :=
  let s1 := { s with boot := { s.boot with askedAt := s.now } }
  if s1.net.link then emit s1 .udp 67 (sliceB s.sec.flash.part 24 6 ++ ascii "Skezel-KY7") else s1

/-- Stage 3 begins: MGT is powered and DHCP runs once the link is up. -/
def startNet (s : State) : State :=
  let s1 := enterStage (setOn s 91 true) 3
  discover { s1 with boot := { s1.boot with discover := 0, lease := none, retryAt := none, blk := 0, next := 0, got := 0, resends := 0, expired := false } }

/-- The boot server of a DHCPACK: option 66, or siaddr where it is absent (R323). -/
def bootServer (a : DhcpServer) : BitVec 32 :=
  match a.opt66 with
  | some x => x
  | none => a.siaddr

/-- A fetch of the file of option 67 begins (R323, R324): the staging area is empty and the read request leaves. -/
def startFetch (s : State) (ip : BitVec 32) (server : DhcpServer) (file : Bytes) : State :=
  let s1 := enterStage (clearStage s) 4
  let a := s1.boot.attempt
  emit { s1 with boot := { s1.boot with
    lease := some (ip, bootServer server, file), attempt := if a = 0xFF then 0xFF else a + 1, blk := 0, next := 1, got := 0, ackAt := s1.now, resends := 0 } }
    .udp 69 (tftpRequest file)

/-- A failed fetch (R324, R339, R340): tried again from DHCP after 2 s. -/
def fetchFail (s : State) : State :=
  let s1 := bootFail s 5 (some 0xE005) (payload []) false
  alertEdge s { s1 with boot := { s1.boot with failed := s1.boot.failed + 1, retryAt := some (s1.now + 2000000000) } }

/-- A rejected bundle (R340): tried again after 10 s. -/
def rejectBundle (s : State) (code : Nat) : State :=
  let s1 := bootFail s code (some (0xE000 + code)) (payload []) false
  { s1 with boot := { s1.boot with retryAt := some (s1.now + 10000000000) } }

/-- Stage 6 (R320, R326, R330, R437, R500): FWC and the fabric clock start, the resident copies are made, each core has its code, the host range exists and its groups
are to be powered, and the meter's tags are cleared. -/
def startFw (s : State) (b : Bytes) : State :=
  let hm := bundleData b 6
  let s1 := enterStage (setOn s 90 true) 6
  let s2 := { s1 with
    clk := { s1.clk with run := s1.clk.run.set 2 true }
    boot := { s1.boot with svn := BitVec.ofNat 32 (bundleSvn b), hostMem := hm } }
  let s3 := copyResident (copyResident s2 0x300000 (bundleData b 3)) 0x380000 (bundleData b 4)
  let sc := { s3 with
    sched := { s3.sched with code := residentCode s3 0x300000 }
    boot := { s3.boot with secCode := bundleData b 1, pmcCode := bundleData b 2 } }
  let s4 := setOwnerRange sc 8 (some { base := 0, chans := dataChans (fieldU hm 0 3) (fieldU hm 4 3), key := none })
  let s5 := (pkgGroups (fieldU hm 0 3)).foldl (fun (t : State) g => wantOn t (68 + g.val)) s4
  (List.finRange 8).foldl (fun (t : State) p => meterTag t p 0) s5

/-- DHCP is repeated once the fetch is complete, where the lease expired during it (R341). -/
def afterFetch (s : State) : State :=
  if s.boot.expired then discover { s with boot := { s.boot with expired := false, lease := none } } else s

/-- Stage 5 (R327 to R329): the fetched bundle is checked, measured, and stage 6 begins; or it is rejected. -/
def verifyBundle (s : State) (v : SigVerdict) : State :=
  let s1 := enterStage (afterFetch { s with boot := { s.boot with failed := 0 } }) 5
  let b := staged s1 s1.boot.got
  let code := bundleCheck b v (fwFloor s1)
  if code = 0 then startFw (measureBundle s1 b) b else rejectBundle s1 code

end Sys2Proof.Machine
end

