-- ==== Sys2Proof/Machine/Metering.lean ====
section
/-! DEFINITION. The sealed energy meter (chapter 19: R490 to R505): the meter die's records and requests, and the record window. -/

namespace Sys2Proof.Machine

def setDie (s : State) (d : MeterDie) : State := { s with meter := { s.meter with die := d } }
def setWin (s : State) (w : MeterWin) : State := { s with meter := { s.meter with win := w } }

-- Records (R494 to R497)

/-- Bytes 0 to 127 of a record: the header and a body given by fields at record offsets. -/
def meterHead (kind flags : Nat) (seq : Nat) (body : List (Nat × Bytes)) : Bytes :=
  let h := natLe 4 0x524D594B ++ natLe 2 1 ++ natLe 1 kind ++ natLe 1 flags ++ natLe 8 seq ++ zeroB 112
  body.foldl (fun (b : Bytes) x => patchB b x.1 x.2) h

/-- A record sent on the record channel. -/
def sendRecord (s : State) (r : Bytes) : State := setDie s { s.meter.die with sent := s.meter.die.sent ++ [r] }

/-- A response record with a signature of free bytes. -/
def sendResponse (s : State) (kind : Nat) (body : List (Nat × Bytes)) : State :=
  let f := s.fresh
  sendRecord f.2 (meterHead kind 0 s.meter.die.seq.toNat body ++ (List.range 96).map (Config.responseByte f.1))

def meterBytes (off n : Nat) : Bytes := (span off n).map Config.meterByte

/-- The software identification (R493). -/
def swid : Bytes := sliceB (ascii "KYMET 1.00") 0 12

/-- Seconds since the meter powered up (R497). -/
def meterSeconds (s : State) : Nat := (((s.now : Int) - s.meter.die.upAt) / 1000000000).toNat

/-- ENERGY (R495, R496): the interval's record is sent, and the tags accepted in it take effect for the next interval (R499). -/
def execEnergy (t : Nat) (uj peakMw : BitVec 32) (railFault : Bool) (sig : Bytes) (s0 : State) : Answer :=
  let s := tick t s0
  let d := s.meter.die
  if !d.powered then .next s else
  let seq := d.seq + 1
  let b (x : Bool) (i : Nat) : Nat := if x then 2 ^ i else 0
  let flags := b d.first 0 + b (decide (3300000 < uj.toNat) || decide (3300000 < peakMw.toNat)) 1 + b railFault 2 + b (d.checking || d.checked) 3 +
    b (d.result != 0) 4 + b d.changed 5
  let r := meterHead 1 flags seq.toNat
    [(16, natLe 4 uj.toNat), (20, natLe 4 peakMw.toNat), (24, natLe 4 d.tagSeq.toNat),
     (32, d.tags.toList.flatMap (fun (x : W64) => natLe 8 x.toNat)),
     (96, match d.prev with | some p => p | none => zeroB 16)] ++ sliceB sig 0 96
  let d1 : MeterDie := { d with
    seq := seq, first := false, prev := some ((sha384 r).take 16), checked := d.checking
    tags := d.newTags.foldl (fun (v : Vector W64 8) x => vset v x.1 x.2) d.tags
    tagSeq := d.tagSeq + BitVec.ofNat 32 d.newTags.length, changed := !d.newTags.isEmpty, newTags := [], sent := d.sent ++ [r] }
  .next (setDie s d1)

/-- METER_POWER_UP (R495, R501): the next SEQ exceeds every earlier one by an amount that the reserved numbers decide, and a self-check begins. -/
def execMeterPowerUp (t : Nat) (s0 : State) : Answer :=
  let s := tick t s0
  let d := s.meter.die
  if d.powered then .next s else
  let f := s.fresh
  let room := 2 ^ 64 - 1 - d.seq.toNat
  let skip := if room = 0 then 0 else (Config.freeWord f.1).toNat % room
  .next (setDie f.2 { MeterDie.made with
    powered := true, seq := d.seq + BitVec.ofNat 64 skip, checking := true, checked := true, upAt := (s.now : Int) })

-- Requests (R499 to R505)

/-- Who may send a command (R503). -/
def meterMay (who : Requester) (cmd : Nat) : Bool :=
  match who with
  | .sched => decide (1 ≤ cmd) && decide (cmd ≤ 4)
  | .app _ => cmd == 1 || cmd == 3 || cmd == 4
  | _ => false

/-- A write of MTR_REQ: no effect while PEND is 1. -/
def meterReq (s : State) (who : Requester) (cmd : Nat) (p : Fin 8) : State :=
  if s.meter.win.pend.isSome || !meterMay who cmd then s
  else setWin s { s.meter.win with pend := some (BitVec.ofNat 8 cmd, p, s.meter.win.arg) }

/-- A self-check that the meter refuses: one is under way, or the previous one ended within 60 s (R501). -/
def checkBusy (s : State) : Bool :=
  s.meter.die.checking || (match s.meter.die.checkAt with
    | some x => decide ((s.now : Int) < x + 60000000000)
    | none => false)

/-- What the meter does with a command that it has accepted. -/
def meterServe (s : State) (cmd : Nat) (p : Fin 8) (ticket : W64) : State :=
  let d := s.meter.die
  if cmd = 1 then
    sendResponse (sendResponse s 2 [(16, meterBytes 0 104)]) 3 [(16, swid), (28, natLe 4 0x5E1CA7D2), (32, meterBytes 104 96)]
  else if cmd = 2 then meterTag s p ticket
  else if cmd = 3 then
    let f := s.fresh
    sendResponse f.2 4 [(16, natLe 4 (meterSeconds s)), (20, [Config.responseByte f.1 0, Config.responseByte f.1 1]), (22, [d.result]),
      (24, natLe 8 d.discards.toNat)]
  else if checkBusy s then sendResponse s 5 [(16, [d.result]), (17, [d.rails]), (18, [1])]
  else setDie s { d with checking := true, checked := true }

/-- The meter accepts the pending request, where it is the named command and the meter has power. -/
def meterAccept (s : State) (cmd : Nat) : State :=
  match s.meter.win.pend with
  | none => s
  | some x => if x.1.toNat = cmd ∧ s.meter.die.powered = true then meterServe (setWin s { s.meter.win with pend := none }) cmd x.2.1 x.2.2 else s

def execIdent (t : Nat) (who : Requester) (s : State) : Answer := .next (meterAccept (meterReq (tick t s) who 1 0) 1)
def execSetTag (t : Nat) (who : Requester) (p : Fin 8) (s : State) : Answer := .next (meterAccept (meterReq (tick t s) who 2 p) 2)
def execReadStatus (t : Nat) (who : Requester) (s : State) : Answer := .next (meterAccept (meterReq (tick t s) who 3 0) 3)
def execSelfCheck (t : Nat) (who : Requester) (s : State) : Answer := .next (meterAccept (meterReq (tick t s) who 4 0) 4)

-- Self-checks (R501)

def execPeriodicSelfCheck (t : Nat) (s0 : State) : Answer :=
  let s := tick t s0
  let d := s.meter.die
  if d.powered && !d.checking then .next (setDie s { d with checking := true, checked := true }) else .next s

/-- CHECK: a self-check ends with its RESULT and the bitmap of rails that failed. -/
def execCheck (t : Nat) (result rails : BitVec 8) (s0 : State) : Answer :=
  let s := tick t s0
  let d := s.meter.die
  if !d.checking then .next s else
  let s1 := setDie s { d with checking := false, result := result &&& 0xF, rails := rails &&& 0x3F, checkAt := some (s.now : Int) }
  .next (sendResponse s1 5 [(16, [result &&& 0xF]), (17, [rails &&& 0x3F])])

-- The record window (R498, R502 to R504)

/-- The slot that a record is stored in: the record, CLK_TIME at receipt, zeros. -/
def slotBytes (s : State) (r : Bytes) : Bytes := sliceB r 0 224 ++ natLe 8 s.clk.time.toNat ++ zeroB 24

/-- An ENERGY record is stored: gaps, RESTART and FAULT are noted (R502, R504). -/
def storeEnergy (s : State) (r : Bytes) : State :=
  let w := s.meter.win
  let seq := fieldU r 8 8
  let flags := fieldU r 7 1
  let want := (w.head + 1).toNat
  let gap := w.any && seq != want
  let w1 : MeterWin := { w with
    ring := alPut w.ring (seq % 32768) (some (slotBytes s r)), head := BitVec.ofNat 64 seq, any := true
    gaps := if gap then w.gaps + (BitVec.ofNat 64 seq - BitVec.ofNat 64 want) else w.gaps
    restart := w.restart || bitAt flags 0, fault := bitAt flags 4, chk := bitAt flags 3 }
  let s1 := setWin s w1
  let s2 := if gap then logEv s1 0x0500 0xA004 15 (payload [(0, 8, want), (8, 8, seq)]) else s1
  let s3 := if bitAt flags 0 then logEv s2 0x0500 0xA001 15 (payload [(0, 8, seq)]) else s2
  if bitAt flags 4 && !w.fault then logEv s3 0x0500 0xA002 15 (payload [(0, 1, s.meter.die.result.toNat)]) else s3

/-- METER_RECORD: the next record on the channel arrives; before CFB is up it is not stored. -/
def execMeterRecord (t : Nat) (s0 : State) : Answer :=
  let s := tick t s0
  match s.meter.die.sent with
  | [] => .next s
  | r :: rest =>
    let s1 := setDie s { s.meter.die with sent := rest }
    if !domOn s1 94 then .next s1 else
    let s2 := setWin s1 { s1.meter.win with live := true, lastAt := s1.now, silent := false }
    let kind := fieldU r 6 1
    if h : 2 ≤ kind ∧ kind < 6 then
      .next (setWin s2 { s2.meter.win with resp := vset s2.meter.win.resp ⟨kind - 2, by omega⟩ (slotBytes s2 r) })
    else .next (storeEnergy s2 r)

/-- METER_SILENT: no record for 10 ms. -/
def execMeterSilent (t : Nat) (s0 : State) : Answer :=
  let s := tick t s0
  let w := s.meter.win
  if domOn s 92 && !w.silent && elapsed s.now w.lastAt 10000000 then
    .next (logEv (setWin s { w with live := false, silent := true }) 0x0500 0xA003 15 (payload []))
  else .next s

end Sys2Proof.Machine
end

