-- ==== Sys2Proof/Machine/Brim.lean ====
section
/-! DEFINITION. The commands of a brim port (chapter 10): training, attestation, flits, retraining, keys, and the timebase (R441). -/

namespace Sys2Proof.Machine

-- Lanes (R267)

/-- Width code that a set of good lanes allows: 3 eight lanes, 2 four, 1 two, 0 none. -/
def laneWidth (l : BitVec 8) : Nat :=
  if l = 0xFF then 3
  else if l &&& 0x0F = 0x0F ∨ l &&& 0xF0 = 0xF0 then 2
  else if l &&& 0x03 = 0x03 ∨ l &&& 0x0C = 0x0C ∨ l &&& 0x30 = 0x30 ∨ l &&& 0xC0 = 0xC0 then 1
  else 0

/-- Lanes of a width code. -/
def widthLanes : Nat → Nat
  | 3 => 8
  | 2 => 4
  | 1 => 2
  | _ => 0

/-- Whether a requester may write the BRM_ registers (R285). -/
def brmWriter : Requester → Bool
  | .sched | .sec | .loader => true
  | _ => false

/-- A port that its image declares, that is enabled and whose domain is on begins to train (R268). -/
def startPort (s : State) (q : Fin 16) : State :=
  let k := s.port q
  if lgOn s q && (portDecl s q).isSome && !k.disable && k.state == 0 then s.setPort q { k with state := 1, fails := 0, failAt := s.now } else s

/-- In ATTEST the SPDM exchange begins (R269), unless an alarm stops all signing (R475). -/
def startAttest (s : State) (q : Fin 16) : State := if alarmLevel s = 0 then sendSpdm s q else s

/-- The outcome of one initial training (R261, R268): ATTEST, or FAILED at the third failure. -/
def initialTrain (s : State) (q : Fin 16) (lanes : BitVec 8) (reversed : Bool) : State :=
  let k := s.port q
  let w := laneWidth lanes
  if w = 0 then
    let k1 := { k with laneOk := lanes, width := 0, fails := k.fails + 1, failAt := s.now }
    if 3 ≤ k1.fails then s.setPort q { k1 with state := 6, err := k1.err ||| 0x20 } else s.setPort q k1
  else startAttest (s.setPort q { k with state := 2, width := BitVec.ofNat 2 w, laneOk := lanes, reversed := reversed, fails := 0 }) q

/-- LINK_TRAIN: the first training of a port in TRAIN. -/
def execLinkTrain (t : Nat) (p : Fin 16) (lanes : BitVec 8) (reversed : Bool) (s : State) : Answer :=
  let s1 := startPort (tick t s) p
  let k := s1.port p
  if k.state = 1 ∧ k.fails = 0 then .next (initialTrain s1 p lanes reversed) else .next s1

/-- TRAIN_RETRY: a further training, 100 ms after a failed one (R268). -/
def execTrainRetry (t : Nat) (p : Fin 16) (lanes : BitVec 8) (reversed : Bool) (s : State) : Answer :=
  let s1 := tick t s
  let k := s1.port p
  if k.state = 1 ∧ 0 < k.fails ∧ elapsed s1.now k.failAt 100000000 = true then .next (initialTrain s1 p lanes reversed) else .next s1

/-- A port enters DENIED with an error bit and its event (R270). -/
def denyPort (s : State) (q : Fin 16) (bit : Nat) (event : Nat) (part : Nat) : State :=
  let k := s.port q
  logEv (s.setPort q { k with state := 5, err := k.err ||| BitVec.ofNat 8 (2 ^ bit) }) (0x0200 + q.val) event part (payload [(0, 1, q.val)])

/-- The reference recovered from a port becomes READY, or is lost (R434). -/
def setRecovered (s : State) (link : Bytes) (on : Bool) : State :=
  let c := fieldU link 5 1
  { s with clk := { s.clk with
    readyP := if bitAt c 0 then on else s.clk.readyP, readyA := if bitAt c 1 then on else s.clk.readyA } }

/-- HELLO with the own fingerprint, when a twin port first reaches UP (R399). -/
def sendHello (s : State) (p : Fin 8) (q : Fin 16) : State :=
  let w := (s.slot p).twin
  if roleOf s p q = 2 ∧ !w.helloOn.contains q.val then
    match (s.slot p).img with
    | none => s
    | some i => sendTwin (setTwin s p { w with helloOn := nsSet w.helloOn q.val true }) [q] (twinData 1 p [] i.finger)
  else s

/-- The port enters UP with a fresh session: sequence numbers and credits begin anew, and each direction takes a key and a salt (R265,
R269). -/
def portUp (s : State) (q : Fin 16) (p : Fin 8) (link : Bytes) : State :=
  let k := s.port q
  let s1 := s.setPort q { k with state := 3, keyTx := false, keyRx := false }
  let f := s1.fresh
  let g := f.2.fresh
  let s2 := g.2.setLink q { LinkL.reset with keyAt := s.now, rxKeyAt := s.now, txKey := newFlitKey f.1, rxKey := newFlitKey g.1 }
  let s3 := setRecovered s2 link true
  sendHello s3 p q

/-- ATTEST (R269, R270, R272, R474): the SPDM exchange has completed. While an alarm is in effect no signing takes place (R475), so
none completes. -/
def execAttest (t : Nat) (p : Fin 16) (r : AttestResult) (s : State) : Answer :=
  let s1 := tick t s
  let k := s1.port p
  if k.state ≠ 2 ∨ alarmLevel s1 ≠ 0 then .next s1 else
  match portDecl s1 p with
  | none => .next s1
  | some (o, link) =>
    if !r.authOk then .next (authFailure (denyPort s1 p 6 0x5004 o.val)) else
    let s2 := s1.setPort p { k with peerPkg := r.peerPkg, peerPort := r.peerPort }
    if !r.sameOwner then .next (denyPort s2 p 6 0x5004 o.val)
    else if r.domain.toNat ≠ fieldU link 8 8 ∨ pkgId r.peerPkg.toNat ≠ pkgId (fieldU link 2 2) ∨ r.peerPort.toNat ≠ fieldU link 4 1 then
      .next (denyPort s2 p 7 0x5005 o.val)
    else .next (portUp s2 p o link)

-- Flits (R263 to R266)

/-- x lies below y in a 48-bit sequence, within half its range. -/
def seqBelow (x y : Nat) : Bool := let d := (y + 2 ^ 48 - x % 2 ^ 48) % 2 ^ 48; decide (0 < d ∧ d < 2 ^ 47)

/-- A NAK with ACK = E, once per E; it waits while the replay buffer has no room. -/
def sendNak (s : State) (q : Fin 16) : State :=
  let k := s.link q
  if k.nakFor = some k.rxSeq then s
  else sendFlit (s.setLink q { k with nakFor := some k.rxSeq }) q { typ := 1, vc := 0, poison := 0, data := zeroB 224 }

/-- A flit that a check has failed: its error bit, and a NAK. -/
def badFlit (s : State) (q : Fin 16) (bit : Nat) : State :=
  let k := s.port q
  sendNak (s.setPort q { k with err := k.err ||| BitVec.ofNat 8 (2 ^ bit) }) q

/-- ACK and CREDIT of an accepted flit, and what they allow to be sent (R263, R265, R266). -/
def takeAck (s : State) (q : Fin 16) (f : Flit) : State :=
  let k := s.link q
  let buffers := [128, 1536, 384]
  let granted := if h : f.cvc.toNat < 3 then
      let i : Fin 3 := ⟨f.cvc.toNat, h⟩
      let freed := k.granted.get i - buffers.getD i.val 0
      vset k.granted i (k.granted.get i + (f.credit.toNat + 2 ^ 14 - freed % 2 ^ 14) % 2 ^ 14)
    else k.granted
  drainFlits (s.setLink q { k with
    replay := k.replay.filter (fun x => !seqBelow x.seq f.ack), granted := granted
    oldTx := k.oldTx.filter (fun x => !(x.2 == f.ack || seqBelow x.2 f.ack)) }) q

/-- The flit with SEQ = E is delivered: E advances, and its buffer is freed, for a COLL flit unless the staging store is full (R280). -/
def deliverFlit (s : State) (q : Fin 16) (f : Flit) : State :=
  let k := s.link q
  let p := s.port q
  let held : Bool := f.typ == 5 && stagingFull s q
  let freed := if h : f.vc.toNat < 3 ∧ 2 ≤ f.typ.toNat ∧ held = false then
    vset k.freed ⟨f.vc.toNat, h.1⟩ (k.freed.get ⟨f.vc.toNat, h.1⟩ + 1) else k.freed
  let s1 := s.setLink q { k with
    rxSeq := (k.rxSeq + 1) % 2 ^ 48, nakFor := none, freed := freed, owed := k.owed + (if held then 1 else 0)
    unacked := k.unacked || decide (2 ≤ f.typ.toNat) }
  sendIdle (takeAck (s1.setPort q { p with rxFlits := p.rxFlits + 1, keyRx := f.key }) q f) q

/-- A tag failure with a good CRC (R266, R270): eight within 1 ms put the port into DENIED. -/
def tagFailure (s : State) (q : Fin 16) : State :=
  let k := s.link q
  let l := s.now :: k.tagFails.filter (fun x => !elapsed s.now x 1000000)
  let s1 := badFlit (s.setLink q { k with tagFails := l }) q 1
  if 8 ≤ l.length then authFailure ((s1.setPort q { s1.port q with state := 5, leftUp := s.now }).setLink q { s1.link q with tagFails := [] }) else s1

/-- FLIT_RECEIVE (R263 to R266): checks in order CRC, TYPE, tag; then the sequence number. What a delivered message brings about is a
command of its own. -/
def execFlitReceive (t : Nat) (p : Fin 16) (f : Flit) (crcOk : Bool) (tagOk : Bool) (s : State) : Answer :=
  let s1 := tick t s
  let k := s1.port p
  let l := s1.link p
  if k.state ≠ 2 ∧ k.state ≠ 3 then .next s1
  else if !crcOk || decide (7 ≤ f.typ.toNat) then .next (badFlit s1 p 0)
  else if k.state = 3 ∧ tagOk = false then .next (tagFailure s1 p)
  else if f.seq % 2 ^ 48 = l.rxSeq then .next (deliverFlit s1 p f)
  else if seqBelow f.seq l.rxSeq then .next (s1.setPort p { k with dups := k.dups + 1 })
  else .next (sendNak s1 p)

/-- NAK (R266, R288): every flit from SEQ = ACK onward is sent again, in order, with its first bits. -/
def execNak (t : Nat) (p : Fin 16) (ack : Nat) (s : State) : Answer :=
  let s1 := tick t s
  let k := s1.port p
  if k.state ≠ 2 ∧ k.state ≠ 3 then .next s1 else
  let l := s1.link p
  let again := l.replay.filter (fun x => !seqBelow x.seq ack)
  let count := if l.resent.1 = ack then l.resent.2 + 1 else 1
  let s2 := s1.setLink p { l with replay := again, resent := if again.isEmpty then l.resent else (ack, count) }
  let s3 := s2.setPort p { k with replays := k.replays + 1, txFlits := k.txFlits + BitVec.ofNat 64 again.length }
  .next (drainFlits (again.foldl (fun (u : State) x => emit u .flit p.val x.bytes) s3) p)

-- Retraining (R267)

/-- The end of a retrain: UP at a width not above the previous one unless all lanes were offered, or FAILED. -/
def endRetrain (s : State) (q : Fin 16) (lanes : BitVec 8) : State :=
  let k := s.port q
  let part := match portDecl s q with | some (p, _) => p.val | none => 15
  let w := if k.allLanes then laneWidth lanes else Nat.min (laneWidth lanes) k.width.toNat
  let k1 := { k with err := k.err ||| 0x08, laneOk := lanes, allLanes := false, width := BitVec.ofNat 2 w }
  if w = 0 then
    let s1 := (s.setPort q { k1 with state := 6, err := k1.err ||| 0x20, leftUp := s.now }).setLink q { s.link q with replay := [], waiting := [] }
    logEv s1 (0x0200 + q.val) 0x5001 part (payload [(0, 1, q.val)])
  else
    let s1 := (s.setPort q { k1 with state := 3 }).setLink q { s.link q with resent := (0, 0) }
    let s2 := if w < k.width.toNat then
        logEv (s1.setPort q { s1.port q with err := (s1.port q).err ||| 0x10 }) (0x0200 + q.val) 0x5002 part
          (payload [(0, 1, q.val), (1, 1, widthLanes w)])
      else s1
    drainFlits s2 q

/-- Uncorrectable FEC codewords are counted in every state in which the lanes run (R287, R288). -/
def countFec (s : State) (q : Fin 16) (why : RetrainTrigger) : State :=
  let k := s.port q
  match why with
  | .fec n =>
    if n = 0 ∨ k.state = 0 ∨ k.state = 6 then s else s.setPort q { k with fec := k.fec + BitVec.ofNat 64 n, err := k.err ||| 0x04 }
  | .resends | .blockLock | .register => s

/-- RETRAIN: a trigger of an UP port, with the lanes that train; or the end of a retrain that a register write began. -/
def execRetrain (t : Nat) (p : Fin 16) (why : RetrainTrigger) (lanes : BitVec 8) (s : State) : Answer :=
  let s1 := countFec (tick t s) p why
  let k := s1.port p
  if k.state = 4 then .next (endRetrain s1 p lanes)
  else if k.state ≠ 3 then .next s1
  else match why with
    | .resends => if 16 ≤ (s1.link p).resent.2 then .next (endRetrain s1 p lanes) else .next s1
    | .fec n => if 1000 < n then .next (endRetrain s1 p lanes) else .next s1
    | .blockLock => .next (endRetrain s1 p lanes)
    | .register => .next s1

/-- KEY_UPDATE (R271): a direction takes a new key after 2^40 flits or 24 hours; KEY toggles with the flits sent under it, and the old
key is kept until an ACK covers every flit sent under it. -/
def execKeyUpdate (t : Nat) (p : Fin 16) (transmit : Bool) (s : State) : Answer :=
  let s1 := tick t s
  let k := s1.port p
  let l := s1.link p
  if k.state ≠ 3 then .next s1
  else if transmit then
    if 2 ^ 40 ≤ l.keyFlits ∨ elapsed s1.now l.keyAt 86400000000000 = true then
      let f := s1.fresh
      .next ((f.2.setPort p { k with keyTx := !k.keyTx }).setLink p { l with
        keyFlits := 0, keyAt := s1.now, txKey := newFlitKey f.1, oldTx := l.oldTx ++ [(l.txKey, l.txSeq)] })
    else .next s1
  else
    let f := s1.fresh
    .next (f.2.setLink p { l with rxKeyAt := s1.now, rxKey := newFlitKey f.1 })

/-- BRM_CTRL.RETRAIN (R267, R268, R287). -/
def brmRetrain (s : State) (who : Requester) (q : Fin 16) : State :=
  let k := s.port q
  if !brmWriter who || !lgOn s q then s
  else if k.state = 3 then s.setPort q { k with state := 4, allLanes := false, leftUp := s.now }
  else if k.state = 5 ∨ k.state = 6 then
    (s.setPort q { k with state := 1, width := 0, fails := 0, failAt := s.now }).setLink q LinkL.reset
  else s

/-- BRM_CTRL.FULL_WIDTH (R267). -/
def brmFullWidth (s : State) (who : Requester) (q : Fin 16) : State :=
  let k := s.port q
  if brmWriter who && lgOn s q && k.state == 3 then s.setPort q { k with state := 4, allLanes := true, leftUp := s.now } else s

/-- BRM_CTRL.DISABLE (R268, R287): the port is held OFF, or trains when it is declared. -/
def brmDisable (s : State) (who : Requester) (q : Fin 16) (value : Bool) : State :=
  let k := s.port q
  if !brmWriter who || !lgOn s q then s
  else if value then
    let s1 := (s.setPort q { k with disable := true, state := 0, width := 0, leftUp := s.now }).setLink q LinkL.reset
    match portDecl s1 q with
    | some (_, link) => setRecovered s1 link false
    | none => s1
  else startPort (s.setPort q { k with disable := false }) q

def execBrmCtrlRetrain (t : Nat) (who : Requester) (p : Fin 16) (s : State) : Answer := .next (brmRetrain (tick t s) who p)

def execBrmCtrlFullWidth (t : Nat) (who : Requester) (p : Fin 16) (s : State) : Answer := .next (brmFullWidth (tick t s) who p)

def execBrmCtrlDisable (t : Nat) (who : Requester) (p : Fin 16) (value : Bool) (s : State) : Answer :=
  .next (brmDisable (tick t s) who p value)

-- Timebase (R441)

/-- The primary clock-recovery port that a loaded image declares. -/
def primaryPort (s : State) : Option (Fin 16) :=
  (List.finRange 16).find? (fun q => match portDecl s q with
    | some (_, link) => fieldU link 0 1 != 0 && bitAt (fieldU link 5 1) 0
    | none => false)

/-- TIME: a message of the primary clock peer, its time corrected for link delay; CLK_TIME slews towards it. -/
def execTime (t : Nat) (p : Fin 16) (peerNs : Nat) (s : State) : Answer :=
  let s1 := tick t s
  if primaryPort s1 = some p ∧ (s1.port p).state = 3 then
    .next { s1 with clk := { s1.clk with slew := (peerNs : Int) - s1.clk.time.toNat } }
  else .next s1

/-- TIME_EXCHANGE: a TIME flit leaves to the primary clock peer. Its layout is not stated, so its bytes are free (log entry 4). -/
def execTimeExchange (t : Nat) (s : State) : Answer :=
  let s1 := tick t s
  match primaryPort s1 with
  | none => .next s1
  | some q =>
    let f := s1.fresh
    .next (sendFlit f.2 q { typ := 3, vc := 0, poison := 0, data := (List.range 224).map (Config.responseByte f.1) })

end Sys2Proof.Machine
end

