-- ==== Sys2Proof/Machine/Vector.lean ====
section
/-! DEFINITION. The commands of the vector engine: one per operation of R195, VEC_COMPLETE, and the generator's seed (R227 to R231, R539). -/

namespace Sys2Proof.Machine

/-- Consumer index of an instruction (R220). -/
def consumerOf (q : Seq) : Nat :=
  match q.calls with
  | [] => 0
  | c :: _ => 4 * c.layer + c.ladder + 1

/-- Entries of the stream table (R220). -/
def streamCount (i : Img) : Nat := (i.streams.length - 8) / 16

/-- Whether a consumer owns a stream-table entry: its layer is OWNER and OPEN names its ladder (R220). -/
def ownsTag (q : Seq) (e : Bytes) : Bool :=
  match q.calls with
  | [] => false
  | c :: _ => c.layer == fieldU e 6 2 && bitAt (fieldU e 5 1) c.ladder

/-- The tag under which an instruction draws, and whether it is salted; none where the checks of R539 fail. -/
def drawTag (s : State) (c : Fin 64) (w : IWord) : Option (W32 × Bool) :=
  let k := s.cl c
  let cls : Nat := if vecVop w = 0x38 then 0 else 1
  let idx := vecTag w
  match imgOf s (clPart k) with
  | none => none
  | some i =>
    let e := sliceB i.streams (8 + 16 * idx) 16
    if decide (streamCount i ≤ idx) || fieldU e 4 1 != cls || !k.rng.valid then none
    else if ownsTag k.seq e then some (BitVec.ofNat 32 (fieldU e 0 4), false)
    else some (BitVec.ofNat 32 (0x80000000 + consumerOf k.seq * 2 ^ 16 + idx), true)

/-- A salted use is counted, and logged once per step, index and consumer (R227). -/
def noteReuse (s : State) (c : Fin 64) (idx : Nat) : State :=
  let k := s.cl c
  let key := (k.sreg.step.toNat, idx, consumerOf k.seq)
  let k1 := { k with rng := { k.rng with reuse := true, reuses := k.rng.reuses + 1, logged := if k.rng.logged.contains key then k.rng.logged else key :: k.rng.logged } }
  let s1 := s.setCl c k1
  if k.rng.logged.contains key then s1
  else clLog s1 c 0x2010 (payload [(0, 2, idx), (2, 2, consumerOf k.seq), (4, 4, k.sreg.step.toNat), (8, 1, clLcl k)])

/-- A valid VEC is queued and starts where the engine is free (R189). -/
def queueVec (s : State) (c : Fin 64) (w : IWord) (tag : W32) : State :=
  let k := s.cl c
  let len := if vecVop w = 0x40 || vecVop w = 0xF0 then 64 else 128
  let j : VecJob := { word := w, desc := k.ops.read (vecDescOff w) len, tag := tag, step := k.sreg.step, start := none }
  let s1 := advanceWord (s.setCl c { k with vec := { k.vec with jobs := k.vec.jobs ++ [j] } }) c
  startVec s1 c

/-- A VEC at issue (R125, R144, R194, R539): waits for room, is checked, and queued. A word of another operation is not this
command's; a reserved VOP stops the program (R195). -/
def vecBody (vop : Nat) (c : Fin 64) (s0 : State) (w : IWord) : State :=
  if 6 ≤ outV (s0.cl c) then s0
  else if (vopCat (vecVop w)).isNone then stopHere s0 c reasonBadVec w
  else if vecVop w != vop then s0
  else
    let s := rowsNow s0 c
    let k := s.cl c
    match vecIssueCheck k w with
    | some r => stopHere s c r w
    | none =>
      if vop = 0x21 || vop = 0x38 then
        (match drawTag s c w with
        | none => stopHere s c reasonBadVec w
        | some (tag, salted) => queueVec (if salted then noteReuse s c (vecTag w) else s) c w tag)
      else queueVec s c w 0

def vecIssue (vop t : Nat) (c : Fin 64) (s : State) : Answer := issueWord t c 2 0 (vecBody vop c) s

def execAdd (t : Nat) (c : Fin 64) (s : State) : Answer := vecIssue 0x01 t c s
def execSub (t : Nat) (c : Fin 64) (s : State) : Answer := vecIssue 0x02 t c s
def execMul (t : Nat) (c : Fin 64) (s : State) : Answer := vecIssue 0x03 t c s
def execFma (t : Nat) (c : Fin 64) (s : State) : Answer := vecIssue 0x04 t c s
def execNeg (t : Nat) (c : Fin 64) (s : State) : Answer := vecIssue 0x05 t c s
def execAbs (t : Nat) (c : Fin 64) (s : State) : Answer := vecIssue 0x06 t c s
def execMin (t : Nat) (c : Fin 64) (s : State) : Answer := vecIssue 0x07 t c s
def execMax (t : Nat) (c : Fin 64) (s : State) : Answer := vecIssue 0x08 t c s
def execCmpeq (t : Nat) (c : Fin 64) (s : State) : Answer := vecIssue 0x09 t c s
def execCmplt (t : Nat) (c : Fin 64) (s : State) : Answer := vecIssue 0x0A t c s
def execCmple (t : Nat) (c : Fin 64) (s : State) : Answer := vecIssue 0x0B t c s
def execIadd (t : Nat) (c : Fin 64) (s : State) : Answer := vecIssue 0x10 t c s
def execIsub (t : Nat) (c : Fin 64) (s : State) : Answer := vecIssue 0x11 t c s
def execImul (t : Nat) (c : Fin 64) (s : State) : Answer := vecIssue 0x12 t c s
def execMulbs (t : Nat) (c : Fin 64) (s : State) : Answer := vecIssue 0x13 t c s
def execAnd (t : Nat) (c : Fin 64) (s : State) : Answer := vecIssue 0x14 t c s
def execOr (t : Nat) (c : Fin 64) (s : State) : Answer := vecIssue 0x15 t c s
def execXor (t : Nat) (c : Fin 64) (s : State) : Answer := vecIssue 0x16 t c s
def execShl (t : Nat) (c : Fin 64) (s : State) : Answer := vecIssue 0x17 t c s
def execShr (t : Nat) (c : Fin 64) (s : State) : Answer := vecIssue 0x18 t c s
def execSra (t : Nat) (c : Fin 64) (s : State) : Answer := vecIssue 0x19 t c s
def execCvt (t : Nat) (c : Fin 64) (s : State) : Answer := vecIssue 0x20 t c s
def execCvtsr (t : Nat) (c : Fin 64) (s : State) : Answer := vecIssue 0x21 t c s
def execSplit3 (t : Nat) (c : Fin 64) (s : State) : Answer := vecIssue 0x22 t c s
def execExp2 (t : Nat) (c : Fin 64) (s : State) : Answer := vecIssue 0x28 t c s
def execLog2 (t : Nat) (c : Fin 64) (s : State) : Answer := vecIssue 0x29 t c s
def execRcp (t : Nat) (c : Fin 64) (s : State) : Answer := vecIssue 0x2A t c s
def execRsqrt (t : Nat) (c : Fin 64) (s : State) : Answer := vecIssue 0x2B t c s
def execRedsum (t : Nat) (c : Fin 64) (s : State) : Answer := vecIssue 0x30 t c s
def execRedprod (t : Nat) (c : Fin 64) (s : State) : Answer := vecIssue 0x31 t c s
def execRedmax (t : Nat) (c : Fin 64) (s : State) : Answer := vecIssue 0x32 t c s
def execRedmin (t : Nat) (c : Fin 64) (s : State) : Answer := vecIssue 0x33 t c s
def execArgmax (t : Nat) (c : Fin 64) (s : State) : Answer := vecIssue 0x34 t c s
def execArgmin (t : Nat) (c : Fin 64) (s : State) : Answer := vecIssue 0x35 t c s
def execDropout (t : Nat) (c : Fin 64) (s : State) : Answer := vecIssue 0x38 t c s
def execStreamsoftmax (t : Nat) (c : Fin 64) (s : State) : Answer := vecIssue 0x40 t c s
def execTurn (t : Nat) (c : Fin 64) (s : State) : Answer := vecIssue 0xF0 t c s

/-- The executing instruction completes (R200); a stalled or unpowered engine completes nothing (R211). -/
def execVecComplete (t : Nat) (c : Fin 64) (s0 : State) : Answer :=
  let s := tick t s0
  if clOn s c && !(s.cl c).stalled then .next (completeVec s c) else .next s

/-- RNG_SEED written (R229 to R231): the write that reaches the upper half sets SEED_VALID. -/
def rngSeedWrite (s : State) (who : Requester) (c : Fin 64) (part : RegPart) (val : W64) : State :=
  if !rngWriter who || !clOn s c then s else
  let r := halfWrite s (csrBase + 0x1000000 + c.val * 0x10000 + 0x408) who part val 0 false
  match r.2 with
  | none => r.1
  | some v =>
    let k := r.1.cl c
    r.1.setCl c { k with rng := { k.rng with seed := v, valid := true } }

def execRngSeed (t : Nat) (who : Requester) (c : Fin 64) (part : RegPart) (val : W64) (s : State) : Answer :=
  .next (rngSeedWrite (tick t s) who c part val)

end Sys2Proof.Machine
end

