-- ==== Sys2Proof/Machine/ImageCheck.lean ====
section
/-! DEFINITION. The checks that the image loader makes of an Ilkor image (chapter 13): header, directory, resource claim, digests,
authorisation, revision, field rules, the static program walk and the rules of a partial reload. Each check answers none, or the directory
index that IMAGE_REJECT names. -/

namespace Sys2Proof.Machine

-- The container (R345 to R347)

def imgN (b : Bytes) : Nat := fieldU b 8 2
def imgPart (b : Bytes) : Nat := fieldU b 10 1
def imgKind (b : Bytes) : Nat := fieldU b 7 1
def imgTotal (b : Bytes) : Nat := fieldU b 16 8
def imgSig (b : Bytes) : Nat := fieldU b 24 8
def imgArea (b : Bytes) : Nat := fieldU b 32 8
def imgIdent (b : Bytes) : Nat := fieldU b 40 8

def dirType (e : Bytes) : Nat := fieldU e 0 1
def dirOff (e : Bytes) : Nat := fieldU e 4 4
def dirSize (e : Bytes) : Nat := fieldU e 8 4

/-- DEST as an address: of a SCHEDULE section bits [47:0] (R346). -/
def dirDest (e : Bytes) : Nat := if dirType e = 9 then fieldU e 16 6 else fieldU e 16 8

/-- Section types that are copied to DEST (R346). -/
def hasDest (typ : Nat) : Bool := [2, 7, 9, 11, 13].contains typ

/-- Directory entries with their indices. -/
def imgDir (b : Bytes) : List (Nat × Bytes) := (List.range (imgN b)).map (fun i => (i, sliceB b (64 + 64 * i) 64))

def dirData (b e : Bytes) : Bytes := sliceB b (dirOff e) (dirSize e)

/-- Sections of a type: directory index, entry and data. -/
def imgAll (b : Bytes) (typ : Nat) : List (Nat × Bytes × Bytes) :=
  (imgDir b).filterMap (fun x => if dirType x.2 = typ then some (x.1, x.2, dirData b x.2) else none)

/-- Data of the one section of a type; no bytes where it is missing. -/
def imgData (b : Bytes) (typ : Nat) : Bytes :=
  match imgAll b typ with
  | x :: _ => x.2.2
  | [] => []

/-- Directory index of the one section of a type. -/
def imgIdx (b : Bytes) (typ : Nat) : Nat :=
  match imgAll b typ with
  | x :: _ => x.1
  | [] => 0xFF

/-- The image digest and the key digest (R347). -/
def imgDigest (b : Bytes) : Bytes := sha384 (b.take (imgSig b))
def imgKeyDigest (b : Bytes) : Bytes := sha384 (sliceB b (imgSig b) 156)

/-- Check 1 (R345). NUMGEN is left to check 7. -/
def headerOk (b : Bytes) : Bool :=
  fieldU b 0 4 == 0x524B4C49 && fieldU b 4 2 == 1 && decide (imgKind b ≤ 1) && decide (6 ≤ imgN b ∧ imgN b ≤ 96) && decide (imgPart b ≤ 7) &&
    decide (imgTotal b ≤ 2 ^ 30) && imgSig b % 64 == 0 && decide (imgSig b ≤ imgTotal b) && imgArea b % 4096 == 0

/-- How often a section type occurs (R346): type, least and most. -/
def secCounts : List (Nat × Nat × Nat) :=
  [(1, 1, 1), (2, 1, 1), (3, 1, 1), (4, 1, 1), (5, 1, 1), (6, 1, 1), (7, 0, 1), (8, 0, 1), (9, 0, 4), (10, 0, 1), (11, 0, 1), (12, 0, 1), (13, 0, 64)]

/-- The first entry of a directory that breaks R345 or R346; `lo` is the end of what lies before it. -/
def dirWalk (sig : Nat) : Nat → List (Nat × Bytes) → Option Nat
  | _, [] => none
  | lo, (i, e) :: r =>
    if dirType e = 0 ∨ 13 < dirType e ∨ dirOff e % 64 ≠ 0 ∨ dirOff e < lo ∨ sig < dirOff e + dirSize e then some i
    else dirWalk sig (dirOff e + dirSize e) r

def overlaps (a n c m : Nat) : Bool := decide (a < c + m) && decide (c < a + n)

/-- Bytes of the policy area with its precision ledger (R175). -/
def policySize (part : Bytes) : Nat := 0x410040 + 32 * fieldU part 40 4

/-- Check 2: directory rules, section counts, and the place of LOAD_AREA (R352). -/
def directoryBad (b : Bytes) : Option Nat :=
  let ds := imgDir b
  match dirWalk (imgSig b) (64 + 64 * imgN b) ds with
  | some i => some i
  | none =>
    if (ds.head?.map (fun x => dirType x.2)) ≠ some 1 then some 0
    else if secCounts.any (fun c => let n := (ds.filter (fun x => dirType x.2 == c.1)).length; decide (n < c.2.1) || decide (c.2.2 < n)) then some 0xFF
    else
      let part := imgData b 1
      match ds.find? (fun x => hasDest (dirType x.2) && overlaps (imgArea b) (imgTotal b) (dirDest x.2) (dirSize x.2)) with
      | some x => some x.1
      | none => if overlaps (imgArea b) (imgTotal b) (fieldU part 32 8) (policySize part) then some 0xFF else none

-- The resource claim (R348 to R350)

/-- Slots other than p that hold a partition. -/
def otherSlots (s : State) (p : Fin 8) : List (Fin 8) := (List.finRange 8).filter (fun q => q != p && (s.slot q).img.isSome)

def slotPart (s : State) (q : Fin 8) : Bytes := match (s.slot q).img with | some i => i.part | none => []

/-- Usable clusters of a die that no other slot holds and whose control core has not failed (R349, R398), lowest first. -/
def freeClusters (s : State) (p : Fin 8) (d : Fin 2) : List (Fin 64) :=
  (List.finRange 64).filter (fun c => decide (clDie c = d) && usable s c && !s.sched.clfail.getLsbD c.val &&
    !(otherSlots s p).any (fun q => (s.slot q).asg.cmap.contains c || (s.slot q).asg.spares.contains c))

/-- The lowest free run of n MiB of a spine pool, as its first MiB (R349). -/
def freeSpine (s : State) (p : Fin 8) (d : Fin 2) (n : Nat) : Option Nat :=
  let used := (otherSlots s p).map (fun q => if d = 0 then (s.slot q).asg.spine0 else (s.slot q).asg.spine1)
  (List.range (65 - n)).find? (fun f => !used.any (fun u => n != 0 && u.2 != 0 && overlaps (f * 0x100000) (n * 0x100000) u.1 u.2))

/-- What R349 assigns for a claim; none where too little is free. -/
def assignFor (s : State) (p : Fin 8) (part : Bytes) : Option Assign :=
  let f0 := freeClusters s p 0
  let f1 := freeClusters s p 1
  let n (i : Nat) : Nat := fieldU part i 1
  let sp0 := fieldU part 24 2
  let sp1 := fieldU part 26 2
  if f0.length < n 0 + n 2 ∨ f1.length < n 1 + n 3 ∨ 64 < sp0 ∨ 64 < sp1 then none
  else match freeSpine s p 0 sp0, freeSpine s p 1 sp1 with
    | some a, some c =>
      some { cmap := f0.take (n 0) ++ f1.take (n 1), spares := (f0.drop (n 0)).take (n 2) ++ (f1.drop (n 1)).take (n 3)
             spine0 := (a * 0x100000, sp0 * 0x100000), spine1 := (c * 0x100000, sp1 * 0x100000) }
    | _, _ => none

def claimPkgs (part : Bytes) : Nat := fieldU part 8 4 % 2 ^ 24
def claimParity (part : Bytes) : Nat := fieldU part 12 4 % 2 ^ 16
def claimChansOf (part : Bytes) : List Nat := dataChans (claimPkgs part) (claimParity part)
def claimSize (part : Bytes) : Nat := (claimChansOf part).length * 2 ^ 34

/-- Whether [a, a + n) of partition addresses lies within the owner range or a spine allocation of a claim (R350). -/
def withinClaim (part : Bytes) (a n : Nat) : Bool :=
  if a < dramEnd then decide (a + n ≤ claimSize part)
  else if a < spineBase then false
  else if a < spineBase + spineSize then decide (a + n ≤ spineBase + fieldU part 24 2 * 0x100000)
  else decide (a + n ≤ spineBase + spineSize + fieldU part 26 2 * 0x100000)

/-- Entry q of a LINKS section (R272). -/
def linkEntry (links : Bytes) (q : Nat) : Bytes := sliceB links (16 + 16 * q) 16
def linkRole (links : Bytes) (q : Nat) : Nat := fieldU (linkEntry links q) 0 1

/-- Whether a LINKS section names a clock-recovery port. -/
def namesClock (links : Bytes) : Bool := (List.range 16).any (fun q => linkRole links q != 0 && fieldU (linkEntry links q) 5 1 % 4 != 0)

/-- Check 3 without the training of the groups (R350): the directory index of a claim that fails. A partial reload takes nothing new: what it
claims it has, so only the rules on the claim itself are checked again (log entry 55). -/
def claimBad (s : State) (p : Fin 8) (b : Bytes) : Option Nat :=
  let part := imgData b 1
  let pk := claimPkgs part
  let others := otherSlots s p
  let base := fieldU part 16 8
  let size := claimSize part
  let links := imgData b 8
  let taken := others.any (fun q =>
    let o := slotPart s q
    (claimPkgs o &&& pk) != 0 || (fieldU o 28 2 &&& fieldU part 28 2) != 0 || (fieldU o 7 1 &&& fieldU part 7 1) % 16 != 0) ||
    (fieldU s.boot.hostMem 0 3 &&& pk) != 0
  let range : Bool := base % 2 ^ 37 == 0 && decide (base + size ≤ dramEnd) &&
    !(size != 0 && (overlaps base size 0 (hostSize s) || others.any (fun q => overlaps base size (fieldU (slotPart s q) 16 8) (claimSize (slotPart s q)))))
  let full : Bool := imgKind b == 0
  if (full && ((assignFor s p part).isNone || taken || (pkgGroups pk).any (fun g => mgOn s g && (s.mg g).failed))) || !range ||
      hostParityBad pk (claimParity part) || !withinClaim part (imgArea b) (imgTotal b) ||
      !withinClaim part (fieldU part 32 8) (policySize part) ||
      (namesClock links && others.any (fun q => match (s.slot q).img with | some i => namesClock i.links | none => false)) then some (imgIdx b 1)
  else ((imgDir b).find? (fun x => hasDest (dirType x.2) && !withinClaim part (dirDest x.2) (dirSize x.2))).map Prod.fst

-- Checks 4, 6 and 7

/-- Check 4: the first section whose digest differs. -/
def digestBad (b : Bytes) : Option Nat :=
  ((imgDir b).find? (fun x => (sha384 (dirData b x.2)).take 40 != sliceB x.2 24 40)).map Prod.fst

/-- Check 6 (R477): the accepted owner record has an entry with the key digest for the partition. -/
def keyAuthorised (s : State) (p : Fin 8) (digest : Bytes) : Bool :=
  match s.sec.owner with
  | none => false
  | some o => bitAt (fieldU o 12 1) 0 && (List.range (Nat.min 32 (fieldU o 13 1))).any (fun i =>
      sliceB o (176 + 64 * i) 48 == digest && bitAt (fieldU o (176 + 64 * i + 48) 1) p.val)

/-- Check 7 (R362). -/
def revisionBad (s : State) (b : Bytes) : Bool :=
  let g := fieldU b 6 1
  let r := s.sec.flash.part
  g == 0 || decide (8 < g) || !bitAt (fieldU r 40 1) (g - 1) || decide (fieldU r 7 1 < fieldU b 11 1)

-- Field rules (check 8)

def claimCls (part : Bytes) : Nat := fieldU part 0 1 + fieldU part 1 1
def claimLayers (part : Bytes) : Nat := fieldU part 4 2

/-- R348 and R178. -/
def partOkFields (part links : Bytes) (size : Nat) : Bool :=
  let cap := fieldU part 40 4
  let ports := (List.range 16).foldl (fun (v : Nat) q => if linkRole links q = 0 then v else v + 2 ^ q) 0
  size == 128 && decide (fieldU part 0 1 ≤ 32) && decide (fieldU part 1 1 ≤ 32) && decide (1 ≤ claimCls part) &&
    decide (1 ≤ claimLayers part) && decide (claimLayers part ≤ 4096) && decide (fieldU part 24 2 ≤ 64) && decide (fieldU part 26 2 ≤ 64) &&
    fieldU part 28 2 == ports && fieldU part 32 8 % 0x10000 == 0 && decide (4096 ≤ cap) && decide (cap ≤ 2 ^ 20) && 2 ^ cap.log2 == cap &&
    decide (fieldU part 44 4 < 2 ^ 24)

/-- Rank of a format among the rungs of R170, narrowest first; none where the plank has no such operand. -/
def rungRank (code : Nat) : Option Nat :=
  match fmtOfCode code with
  | some .e2m1 => some 1
  | some .e4m3 | some .e5m2 | some .e2m3 | some .e3m2 | some .tt8 => some 2
  | some .bf16 | some .mxint8 | some .int8row => some 3
  | some .fp16 => some 4
  | some .fp32 => some 5
  | _ => none

def streamEntry (streams : Bytes) (i : Nat) : Bytes := sliceB streams (8 + 16 * i) 16
def streamN (streams : Bytes) : Nat := (streams.length - 8) / 16

/-- One ladder configuration (R170); d = 1 is backward-data. -/
def ladderOk (c streams : Bytes) (d : Nat) : Bool :=
  let n := fieldU c 0 1
  let ranks := (List.range n).map (fun r => rungRank (fieldU c (4 + r) 1))
  let tag := fieldU c 20 2
  let gi := fieldS c 19 1
  decide (1 ≤ n ∧ n ≤ 4) && decide (1 ≤ fieldU c 1 1 ∧ fieldU c 1 1 ≤ 8) && decide (1 ≤ fieldU c 2 1) && ranks.all Option.isSome &&
    (ranks.zip (ranks.drop 1)).all (fun x => decide (x.2.getD 0 ≤ x.1.getD 0)) &&
    decide (fieldS c 12 4 < fieldS c 8 4) && (d != 1 || decide (-64 ≤ gi ∧ gi ≤ 64)) && decide (tag < streamN streams) &&
    fieldU (streamEntry streams tag) 4 1 == 2 && decide (fieldU c 22 1 < n)

/-- The stream table (R220, R221). -/
def streamsOk (b : Bytes) : Bool :=
  let es := (List.range (streamN b)).map (streamEntry b)
  let tags := es.map (fun e => fieldU e 0 4)
  decide (24 ≤ b.length) && (b.length - 8) % 16 == 0 && decide (es.length ≤ 65536) && tags.eraseDups.length == tags.length &&
    es.all (fun e =>
      let cls := fieldU e 4 1
      let o := fieldU e 5 1 % 16
      decide (fieldU e 0 4 < 2 ^ 31) && decide (cls ≤ 3) && o != 0 && (!bitAt o 3 || cls == 1) && (cls != 2 || popBits4 o == 1))
where
  popBits4 (o : Nat) : Nat := ((List.range 4).filter (bitAt o)).length

/-- FP32 codes that are negative or NaN; -0 counts as 0. -/
def negOrNan (c : Nat) : Bool := decide (0x80000000 < c) || (decide (0x7F800000 < c) && decide (c < 0x80000000))

/-- FP32 codes outside [0, 1). -/
def outsideUnit (c : Nat) : Bool := negOrNan c || (decide (0x3F800000 ≤ c) && decide (c < 0x80000000))

/-- One group of the update group table (R295, R296). -/
def groupOk (g streams : Bytes) : Bool :=
  let rule := fieldU g 2 1
  let mfmt (x : Nat) : Bool := x == 1 || x == 3 || x == 4
  let vfmt (x : Nat) : Bool := x == 3 || x == 4 || x == 7 || x == 10
  let nv := fieldU g 7 1
  let pb := fieldU g 6 1
  let tags := [fieldU g 56 2, fieldU g 58 2, fieldU g 60 2]
  decide (rule ≤ 2) && mfmt (fieldU g 4 1) && (if rule = 0 then fieldU g 5 1 == 0 else mfmt (fieldU g 5 1)) &&
    (if rule = 2 then [1, 2, 4, 8, 16].contains pb else pb == 0) && decide (nv ≤ 2) &&
    (List.range 2).all (fun j => if j < nv then vfmt (fieldU g (104 + j) 1) else fieldU g (104 + j) 1 == 0) &&
    decide (fieldU g 8 8 ≤ fieldU g 16 8) && !([28, 32, 44].any (fun o => outsideUnit (fieldU g o 4))) &&
    !([24, 36, 40, 48, 52].any (fun o => negOrNan (fieldU g o 4))) && tags.eraseDups.length == 3 &&
    tags.all (fun x =>
      let e := streamEntry streams x
      decide (x < streamN streams) && fieldU e 4 1 == 1 && bitAt (fieldU e 5 1) 3 && fieldU e 6 2 == fieldU g 0 2)

def groupAt (groups : Bytes) (i : Nat) : Bytes := sliceB groups (160 * i) 160
def groupN (groups : Bytes) : Nat := groups.length / 160

def groupsOk (groups streams : Bytes) : Bool :=
  let n := groupN groups
  groups.length % 160 == 0 && decide (1 ≤ n ∧ n ≤ 65536) && (List.range n).all (fun i => groupOk (groupAt groups i) streams) &&
    (List.range (n - 1)).all (fun i => decide (fieldU (groupAt groups i) 16 8 < fieldU (groupAt groups (i + 1)) 8 8))

def ringAt (links : Bytes) (j : Nat) : Bytes := sliceB links (272 + 8 * j) 8
def ringN (links : Bytes) : Nat := (links.length - 272) / 8

/-- The LINKS section (R272, R273, R399). -/
def linksOk (b : Bytes) : Bool :=
  let own := fieldU b 0 2 + fieldU b 2 1 * 2 ^ 15
  let es := (List.range 16).map (linkEntry b)
  let used := es.filter (fun e => fieldU e 0 1 != 0)
  let peer (e : Bytes) : Nat := fieldU e 2 2 % 2 ^ 14 + fieldU e 2 2 / 2 ^ 15 * 2 ^ 15
  let twins := es.filter (fun e => fieldU e 0 1 == 2)
  decide (272 ≤ b.length) && (b.length - 272) % 8 == 0 && decide (ringN b ≤ 32) && decide (fieldU b 0 2 < 2 ^ 14) && decide (fieldU b 2 1 ≤ 1) &&
    es.all (fun e => decide (fieldU e 0 1 ≤ 4)) &&
    used.all (fun e => decide (fieldU e 1 1 ≤ 7) && decide (fieldU e 4 1 ≤ 15) && peer e != own) &&
    decide ((used.filter (fun e => bitAt (fieldU e 5 1) 0)).length ≤ 1) && decide ((used.filter (fun e => bitAt (fieldU e 5 1) 1)).length ≤ 1) &&
    decide (twins.length ≤ 2) && twins.all (fun e => peer e == (own + 2 ^ 15) % 2 ^ 16) &&
    (List.range (ringN b)).all (fun j =>
      let r := ringAt b j
      decide (fieldU r 0 1 ≤ 3) && decide (fieldU r 1 1 ≤ 15) && decide (fieldU r 2 1 ≤ 15) && decide (1 ≤ fieldU r 4 2 ∧ fieldU r 4 2 ≤ 16384) &&
        decide (fieldU r 6 2 < fieldU r 4 2) && (fieldU r 1 1 != fieldU r 2 1 || fieldU r 4 2 == 2))

/-- Whether every batt of [lo, hi) lies in exactly one group (R293); the groups do not overlap. -/
def battsCovered (groups : Bytes) (lo hi : Nat) : Bool :=
  ((List.range (groupN groups)).map (fun i =>
    let g := groupAt groups i
    Nat.min hi (fieldU g 16 8 + 1) - Nat.max lo (fieldU g 8 8))).sum == hi - lo

/-- One collective descriptor of the schedule of engine e (R274, R292, R293). -/
def collOk (d part links groups : Bytes) (e : Nat) : Bool :=
  let op := fieldU d 4 1
  let red := fieldU d 5 1
  let ifmt := fieldU d 6 1
  let tfmt := fieldU d 7 1
  let ofmt := fieldU d 8 1
  let dest := fieldU d 9 1 % 16
  let u := fieldU d 9 1 / 16
  let rings := fieldU d 12 4
  let rs := ((List.range (ringN links)).filter (bitAt rings)).map (ringAt links)
  let n := fieldU d 16 8
  let dst := fieldU d 32 8
  decide (op ≤ 3) && decide (red ≤ 3) && decide (ifmt ≤ 1) && decide (ofmt ≤ 1) && [0, 1, 3, 4].contains tfmt &&
    (red != 3 || (ifmt == 0 && ofmt == 0)) && (red == 0 || tfmt == 0) && decide (1 ≤ fieldU d 11 1 ∧ fieldU d 11 1 ≤ 64) &&
    decide (dest ≤ 1) && decide (rings < 2 ^ ringN links) &&
    rs.all (fun r => fieldU r 1 1 / 8 == e / 2 && fieldU r 2 1 / 8 == e / 2) &&
    (rs.map (fun r => fieldU r 1 1)).eraseDups.length == rs.length && (rs.map (fun r => fieldU r 2 1)).eraseDups.length == rs.length &&
    rs.all (fun r => rs.all (fun x => fieldU r 0 1 != fieldU x 0 1 || fieldU r 4 2 == fieldU x 4 2)) &&
    (op != 3 || rs.all (fun r => decide (fieldU d 10 1 < fieldU r 4 2))) &&
    (dest == 0 ||
      (op == 1 && decide (u < 4) && u / 2 == e / 2 && bitAt (fieldU part 7 1) u && dst % 32 == 0 && n % 32 == 0 && ifmt == 0 && ofmt == 0 &&
        battsCovered groups (dst / 32) ((dst + n) / 32)))

/-- One SCHEDULE section (R274, R291, R346): its engine is one that the image claims, and COLL_IDs are unique. -/
def scheduleOk (e data part links groups : Bytes) : Bool :=
  let eng := fieldU e 22 2 % 16
  let n := data.length / 128
  let ds := (List.range n).map (fun i => sliceB data (128 * i) 128)
  let ids := ds.map (fun d => fieldU d 0 4)
  decide (eng < 4) && bitAt (fieldU part 7 1) eng && fieldU e 16 6 % 128 == 0 && data.length % 128 == 0 && decide (n < 2 ^ 16) &&
    ids.eraseDups.length == ids.length && ds.all (fun d => collOk d part links groups eng)

/-- The SYMBOLS section (R512). -/
def symbolsOk (b part : Bytes) : Bool :=
  let n := fieldU b 0 4
  let es := (List.range ((b.length - 16) / 64)).map (fun i => sliceB b (16 + 64 * i) 64)
  let hs := es.map (fun e => fieldU e 0 8)
  b.length == 16 + 64 * n && (hs.zip (hs.drop 1)).all (fun x => decide (x.1 < x.2)) &&
    es.all (fun e => decide (fieldU e 8 2 < claimLayers part) && (fmtOfCode (fieldU e 10 1)).isSome && decide (fieldU e 12 1 < claimCls part))

/-- The WAKE section (R447). -/
def wakeOk (b part : Bytes) : Bool :=
  let n := b.length / 24
  let cls := claimCls part
  b.length % 24 == 0 && decide (1 ≤ n ∧ n ≤ 1024) && (List.range n).all (fun i =>
    let e := sliceB b (24 * i) 24
    let k := fieldU e 0 1
    decide (1 ≤ k ∧ k ≤ 4) && (k == 1 || decide (fieldU e 1 1 < cls)) && decide (fieldU e 8 8 < 2 ^ cls) &&
      (k != 4 || decide (1 ≤ fieldU e 4 4 ∧ fieldU e 4 4 ≤ 1000000)) && (fieldU e 16 2 == 0 || decide (fieldU e 18 2 < fieldU e 16 2)))

/-- Check 8: the first section in directory order whose fields break a rule. -/
def sectionBad (b : Bytes) : Option Nat :=
  let part := imgData b 1
  let links := imgData b 8
  let streams := imgData b 6
  let groups := imgData b 7
  let nl := claimLayers part
  ((imgDir b).find? (fun x =>
    let e := x.2
    let d := dirData b e
    !(match dirType e with
      | 1 => partOkFields part links (dirSize e)
      | 3 => d.length == 16 * claimCls part
      | 4 => d.length == 4 * nl
      | 5 => d.length == 96 * nl && (List.range (3 * nl)).all (fun k => ladderOk (sliceB d (32 * k) 32) streams (k % 3))
      | 6 => streamsOk d
      | 7 => groupsOk d streams
      | 8 => linksOk d
      | 9 => scheduleOk e d part links groups &&
          ((imgAll b 9).filter (fun y => fieldU y.2.1 22 2 % 16 == fieldU e 22 2 % 16)).length == 1
      | 10 => d.length % 8 == 0 && decide (d.length ≤ 128)
      | 11 => symbolsOk d part
      | 12 => wakeOk d part
      | _ => true))).map Prod.fst

-- The static program walk (check 9, R354)

/-- Bytes of the program at a partition address: those that a section brings, or for a partial reload those that memory holds. -/
def progRead (s : State) (p : Fin 8) (b : Bytes) (a n : Nat) : Option Bytes :=
  match (imgDir b).find? (fun x => [2, 11, 13].contains (dirType x.2) && decide (dirDest x.2 ≤ a) && decide (a + n ≤ dirDest x.2 + dirSize x.2)) with
  | some x => some (sliceB b (dirOff x.2 + (a - dirDest x.2)) n)
  | none => if imgKind b = 1 ∧ partOwns s p a n = true ∧ pPoiUnits s p a n = false then some (pRead s p a n) else none

/-- The words of the block that a pointer names; none where R127 is broken. -/
def progBlock (s : State) (p : Fin 8) (b : Bytes) (ptr : Nat) : Option (List IWord) :=
  let n := ptrLen ptr
  if !ptrValid ptr || decide (claimSize (imgData b 1) < ptrAddr ptr + 16 * n) then none
  else (progRead s p b (ptrAddr ptr) (16 * n)).map (fun x => (List.range n).map (fun i => BitVec.ofNat 128 (fieldU x (16 * i) 16)))

/-- The pointer of rung r of (L, d) in a variant table (R132); none where it is not VALID or cannot be read. -/
def progVariant (s : State) (p : Fin 8) (b : Bytes) (vt L d r : Nat) : Option Nat :=
  match progRead s p b (vt + (4 * L + d) * 32 + 8 * r) 8 with
  | none => none
  | some x => if ptrValid (leNat x) then some (leNat x) else none

def ladderRungs (b : Bytes) (L d : Nat) : Nat := fieldU (imgData b 5) (32 * (3 * L + d)) 1

/-- Pointers of every rung below NRUNG of (L, d); none where one is missing. -/
def progRungs (s : State) (p : Fin 8) (b : Bytes) (vt L d : Nat) : Option (List Nat) :=
  let l := (List.range (ladderRungs b L d)).map (progVariant s p b vt L d)
  if l.all Option.isSome then some (l.filterMap id) else none

/-- The valid pointers in the other slots of the entry of (L, d): no CALLV takes them, but the loader decodes what they reach. -/
def progSpare (s : State) (p : Fin 8) (b : Bytes) (vt L d : Nat) : List Nat :=
  ((List.range 4).filter (fun r => decide (ladderRungs b L d ≤ r))).filterMap (progVariant s p b vt L d)

/-- The rules of one word of a block visible in it: R124, R33, R67, R88, R131. `loops` are the last words of the enclosing loop bodies,
`last` says that it is the block's last word. -/
def wordBad (w : IWord) (i n : Nat) (loops : List Nat) : Bool :=
  let f := passFields w
  let pair : Bool := match fmtOfCode f.afmt, fmtOfCode f.wfmt with
    | some x, some y => pairAllowed x y && !((f.shape == 2 || f.shape == 3) && fusionOf x y == 5)
    | _, _ => false
  let stop := i + 1 + bitsAt w.toNat 90 6
  !wordValid w || (i + 1 == n && !endsBlock w) || (isFlow w && !loops.isEmpty) ||
    (wCls w == 0 && wOp w == 3 && bitsAt w.toNat 94 2 == 3) ||
    (wCls w == 1 && (!pair || decide (5 < f.shape))) ||
    (wCls w == 0 && wOp w == 5 && (decide (n ≤ stop) || decide (2 ≤ loops.length) || loops.any (fun x => decide (x < stop))))

/-- A block word by word with the loops around each word. -/
def blockBad (n : Nat) : Nat → List Nat → List IWord → Bool
  | _, _, [] => false
  | i, loops, w :: r =>
    let live := loops.filter (fun x => decide (i ≤ x))
    if wordBad w i n live then true
    else blockBad n (i + 1) (if wCls w = 0 ∧ wOp w = 5 then (i + 1 + bitsAt w.toNat 90 6) :: live else live) r

/-- The mode of (L, d) and EMU32 in the LAYERS section (R346). -/
def layerMode (b : Bytes) (L d : Nat) : Bool := bitAt (fieldU (imgData b 4) (4 * L) 4) d
def layerEmu (b : Bytes) (L : Nat) : Bool := bitAt (fieldU (imgData b 4) (4 * L) 4) 8

/-- What a pass in the variant of (L, d) must show: MODE of LAYERS; in an EMU32 layer BF16 operands, STRICT and COMP (R81). -/
def passBad (b : Bytes) (L d : Nat) (w : IWord) : Bool :=
  let f := passFields w
  wCls w == 1 && (f.mode != layerMode b L d || (layerEmu b L && !(f.afmt == 1 && f.wfmt == 1 && !f.mode && f.comp)))

/-- The stream-table class that a VEC word needs, where it draws (R199): DROPOUT 0, SROUND 1. -/
def drawClass (w : IWord) : Option Nat :=
  if wCls w ≠ 2 then none else if vecVop w = 0x38 then some 0 else if vecVop w = 0x21 then some 1 else none

/-- A VEC word names an entry of the wrong class, or, in a fixed context, one that its consumer does not own (R226). -/
def drawBad (streams : Bytes) (ctxs : List (Option (Nat × Nat))) (w : IWord) : Bool :=
  match drawClass w with
  | none => false
  | some cls =>
    let e := streamEntry streams (vecTag w)
    decide (streamN streams ≤ vecTag w) || fieldU e 4 1 != cls ||
      (match ctxs with
      | [some (L, d)] => !(fieldU e 6 2 == L && bitAt (fieldU e 5 1) d)
      | _ => false)

/-- An accumulation under way on an ACCB (R78, R81): COMP of its passes, and in an EMU32 layer the groups of K that it has taken so far,
from the pass that started it. -/
structure AccUse where
  accb : Nat
  comp : Bool
  emu  : Option Nat
deriving DecidableEq, Repr

/-- The K axis of an emulated FP32 product has six segments of whole groups (R81); what the segments hold no word shows (log entry 55). -/
def emuDone (u : AccUse) : Bool := match u.emu with | some k => k % 6 == 0 | none => true

/-- One PASS added to the accumulations under way; none where it differs in COMP from the passes of its accumulation, or starts a new one
on an EMU32 accumulation that is not complete. -/
def accPass (emu : Bool) (us : List AccUse) (f : PassF) : Option (List AccUse) :=
  let rest := us.filter (fun u => u.accb != f.accb)
  let start : AccUse := { accb := f.accb, comp := f.comp, emu := if emu && f.new then some f.kg else none }
  match us.find? (fun u => u.accb == f.accb) with
  | none => some (start :: rest)
  | some u =>
    if f.new then (if emuDone u then some (start :: rest) else none)
    else if u.comp != f.comp then none
    else some ({ u with emu := u.emu.map (fun k => k + f.kg) } :: rest)

/-- The accumulations after n rounds of a loop body, from those after its first and second round. -/
def accRounds (n : Nat) (a1 a2 : List AccUse) : List AccUse :=
  if n < 2 then a1 else a2.map (fun u => match u.emu, a1.find? (fun x => x.accb == u.accb) with
    | some k, some x => { u with emu := some (k + (n - 2) * (k - x.emu.getD k)) }
    | _, _ => u)

/-- The accumulations after a run of words without transfer; a loop's body counts as often as it runs. The first argument only bounds the
recursion. -/
def accWords (emu : Bool) : Nat → List IWord → List AccUse → Option (List AccUse)
  | 0, _, us => some us
  | _ + 1, [], us => some us
  | n + 1, w :: r, us =>
    if wCls w = 1 then (accPass emu us (passFields w)).bind (accWords emu n r)
    else if wCls w = 0 ∧ wOp w = 5 then
      let len := bitsAt w.toNat 90 6 + 1
      let body := r.take len
      match accWords emu n body us with
      | none => none
      | some a1 => match accWords emu n body a1 with
        | none => none
        | some a2 => accWords emu n (r.drop len) (accRounds (bitsAt w.toNat 96 16 + 1) a1 a2)
    else accWords emu n r us

/-- A place of the walk: a word of a block, the layer and ladder of the innermost CALLV, the return points held and those of them that the
walk knows, the variant table, and the accumulations under way. -/
structure Place where
  ptr  : Nat
  idx  : Nat
  ctx  : Option (Nat × Nat)
  dep  : Nat
  rets : List (Nat × Nat × Option (Nat × Nat))
  vt   : Nat
  accs : List AccUse
deriving DecidableEq, Repr

/-- What follows the words of a block from a place on, up to the first transfer (R130, R354); none where a rule is broken. -/
def placeNext (s : State) (p : Fin 8) (b : Bytes) (x : Place) (ws : List IWord) : Option (List Place) :=
  let nl := claimLayers (imgData b 1)
  let rest := ws.drop x.idx
  let run := rest.takeWhile (fun w => !isFlow w)
  let emu : Bool := match x.ctx with | some (L, _) => layerEmu b L | none => false
  if run.any (fun w => match x.ctx with | some (L, d) => passBad b L d w | none => false) then none else
  match accWords emu 2048 run x.accs with
  | none => none
  | some us =>
    match rest.drop run.length with
    | [] => some []
    | w :: _ =>
      if wOp w = 1 then (if us.all emuDone then some [] else none)
      else if wOp w = 2 then some [{ x with ptr := bitsAt w.toNat 0 64, idx := 0, accs := us }]
      else if wOp w = 3 then
        let L := bitsAt w.toNat 96 16
        let d := bitsAt w.toNat 94 2
        if x.dep = 4 then none
        else if nl ≤ L then some []
        else (progRungs s p b x.vt L d).map (fun ps => ps.map (fun q =>
          { ptr := q, idx := 0, ctx := some (L, d), dep := x.dep + 1, rets := (x.ptr, x.idx + run.length + 1, x.ctx) :: x.rets, vt := x.vt, accs := us }))
      else match x.rets with
        | [] => some []
        | y :: r => some [{ x with ptr := y.1, idx := y.2.1, ctx := y.2.2, dep := x.dep - 1, rets := r, accs := us }]

/-- The walk: the places reached, or none where a block or word is rejected. -/
def progWalk (s : State) (p : Fin 8) (b : Bytes) : Nat → List Place → List Place → Option (List Place)
  | 0, _, _ => none
  | _ + 1, seen, [] => some seen
  | f + 1, seen, x :: todo =>
    if seen.contains x then progWalk s p b f seen todo
    else match progBlock s p b x.ptr with
      | none => none
      | some ws =>
        if blockBad ws.length 0 [] ws then none
        else match placeNext s p b x ws with
          | none => none
          | some l => progWalk s p b f (x :: seen) (l ++ todo)

/-- Where the walk begins: the entry of every logical cluster, and every valid variant of every ladder; none where a variant is missing. -/
def progRoots (s : State) (p : Fin 8) (b : Bytes) : Option (List Place) :=
  let cl := imgData b 3
  let n := claimCls (imgData b 1)
  let nl := claimLayers (imgData b 1)
  let vt (l : Nat) : Nat := fieldU cl (16 * l + 8) 8 % 2 ^ 48 / 32 * 32
  let entries := (List.range n).map (fun l =>
    ({ ptr := fieldU cl (16 * l) 8, idx := 0, ctx := none, dep := 0, rets := [], vt := vt l, accs := [] } : Place))
  ((List.range n).map vt).eraseDups.foldl (fun (acc : Option (List Place)) v =>
    (List.range (3 * nl)).foldl (fun (a : Option (List Place)) k => match a with
      | none => none
      | some l => (progRungs s p b v (k / 3) (k % 3)).map (fun ps => (ps ++ progSpare s p b v (k / 3) (k % 3)).map (fun q =>
          ({ ptr := q, idx := 0, ctx := some (k / 3, k % 3), dep := 1, rets := [], vt := v, accs := [] } : Place)) ++ l)) acc) (some entries)

/-- More than the places that a walk can take up. -/
def walkFuel : Nat := 2 ^ 256

/-- Check 9: the static program checks. -/
def programBad (s : State) (p : Fin 8) (b : Bytes) : Bool :=
  let streams := imgData b 6
  let nl := claimLayers (imgData b 1)
  let pouncesBad := (List.range (3 * nl)).any (fun k =>
    let e := streamEntry streams (fieldU (imgData b 5) (32 * k + 20) 2)
    !(fieldU e 6 2 == k / 3 && bitAt (fieldU e 5 1) (k % 3)))
  match progRoots s p b with
  | none => true
  | some roots =>
    match progWalk s p b walkFuel [] roots with
    | none => true
    | some seen =>
      let drawsBad := ((seen.map Place.ptr).eraseDups).any (fun q =>
        let ctxs := ((seen.filter (fun x => x.ptr == q)).map Place.ctx).eraseDups
        match progBlock s p b q with
        | none => true
        | some ws => ws.any (drawBad streams ctxs))
      pouncesBad || drawsBad

-- Partial reloads (check 10, R358)

/-- The rules of R358 against the image that the partition runs. -/
def partialBad (i : Img) (b : Bytes) : Option Nat :=
  let g := imgData b 7
  if imgData b 1 ≠ i.part then some 0
  else if imgData b 8 ≠ i.links then some (imgIdx b 8)
  else if groupN g ≠ groupN i.groups ∨ (List.range (groupN g)).any (fun j =>
      sliceB (groupAt g j) 8 16 != sliceB (groupAt i.groups j) 8 16) = true then some (imgIdx b 7)
  else
    let e1 := (imgAll b 9).map (fun x => fieldU x.2.1 22 2 % 16)
    let e0 := i.scheds.map (fun x => x.1)
    if e1.any (fun x => !e0.contains x) || e0.any (fun x => !e1.contains x) then some (imgIdx b 9) else none

end Sys2Proof.Machine
end

