-- ==== Sys2Proof/Machine/TwinOps.lean ====
section
/-! DEFINITION. What a twin does with digests (R401, R402, R413) and how its state changes (R403, R415), shared by the close of a step, the
twin messages and the known-answer tests. -/

namespace Sys2Proof.Machine

def logTwin (s : State) (p : Fin 8) (event : Nat) (pl : Bytes) : State := logEv s 0x0702 event p.val pl

/-- SOLO from PAIRED, logged (R403). -/
def goSolo (s : State) (p : Fin 8) : State :=
  let w := (s.slot p).twin
  if w.st = .paired then logTwin (setTwin s p { w with st := .solo }) p 0xB004 (payload []) else s

/-- This package is judged faulty (R413): FENCED is sent, the RUN fails with source 3, code 3. -/
def fence (s : State) (p : Fin 8) : State :=
  let s1 := setTwin s p { (s.slot p).twin with st := .fenced, recov := false, kats := none }
  let s2 := sendTwin s1 (twinPorts s1 p) (twinData 5 p [] [])
  failRun (logTwin s2 p 0xB005 (payload [])) p 3 3

/-- An unresolved repeat mismatch stops both halves (R413). -/
def unresolved (s : State) (p : Fin 8) : State :=
  let s1 := setTwin s p { (s.slot p).twin with recov := false, kats := none }
  failRun (logTwin s1 p 0xB00D (payload [])) p 3 2

/-- Differing digests of step t (R401, R413): logged in two entries; the first time recovery, in the replay the outcome by who reproduced
its own first digest. -/
def mismatch (s : State) (p : Fin 8) (t : Nat) (own their : W64) : State :=
  let s1 := logTwin s p 0xB003 (payload [(4, 4, t), (8, 8, own.toNat)])
  let s2 := logTwin s1 p 0xB003 (payload [(4, 4, t), (8, 8, their.toNat)])
  let w := (s2.slot p).twin
  let fresh := raiseRecovery (setTwin s2 p { w with first := some (t, own, their) }) p 1 t
  match w.first with
  | none => fresh
  | some (t0, o0, p0) =>
    if t0 ≠ t then fresh
    else if own = o0 ∧ their = p0 then setTwin s2 p { w with kats := some ((s2.slot p).asg.cmap, false) }
    else if own = o0 then s2
    else if their = p0 then fence s2 p
    else unresolved s2 p

-- Handles and agreement of checkpoints (R407, R408, R423)

/-- Handles (R408). -/
def buddyHandle (slot step : Nat) : Nat := 2 ^ 63 + slot % 2 * 2 ^ 56 + step % 2 ^ 32
def memHandle (addr : Nat) : Nat := 2 ^ 62 + addr % 2 ^ 48 / 4096 * 4096

/-- The newest AGREED checkpoint's handle (R423). -/
def agreedHandle (k : Ckpt) : W64 :=
  let bs := (k.slots.toList.zipIdx).filterMap (fun (x : Option BuddySlot × Nat) => match x.1 with
    | some b => if b.complete && b.agreed then some (b.step, buddyHandle x.2 b.step) else none
    | none => none)
  let ms := k.mems.filterMap (fun m => if m.2.2 then some (m.2.1, memHandle m.1) else none)
  match bs ++ ms with
  | [] => 0
  | x :: r => BitVec.ofNat 64 (r.foldl (fun (a : Nat × Nat) y => if a.1 < y.1 then y else a) x).2

/-- AGREED set on complete checkpoints that the verified bound has reached (R407). -/
def agreeCkpts (s : State) (p : Fin 8) : State :=
  let w := (s.slot p).twin
  let k := (s.slot p).ck
  let ok (step : Nat) : Bool := decide ((step : Int) ≤ w.v)
  let slots := k.slots.map (fun x => x.map (fun b => if b.complete && ok b.step then { b with agreed := true } else b))
  let new := k.mems.filter (fun m => !m.2.2 && ok m.2.1)
  let s1 := new.foldl (fun (t : State) m =>
    pWrite t p (m.1 + 7) [BitVec.ofNat 8 (fieldU (pRead t p (m.1 + 7) 1) 0 1 ||| 2)] false) s
  let k1 := { k with slots := slots, mems := k.mems.map (fun (m : Nat × Nat × Bool) => (m.1, m.2.1, m.2.2 || ok m.2.1)) }
  s1.setSlot p { s1.slot p with ck := { k1 with handle := agreedHandle k1 } }

def digestOf (l : List (Nat × W64)) (t : Nat) : Option W64 := (l.find? (fun x => x.1 == t)).map Prod.snd

/-- V moved up over the steps that have compared equal (R402). -/
def advanceV (own theirs : List (Nat × W64)) : Nat → Int → Int
  | 0, v => v
  | n + 1, v =>
    let t := (v + 1).toNat
    match digestOf own t, digestOf theirs t with
    | some a, some b => if a = b then advanceV own theirs n (v + 1) else v
    | _, _ => v

/-- The comparison of step t once both digests are known (R401). Digests are compared only in PAIRED (R417). -/
def compareStep (s : State) (p : Fin 8) (t : Nat) : State :=
  let w := (s.slot p).twin
  match digestOf w.own t, digestOf w.theirs t with
  | some a, some b =>
    if w.st ≠ .paired then s
    else if a ≠ b then mismatch s p t a b
    else match w.pairStep with
      | none => s
      | some _ => agreeCkpts (setTwin s p { w with v := advanceV w.own w.theirs 8 w.v }) p
  | _, _ => s

/-- The own digest of step t after B1: kept among the last 8, sent on every twin port, compared (R401). -/
def ownDigest (s : State) (p : Fin 8) (t : Nat) (d : W64) (loss flags : Nat) : State :=
  let w := (s.slot p).twin
  let s1 := setTwin s p { w with own := ((t, d) :: w.own.filter (fun x => x.1 != t)).take 8 }
  let s2 := sendTwin s1 (twinPorts s1 p) (twinData 2 p [(4, 4, t), (8, 8, d.toNat), (16, 4, loss), (20, 4, flags)] [])
  compareStep s2 p t

/-- The partner's digest of step t: the first received counts, a repeat is discarded. -/
def theirDigest (s : State) (p : Fin 8) (t : Nat) (d : W64) : State :=
  let w := (s.slot p).twin
  if (digestOf w.theirs t).isSome then s
  else compareStep (setTwin s p { w with theirs := ((t, d) :: w.theirs).take 8 }) p t

/-- The end of a known-answer test that R413 asks for. -/
def twinKat (s : State) (p : Fin 8) (c : Fin 64) (failed : Bool) : State :=
  let w := (s.slot p).twin
  match w.kats with
  | none => s
  | some (l, bad) =>
    let l1 := l.filter (fun x => x != c)
    let bad1 := bad || (failed && l.contains c)
    if !l1.isEmpty then setTwin s p { w with kats := some (l1, bad1) }
    else
      let s1 := setTwin s p { w with kats := none }
      let partner := w.st == .solo
      if bad1 && !partner then fence s1 p
      else if !bad1 && partner then s1
      else unresolved s1 p

end Sys2Proof.Machine
end

