-- ==== Sys2Proof/Machine/Policy.lean ====
section
/-! DEFINITION. The policy area (R175 to R181): policy records, decisions at B2, rung and scale vectors, the precision ledger, fresh start
and restart. -/

namespace Sys2Proof.Machine

/-- A policy record as the scheduler core works on it (R176). -/
structure PolRec where
  rung   : Nat
  hold   : Nat
  settle : Nat
  g      : Int
  ewma   : Int
  step   : Nat
  hist   : List Int
  hpos   : Nat
  hn     : Nat
deriving DecidableEq, Repr

/-- An integer as its w low bits. -/
def intBits (w : Nat) (x : Int) : Nat := (x % (2 ^ w : Int)).toNat

/-- The value of 32 bits as i32. -/
def wrap32 (x : Int) : Int := let v := intBits 32 x; if v < 2 ^ 31 then v else (v : Int) - 2 ^ 32

def polRecOf (b : Bytes) : PolRec :=
  { rung := fieldU b 4 1, hold := fieldU b 5 1, settle := fieldU b 6 1, g := fieldS b 7 1, ewma := fieldS b 8 4, step := fieldU b 12 4
    hist := (List.range 16).map (fun i => fieldS b (16 + 2 * i) 2), hpos := fieldU b 48 1, hn := fieldU b 49 1 }

/-- The 64 bytes of a sealed record (R176, R177). -/
def polBytes (L d : Nat) (cfg : Bytes) (r : PolRec) : Bytes :=
  let b := [1] ++ natLe 1 d ++ natLe 2 L ++ natLe 1 r.rung ++ natLe 1 r.hold ++ natLe 1 r.settle ++ natLe 1 (intBits 8 r.g) ++
    natLe 4 (intBits 32 r.ewma) ++ natLe 4 r.step ++ sliceB ((r.hist.map (fun h => natLe 2 (intBits 16 h))).flatten) 0 32 ++
    natLe 1 r.hpos ++ natLe 1 r.hn ++ zeroB 2 ++ natLe 4 (crc32 cfg) ++ zeroB 4
  b ++ natLe 4 (crc32 b)

/-- Configuration entry of (L, d) (R170). -/
def ladderCfg (i : Img) (L d : Nat) : Bytes := sliceB i.ladders (32 * (3 * L + d)) 32

def polAddr (i : Img) (L d : Nat) : Nat := policyBase i + 0x10000 + (4 * L + d) * 64
def readPol (s : State) (p : Fin 8) (i : Img) (L d : Nat) : Bytes := pRead s p (polAddr i L d) 64
def writePol (s : State) (p : Fin 8) (i : Img) (L d : Nat) (r : PolRec) : State :=
  pWrite s p (polAddr i L d) (polBytes L d (ladderCfg i L d) r) false

/-- FP32 code of 2^g, exact for -64 to 64 (R174). -/
def pow2Code (g : Int) : Nat := ((g + 127) * 2 ^ 23).toNat

/-- The rung vector byte and the scale vector entry of a layer written from its records (R132, R172, R174). -/
def writeVectors (s : State) (p : Fin 8) (i : Img) (L : Nat) : State :=
  let r (d : Nat) : PolRec := polRecOf (readPol s p i L d)
  let g := (r 1).g
  let s1 := pWrite s p (policyBase i + L) [BitVec.ofNat 8 ((r 0).rung % 4 + (r 1).rung % 4 * 4 + (r 2).rung % 4 * 16)] false
  pWrite s1 p (policyBase i + 0x1000 + 8 * L) (natLe 1 (intBits 8 g) ++ zeroB 3 ++ natLe 4 (pow2Code g)) false

-- The precision ledger (R178)

def plAddr (i : Img) : Nat := policyBase i + 0x410000
def plCap (i : Img) : Nat := fieldU i.part 40 4

/-- An entry appended. -/
def plAppend (s : State) (p : Fin 8) (i : Img) (t L d cause : Nat) (old new : PolRec) (frac : Nat) : State :=
  let q := pU64 s p (plAddr i)
  let b := natLe 8 q ++ natLe 4 t ++ natLe 2 L ++ natLe 1 d ++ natLe 1 cause ++ natLe 1 old.rung ++ natLe 1 new.rung ++
    natLe 1 (intBits 8 old.g) ++ natLe 1 (intBits 8 new.g) ++ natLe 4 (intBits 32 new.ewma) ++ natLe 4 frac ++ natLe 1 new.hold ++
    natLe 1 new.settle ++ zeroB 2
  let cap := Nat.max 1 (plCap i)
  pWrite (pWrite s p (plAddr i + 64 + q % cap * 32) b false) p (plAddr i) (natLe 8 (q + 1)) false

-- Decisions (R171 to R173)

def hNone : Int := -32768

/-- Exponent of the leading bit of a positive FP32 value. -/
def amaxExp (c : Nat) : Int :=
  let e := bitsAt c 23 8
  if e = 0 then ((bitsAt c 0 23).log2 : Int) - 149 else (e : Int) - 127

/-- AMAX gives no exponent: zero or NaN. -/
def noAmax (c : Nat) : Bool := c % 2 ^ 31 == 0 || decide (0x7F800000 < c % 2 ^ 31)

/-- update_g (R173). -/
def updateG (cfg : Bytes) (r : PolRec) (sec : Bytes) : PolRec :=
  let a := fieldU sec 0 4
  let h : Int := if noAmax a then hNone else amaxExp a - r.g
  let r1 := { r with hist := r.hist.set r.hpos h, hpos := (r.hpos + 1) % 16, hn := Nat.min 16 (r.hn + 1) }
  let live := ((List.range r1.hn).map (fun k => r1.hist.getD ((r1.hpos + 15 - k) % 16) hNone)).filter (fun x => x != hNone)
  match live with
  | [] => r1
  | x :: l =>
    let g0 := fieldS cfg 18 1 - l.foldl max x
    let g1 := if fieldU sec 40 4 = 0 ∧ fieldU sec 44 4 = 0 then g0 else min g0 (r.g - 1)
    { r1 with g := max (-64) (min 64 g1) }

/-- What decide answers (R171): the new record, the ledger's cause (0 none), frac, and whether ESC_BLOCKED is logged. -/
structure Decision where
  new     : PolRec
  cause   : Nat
  frac    : Nat
  blocked : Bool
deriving DecidableEq, Repr

/-- The rung decision of a ladder from its section of a reduced record that is not poisoned. -/
def decideRung (cfg : Bytes) (r : PolRec) (sec : Bytes) : Decision :=
  let r1 : PolRec := { r with settle := r.settle - 1 }
  let checks := fieldU sec 60 4
  let r2 : PolRec := if checks = 0 then r1 else
    let x := wrap32 ((256 * fieldS sec 64 8).fdiv checks)
    { r1 with ewma := wrap32 (r1.ewma + wrap32 (x - r1.ewma) / (2 ^ (fieldU cfg 1 1) : Int)) }
  let quant := fieldU sec 16 8
  let frac := if quant = 0 then 0 else fieldU sec 24 8 * 2 ^ 16 % 2 ^ 64 / quant % 2 ^ 32
  let escD : Bool := decide (fieldS cfg 8 4 < r2.ewma)
  let escC : Bool := bitAt (fieldU cfg 3 1) 0 && decide (fieldU cfg 16 2 < frac)
  if escD || escC then
    if 0 < r2.rung then
      { new := { r2 with hold := 0, rung := r2.rung - 1, ewma := fieldS cfg 8 4 }, cause := if escD then (if escC then 3 else 1) else 2
        frac := frac, blocked := false }
    else { new := { r2 with hold := 0 }, cause := 5, frac := frac, blocked := true }
  else if r2.ewma < fieldS cfg 12 4 then
    let h := Nat.min 255 (r2.hold + 1)
    if fieldU cfg 2 1 ≤ h ∧ r2.settle = 0 ∧ r2.rung + 1 < fieldU cfg 0 1 then
      { new := { r2 with rung := r2.rung + 1, hold := 0 }, cause := 4, frac := frac, blocked := false }
    else { new := { r2 with hold := h }, cause := 0, frac := frac, blocked := false }
  else { new := { r2 with hold := 0 }, cause := 0, frac := frac, blocked := false }

/-- decide (R171) for a ladder: the record moves unless its reduced record is poisoned. -/
def decideOf (cfg : Bytes) (r : PolRec) (d : Nat) (sec : Bytes) (poisoned : Bool) : Decision :=
  if poisoned then { new := r, cause := 8, frac := 0, blocked := false }
  else
    let x := decideRung cfg r sec
    let y := if d = 1 then { x with new := updateG cfg x.new sec } else x
    if y.cause = 0 ∧ y.new.g ≠ r.g then { y with cause := 6 } else y

/-- decide for ladder (L, d) after step t. -/
def decideLadder (s : State) (p : Fin 8) (i : Img) (t L d : Nat) : State :=
  let a := policyBase i + 0x110000 + L * 768
  let red := pRead s p a 768
  let poisoned := bitAt (fieldU red 10 2) 0 || pPoiAny s p a 768
  let old := polRecOf (readPol s p i L d)
  let x := decideOf (ladderCfg i L d) old d (sliceB red (64 + 208 * d) 208) poisoned
  let pl := payload [(0, 2, L), (2, 1, d), (4, 4, t)]
  let s1 := if poisoned then logEv s 0x0702 0x3004 p.val pl else if x.blocked then logEv s 0x0702 0x3002 p.val pl else s
  let new := { x.new with step := t }
  let s2 := writePol s1 p i L d new
  if x.cause = 0 then s2 else plAppend s2 p i t L d x.cause old new x.frac

/-- B2 (R171, R172): every ladder by layer and ladder, then the vectors. -/
def decideAll (s : State) (p : Fin 8) (i : Img) (t : Nat) : State :=
  let n := nLayer i
  let s1 := (List.range (3 * n)).foldl (fun (u : State) k => decideLadder u p i t (k / 3) (k % 3)) s
  (List.range n).foldl (fun (u : State) L => writeVectors u p i L) s1

-- Fresh start and restart (R179 to R181, R297)

/-- The state tables of a partition's engines at a fresh start (R297). -/
def freshTables (s : State) (p : Fin 8) (i : Img) : State :=
  let base := fieldU i.part 48 8 % 2 ^ 48 / 16 * 16
  (List.range (i.groups.length / 160)).foldl (fun (u : State) g =>
    let start := fieldU i.groups (160 * g + 144) 4
    pWrite u p (base + 16 * g) (natLe 4 ((start + 2 ^ 32 - 1) % 2 ^ 32) ++ zeroB 4 ++ natLe 4 0x3F800000 ++ natLe 4 0x3F800000) false) s

/-- The policy area at a fresh start (R179). -/
def freshPolicy (s : State) (p : Fin 8) (i : Img) : State :=
  let n := nLayer i
  let s1 := (List.range n).foldl (fun (u : State) L =>
    let v := (List.range 3).foldl (fun (w : State) d =>
      let c := ladderCfg i L d
      writePol w p i L d
        { rung := fieldU c 22 1, hold := 0, settle := 0, g := if d = 1 then fieldS c 19 1 else 0, ewma := fieldS c 12 4, step := 0xFFFFFFFF
          hist := List.replicate 16 0, hpos := 0, hn := 0 }) u
    writeVectors (pWrite v p (polAddr i L 3) (zeroB 64) false) p i L) s
  pWrite s1 p (plAddr i) (zeroB 8 ++ natLe 4 (plCap i) ++ zeroB 52) false

/-- Why a policy record is lost at a restart that resumes at step t + 1 (R180, R181); 0 where it is valid. -/
def polLost (s : State) (p : Fin 8) (i : Img) (t L d : Nat) : Nat :=
  let b := readPol s p i L d
  let c := ladderCfg i L d
  if pPoiAny s p (polAddr i L d) 64 then 1
  else if fieldU b 60 4 ≠ crc32 (b.take 60) then 2
  else if fieldU b 0 1 ≠ 1 then 3
  else if fieldU b 2 2 ≠ L ∨ fieldU b 1 1 % 4 ≠ d then 4
  else if fieldU c 0 1 ≤ fieldU b 4 1 then 5
  else if fieldU b 52 4 ≠ crc32 c then 6
  else if fieldU b 12 4 ≠ t then 7
  else 0

/-- A lost ladder rebuilt at the top rung with a settling window (R181). -/
def rebuildLadder (s : State) (p : Fin 8) (i : Img) (t L d why : Nat) : State :=
  let c := ladderCfg i L d
  let old := polRecOf (readPol s p i L d)
  let new : PolRec :=
    { rung := 0, hold := 0, settle := 16, g := if d = 1 then fieldS c 19 1 else 0, ewma := fieldS c 8 4, step := t
      hist := List.replicate 16 0, hpos := 0, hn := 0 }
  let s1 := writeVectors (writePol s p i L d new) p i L
  let s2 := logEv s1 0x0702 0x3001 p.val (payload [(0, 2, L), (2, 1, d), (3, 1, why), (4, 4, (t + 1) % 2 ^ 32)])
  plAppend s2 p i t L d 7 old new 0

/-- A restart that resumes at step t + 1 (R180, R181). -/
def restartPolicy (s : State) (p : Fin 8) (i : Img) (t : Nat) : State :=
  (List.range (3 * nLayer i)).foldl (fun (u : State) k =>
    let why := polLost u p i t (k / 3) (k % 3)
    if why = 0 then u else rebuildLadder u p i t (k / 3) (k % 3) why) s

end Sys2Proof.Machine
end

