-- ==== Sys2Proof/Machine/Update.lean ====
section
/-! DEFINITION. The update engines (chapter 11): step checks, the three rules, storage rounding, views, closing a step and its digest. -/

namespace Sys2Proof.Machine

-- Groups and state tables (R295, R297)

/-- Entry i of the update group table. -/
def groupEntry (s : State) (p : Fin 8) (e : Fin 4) (i : Nat) : Bytes := pRead s p ((s.ue e).regs.gtab.toNat + 160 * i) 160

/-- The group that holds a parameter batt. -/
def groupOf (s : State) (p : Fin 8) (e : Fin 4) (b : Nat) : Option (Nat × Bytes) :=
  (List.range (s.ue e).regs.gcount.toNat).findSome? (fun i =>
    let g := groupEntry s p e i
    if fieldU g 8 8 ≤ b ∧ b ≤ fieldU g 16 8 then some (i, g) else none)

def stateAddr (s : State) (e : Fin 4) (i : Nat) : Nat := (s.ue e).regs.stab.toNat + 16 * i
def stateEntry (s : State) (p : Fin 8) (e : Fin 4) (i : Nat) : Bytes := pRead s p (stateAddr s e i) 16

/-- A batt whose group starts after the step is held back (R305). -/
def heldBack (g : Bytes) (step : W32) : Bool := (step - BitVec.ofNat 32 (fieldU g 144 4)).msb

-- Step values (R298)

def m32 (x y : Nat) : Nat := (mul32 x y).1
def a32 (x y : Nat) : Nat := (add32 x y).1
def s32 (x y : Nat) : Nat := (sub32 x y).1
def n32 (x : Nat) : Nat := (neg32 x).1

/-- FMA of R196 on FP32 codes. -/
def fma32 (x y z : Nat) : Nat := f32Code (sumNum [mulNum (dec32 x).1 (dec32 y).1, (dec32 z).1])
where
  f32Code (n : Num) : Nat := (toFp32 n).1

/-- rsqrt_v and sqrt32 of R299. -/
def rsqrtV (x : Nat) : Nat := (trans .rsqrt .fp32 fpFP32 (dec32 x).1).1
def sqrt32 (x : Nat) : Nat := if x = 0 then 0 else m32 x (rsqrtV x)

def one32 : Nat := 0x3F800000

/-- 2^-G as FP32, exact. -/
def negPow2 (g : Int) : Nat := (toFp32 (.fin false 1 (-g))).1

/-- The step values of a group (R298): G from the scale vector of its layer, MULT as read when the collective started. -/
def stepVals (s : State) (p : Fin 8) (i : Img) (g tab : Bytes) (mult : Nat) : StepVals :=
  let sg := negPow2 (fieldS (pRead s p (policyBase i + 0x1000 + 8 * fieldU g 0 2) 1) 0 1)
  let b1 := fieldU g 28 4
  let b2 := fieldU g 32 4
  let lr := m32 (fieldU g 24 4) mult
  let b1t := m32 (fieldU tab 8 4) b1
  let b2t := m32 (fieldU tab 12 4) b2
  let bias := bitAt (fieldU g 3 1) 0
  { sg := sg, lr := lr, lrs := m32 lr sg, lrwd := m32 lr (fieldU g 40 4), b1t := b1t, b2t := b2t
    rc1 := if bias then (rcpV (s32 one32 b1t)).1 else one32
    rc2 := if bias then (rcpV (s32 one32 b2t)).1 else one32
    k1 := m32 (s32 one32 b1) sg, k2 := m32 (s32 one32 b2) (m32 sg sg), kh := m32 (s32 one32 (fieldU g 44 4)) (m32 sg sg) }

-- The rules (R299, R300)

/-- MOMENTUM: the new momentum and weight of one parameter. -/
def ruleMomentum (g : Bytes) (k : StepVals) (w v gr : Nat) : Nat × Nat :=
  let v1 := fma32 (fieldU g 28 4) v (m32 k.lrs gr)
  (v1, s32 w (a32 v1 (m32 k.lrwd w)))

/-- The moments of ADAPTIVE. -/
def ruleMoments (g : Bytes) (k : StepVals) (m v gr : Nat) : Nat × Nat :=
  (fma32 (fieldU g 28 4) m (m32 k.k1 gr), fma32 (fieldU g 32 4) v (m32 k.k2 (m32 gr gr)))

/-- The new weight of ADAPTIVE. -/
def ruleAdaptive (g : Bytes) (k : StepVals) (w m v : Nat) : Nat :=
  let den := a32 (sqrt32 (m32 v k.rc2)) (fieldU g 36 4)
  let u := m32 (m32 m k.rc1) (rcpV den).1
  s32 w (fma32 k.lr u (m32 k.lrwd w))

/-- A lower triangle by rows. -/
abbrev Tri := List (List Nat)

def triAt (a : Tri) (x y : Nat) : Nat := (a.getD x []).getD y 0

/-- d > pmin for FP32 codes; a NaN compares false. -/
def gt32 (d pmin : Nat) : Bool :=
  match (dec32 d).1, (dec32 pmin).1 with
  | .fin a b c, .fin a2 b2 c2 => (Num.fin a2 b2 c2).toDy.cmp (Num.fin a b c).toDy == .lt
  | _, _ => false

/-- s - sum of products, one fused operation each, in ascending k. -/
def fmaChain (s : Nat) (l : List (Nat × Nat)) : Nat := l.foldl (fun (a : Nat) x => fma32 (n32 x.1) x.2 a) s

/-- Column j of L below the diagonal and its pivot's reciprocal root; none where a pivot fails. `cols` are the columns before it, each as a
full column indexed by row. -/
def cholCols (n : Nat) (A : Tri) (pmin : Nat) : Nat → List (List Nat × Nat) → Option (List (List Nat × Nat))
  | 0, cols => some cols
  | f + 1, cols =>
    let j := cols.length
    let elemAt (x : Nat) : List (Nat × Nat) := cols.map (fun c => (c.1.getD x 0, c.1.getD j 0))
    let d := fmaChain (triAt A j j) (elemAt j)
    if !gt32 d pmin then none
    else
      let r := rsqrtV d
      let col := (List.range n).map (fun i =>
        if i < j then 0 else if i = j then m32 d r
        else m32 (fmaChain (triAt A i j) (elemAt i)) r)
      cholCols n A pmin f (cols ++ [(col, r)])

/-- Forward substitution: y in ascending order. -/
def cholFwd (cols : List (List Nat × Nat)) : Nat → List Nat → List Nat → List Nat
  | 0, _, y => y
  | f + 1, b, y =>
    let i := y.length
    let v := fmaChain (b.getD i 0) ((y.zip cols).map (fun z => (z.2.1.getD i 0, z.1)))
    cholFwd cols f b (y ++ [m32 v (cols.getD i ([], 0)).2])

/-- Back substitution; `x` holds the entries after i, first the nearest. -/
def cholBack (cols : List (List Nat × Nat)) (y : List Nat) : Nat → List Nat → List Nat
  | 0, x => x
  | f + 1, x =>
    let c := (cols.getD f ([], 0))
    let v := fmaChain (y.getD f 0) (x.zipIdx.map (fun z => (c.1.getD (f + 1 + z.2) 0, z.1)))
    cholBack cols y f (m32 v c.2 :: x)

/-- chol_solve of R300. -/
def cholSolve (n : Nat) (A : Tri) (b : List Nat) (pmin : Nat) : Option (List Nat) :=
  (cholCols n A pmin n []).map (fun cols => cholBack cols (cholFwd cols n b []) n [])

/-- H of a block updated (R300). -/
def updateH (g : Bytes) (k : StepVals) (n : Nat) (H : Tri) (gr : List Nat) : Tri :=
  (List.range n).map (fun x => (List.range (x + 1)).map (fun y =>
    fma32 (fieldU g 44 4) (triAt H x y) (m32 k.kh (m32 (gr.getD x 0) (gr.getD y 0)))))

/-- Nine attempts with lambda doubling (R300). -/
def precondTry (g : Bytes) (n : Nat) (H : Tri) (b : List Nat) : Nat → Nat → Option (List Nat)
  | 0, _ => none
  | f + 1, lam =>
    let A := (List.range n).map (fun x => (List.range (x + 1)).map (fun y => if x = y then a32 (triAt H x y) lam else triAt H x y))
    match cholSolve n A b (fieldU g 52 4) with
    | some x => some x
    | none => precondTry g n H b f (m32 lam 0x40000000)

/-- What a rule makes of a batt: new first and second moments, new weights as FP32, the blocks' H, and how many blocks fell back. -/
structure RuleOut where
  m    : List Nat
  v    : List Nat
  w    : List Nat
  h    : List Tri
  fell : Nat
deriving DecidableEq, Repr

/-- The rule of a group over the 32 parameters of a batt (R299 to R301). -/
def applyRule (g : Bytes) (k : StepVals) (w m v gr : List Nat) (hs : List Tri) : RuleOut :=
  let elemAt (l : List Nat) (i : Nat) : Nat := l.getD i 0
  match fieldU g 2 1 with
  | 0 =>
    let r := (List.range 32).map (fun i => ruleMomentum g k (elemAt w i) (elemAt m i) (elemAt gr i))
    { m := r.map Prod.fst, v := [], w := r.map Prod.snd, h := [], fell := 0 }
  | 1 =>
    let mv := (List.range 32).map (fun i => ruleMoments g k (elemAt m i) (elemAt v i) (elemAt gr i))
    { m := mv.map Prod.fst, v := mv.map Prod.snd, h := [], fell := 0
      w := (List.range 32).map (fun i => let x := mv.getD i (0, 0); ruleAdaptive g k (elemAt w i) x.1 x.2) }
  | _ =>
    let n := fieldU g 6 1
    let mv := (List.range 32).map (fun i => ruleMoments g k (elemAt m i) (elemAt v i) (elemAt gr i))
    let blocks := hs.zipIdx.map (fun (x : Tri × Nat) =>
      let gb := (List.range n).map (fun j => elemAt gr (n * x.2 + j))
      let H := updateH g k n x.1 gb
      (H, precondTry g n H (gb.map (fun y => m32 y k.sg)) 9 (fieldU g 48 4)))
    { m := mv.map Prod.fst, v := mv.map Prod.snd, h := blocks.map Prod.fst
      fell := (blocks.filter (fun b => b.2.isNone)).length
      w := (List.range 32).map (fun i =>
        let x := mv.getD i (0, 0)
        match (blocks.getD (i / n) ([], none)).2 with
        | some z => s32 (elemAt w i) (fma32 k.lr (elemAt z (i % n)) (m32 k.lrwd (elemAt w i)))
        | none => ruleAdaptive g k (elemAt w i) x.1 x.2) }

-- Memory of a batt (R295, R299, R302, R303)

/-- FP32 code of a decoded value, exact for BF16 and one rounding for MXFP8. -/
def code32 (x : Num) : Nat := (toFp32 x).1

def fmtBf16 : Nat := 1

/-- Address and length of a batt's moment data and scale entry. -/
def momentSpans (fmt base sbase r : Nat) : List (Nat × Nat) :=
  if fmt = 0 then [] else if fmt = fmtBf16 then [(base + 64 * r, 64)] else [(base + 32 * r, 32), (sbase + r, 1)]

/-- The 32 stored moments of a batt in FP32. -/
def readMoments (s : State) (p : Fin 8) (fmt base sbase r : Nat) : List Nat :=
  match fmtOfCode fmt with
  | some .bf16 =>
    let b := pRead s p (base + 64 * r) 64
    (List.range 32).map (fun i => code32 (decodeFp .bf16 fpBF16 (fieldU b (2 * i) 2)).1)
  | some f =>
    let b := pRead s p (base + 32 * r) 32
    let sc := leNat (pRead s p (sbase + r) 1)
    (List.range 32).map (fun i => code32 (decodeScaled f sc (fieldU b i 1)).1)
  | none => []

/-- Values rounded to BF16 in SR mode under a tag, by parameter index: codes and saturations. -/
def storeBf16 (seed : W64) (tag step : W32) (p0 : Nat) (xs : List Nat) : List (Nat × Bool) :=
  xs.zipIdx.map (fun (x : Nat × Nat) => roundTo .bf16 fpBF16 (dec32 x.1).1 (.sr (drawR16 seed tag step (p0 + x.2))))

/-- Moments stored (R302): their writes, saturations and NaNs. -/
def storeMoments (seed : W64) (tag step : W32) (fmt base sbase r p0 : Nat) (xs : List Nat) : List WByte × Nat × Nat :=
  let nans := (xs.filter (fun x => (dec32 x).1.isNan)).length
  match fmtOfCode fmt with
  | some .bf16 =>
    let c := storeBf16 seed tag step p0 xs
    (wbytes (base + 64 * r) ((c.map (fun x => natLe 2 x.1)).flatten) false, (c.filter (fun x => x.2)).length, nans)
  | some f =>
    let b := quantiseBatt xs f false 0 (fun i => .sr (drawR16 seed tag step (p0 + i)))
    (wbytes (base + 32 * r) (packBits 8 b.elems) false ++ wbytes (sbase + r) (natLe 1 b.scale) false, b.counts.sat, nans)
  | none => ([], 0, 0)

/-- Bytes of a block's triangle. -/
def triBytes (n : Nat) : Nat := 2 * n * (n + 1)

def readTri (b : Bytes) (n : Nat) : Tri :=
  (List.range n).map (fun x => (List.range (x + 1)).map (fun y => fieldU b (4 * (x * (x + 1) / 2 + y)) 4))

/-- A view of a batt (R303). -/
def viewWrites (fmt base sbase r : Nat) (w : List Nat) : List WByte :=
  match fmtOfCode fmt with
  | some f =>
    let b := quantiseBatt (w.map (fun c => code32 (decodeFp .bf16 fpBF16 c).1)) f false 0 (fun _ => .rne)
    wbytes (base + battBytes f * r) (packBits (fmtBits f) b.elems) false ++ wbytes (sbase + r) (natLe 1 b.scale) false
  | none => []

-- Events of a step (R301, R306, R307)

/-- An event logged once per group per step; UPDATE_NAN defines no payload (R307, R516). -/
def logUe (s : State) (e : Fin 4) (p : Fin 8) (event gi : Nat) (pl : List (Nat × Nat × Nat)) : State :=
  let x := s.ue e
  if x.st.logged.contains (event, gi) then s
  else logEv (s.setUe e { x with st := { x.st with logged := (event, gi) :: x.st.logged } }) (0x0300 + e.val) event p.val
    (payload pl)

def setUeErr (s : State) (e : Fin 4) (bit : Nat) : State :=
  let x := s.ue e
  s.setUe e { x with regs := { x.regs with err := x.regs.err ||| BitVec.ofNat 4 (2 ^ bit) } }

def setUeFlag (s : State) (e : Fin 4) (bit : Nat) : State :=
  let x := s.ue e
  s.setUe e { x with st := { x.st with flags := x.st.flags ||| BitVec.ofNat 3 (2 ^ bit) } }

/-- The run's note that an update engine has applied a batt in the step (R414). -/
def noteApplied (s : State) (p : Fin 8) : State :=
  match (s.slot p).run with
  | none => s
  | some r => s.setSlot p { s.slot p with run := some { r with applied := true } }

-- One batt (R298 to R307)

/-- Memory spans that a batt reads: weights, moments, scale entries, H. -/
def battSpans (s : State) (e : Fin 4) (g : Bytes) (b : Nat) : List (Nat × Nat) :=
  let r := b - fieldU g 8 8
  let n := fieldU g 6 1
  [((s.ue e).regs.mw.toNat + 64 * b, 64)] ++ momentSpans (fieldU g 4 1) (fieldU g 64 8) (fieldU g 72 8) r ++
    momentSpans (fieldU g 5 1) (fieldU g 80 8) (fieldU g 88 8) r ++
    (if fieldU g 2 1 = 2 ∧ n ≠ 0 then [(fieldU g 96 8 + triBytes n * (32 * r / n), triBytes n * (32 / n))] else [])

/-- Whether any granule of a batt's operands is poisoned (R306). -/
def battPoisoned (s : State) (p : Fin 8) (e : Fin 4) (g : Bytes) (b : Nat) : Bool := (battSpans s e g b).any (fun x => pPoiAny s p x.1 x.2)

/-- A batt with a poisoned operand is skipped (R306). -/
def skipBatt (s : State) (p : Fin 8) (e : Fin 4) (gi : Nat) (step : W32) : State :=
  let x := s.ue e
  let s1 := s.setUe e { x with cnt := { x.cnt with skipped := x.cnt.skipped + 1 } }
  logUe (setUeFlag (setUeErr s1 e 1) e 0) e p 0x6003 gi [(0, 2, gi), (4, 4, step.toNat)]

/-- The group's step values, formed once in the step (R298). -/
def valsOf (s : State) (p : Fin 8) (i : Img) (e : Fin 4) (gi : Nat) (g : Bytes) (mult : Nat) : State × StepVals :=
  let x := s.ue e
  match x.st.vals.find? (fun v => v.1 == gi) with
  | some v => (s, v.2)
  | none =>
    let v := stepVals s p i g (stateEntry s p e gi) mult
    (s.setUe e { x with st := { x.st with vals := (gi, v) :: x.st.vals } }, v)

/-- A batt applied (R299 to R303): every weight, moment, H and view written; counts and events. -/
def applyBatt (s : State) (p : Fin 8) (i : Img) (e : Fin 4) (gi : Nat) (g : Bytes) (k : StepVals) (b : Nat) (step : W32) (gr : List Nat) :
    State :=
  let u := (s.ue e).regs
  let r := b - fieldU g 8 8
  let n := fieldU g 6 1
  let tag (o : Nat) : W32 := BitVec.ofNat 32 (streamTag i (fieldU g o 2))
  let wb := pRead s p (u.mw.toNat + 64 * b) 64
  let w := (List.range 32).map (fun j => code32 (decodeFp .bf16 fpBF16 (fieldU wb (2 * j) 2)).1)
  let hb := fieldU g 96 8 + triBytes n * (32 * r / n)
  let hs := if fieldU g 2 1 = 2 ∧ n ≠ 0 then (List.range (32 / n)).map (fun j => readTri (pRead s p (hb + triBytes n * j) (triBytes n)) n) else []
  let o := applyRule g k w (readMoments s p (fieldU g 4 1) (fieldU g 64 8) (fieldU g 72 8) r)
    (readMoments s p (fieldU g 5 1) (fieldU g 80 8) (fieldU g 88 8) r) gr hs
  let wc := storeBf16 u.seed (tag 56) step (32 * b) o.w
  let codes := wc.map Prod.fst
  let m1 := storeMoments u.seed (tag 58) step (fieldU g 4 1) (fieldU g 64 8) (fieldU g 72 8) r (32 * b) o.m
  let m2 := if fieldU g 2 1 = 0 then ([], 0, 0) else
    storeMoments u.seed (tag 60) step (fieldU g 5 1) (fieldU g 80 8) (fieldU g 88 8) r (32 * b) o.v
  let hw := (o.h.zipIdx).flatMap (fun (x : Tri × Nat) => wbytes (hb + triBytes n * x.2) ((x.1.flatten.map (natLe 4)).flatten) false)
  let vw := (List.range (fieldU g 7 1)).flatMap (fun j =>
    viewWrites (fieldU g (104 + j) 1) (fieldU g (112 + 16 * j) 8) (fieldU g (120 + 16 * j) 8) r codes)
  let nans := (o.w.filter (fun x => (dec32 x).1.isNan)).length + m1.2.2 + m2.2.2 +
    (o.h.flatten.flatten.filter (fun x => (dec32 x).1.isNan)).length
  let s1 := pCommit s p (wbytes (u.mw.toNat + 64 * b) ((codes.map (natLe 2)).flatten) false ++ m1.1 ++ m2.1 ++ hw ++ vw)
  let x := s1.ue e
  let fails := (alGet x.fails gi).getD 0 + o.fell
  let s2 := s1.setUe e { x with
    cnt := { x.cnt with
      applied := x.cnt.applied + 32, fallbacks := x.cnt.fallbacks + BitVec.ofNat 64 o.fell, nan := x.cnt.nan + BitVec.ofNat 64 nans
      sat := x.cnt.sat + BitVec.ofNat 64 ((wc.filter (fun y => y.2)).length + m1.2.1 + m2.2.1) }
    st := { x.st with
      wrote := codes.zipIdx.foldl (fun (l : List (Nat × Nat)) (y : Nat × Nat) => alPut l (32 * b + y.2) (some y.1)) x.st.wrote }
    fails := if o.fell = 0 then x.fails else alPut x.fails gi (some fails) }
  let s3 := countOp (noteApplied s2 p) p (16 * 5 + fieldU g 4 1) 32
  let s4 := if o.fell = 0 then s3 else logUe (setUeFlag (setUeErr s3 e 2) e 2) e p 0x6002 gi [(0, 2, gi), (4, 4, step.toNat), (8, 4, fails)]
  if nans = 0 then s4 else logUe (setUeFlag (setUeErr s4 e 3) e 1) e p 0x6004 gi []

-- Chunks (R304, R305)

/-- The first batt of a chunk whose group's counter check fails, with its group and LAST (R304). -/
def counterFault (s : State) (p : Fin 8) (e : Fin 4) (c : UChunk) : Option (Nat × Nat) :=
  (List.range c.batts.length).findSome? (fun j =>
    match groupOf s p e (c.batt + j) with
    | none => none
    | some (gi, g) =>
      let last := fieldU (stateEntry s p e gi) 0 4
      if heldBack g c.step || BitVec.ofNat 32 last == c.step - 1 then none else some (gi, last))

/-- Removes the chunk at the front of an engine; `dead` marks its collective as one that never completes. -/
def dropChunk (s : State) (e : Fin 4) (c : UChunk) : State :=
  let x := s.ue e
  s.setUe e { x with st := { x.st with inbox := x.st.inbox.drop 1, dead := (c.col.val, c.entry) :: x.st.dead } }

/-- A chunk is parked (R304): the engine enters DISCORD, and recovery of the partition follows (R409). -/
def parkChunk (s : State) (p : Fin 8) (e : Fin 4) (c : UChunk) (gi reason last : Nat) : State :=
  let s1 := setUeErr (dropChunk s e c) e 0
  let x := s1.ue e
  let first := match groupOf s p e c.batt with | some (i, _) => i | none => gi
  let s2 := s1.setUe e { x with regs := { x.regs with
    state := 3, parkStep := c.step, parkGroup := BitVec.ofNat 16 first, parkWhy := BitVec.ofNat 8 reason } }
  let s3 := logEv s2 (0x0300 + e.val) 0x6001 p.val (payload [(0, 2, gi), (2, 1, reason), (3, 1, e.val), (4, 4, c.step.toNat), (8, 4, last)])
  raiseRecovery s3 p 2 (stepNow s3 p)

/-- The first batt of a checked chunk: held back, skipped or applied. -/
def takeBatt (s : State) (p : Fin 8) (i : Img) (e : Fin 4) (c : UChunk) (gr : List Nat × Bool) (rest : List (List Nat × Bool)) : State :=
  let x := s.ue e
  let inbox := if rest.isEmpty then x.st.inbox.drop 1
    else { c with batt := c.batt + 1, batts := rest, checked := true } :: x.st.inbox.drop 1
  let s1 := s.setUe e { x with st := { x.st with inbox := inbox } }
  match groupOf s1 p e c.batt with
  | none => s1
  | some (gi, g) =>
    if heldBack g c.step then s1 else
    let y := s1.ue e
    let s2 := s1.setUe e { y with st := { y.st with recv := nsSet y.st.recv gi true } }
    let v := valsOf s2 p i e gi g c.mult
    if gr.2 || battPoisoned v.1 p e g c.batt then skipBatt v.1 p e gi c.step
    else applyBatt v.1 p i e gi g v.2 c.batt c.step gr.1

/-- BATT_RECEIVE: the batt at the front of an engine. A chunk is checked as a whole before its first batt, so that nothing of a parked
chunk is applied. -/
def execBattReceive (t : Nat) (e : Fin 4) (s : State) : Answer :=
  let s1 := tick t s
  match enginePart s1 e, (s1.ue e).st.inbox with
  | some (p, i), c :: _ =>
    let x := s1.ue e
    if x.regs.state = 3 then
      .next (dropChunk (s1.setUe e { x with cnt := { x.cnt with discards := x.cnt.discards + 1 } }) e c)
    else
      let bad : Option (Nat × Nat × Nat) :=
        if c.checked then none
        else if c.discord then
          match groupOf s1 p e c.batt with
          | some (gi, _) => some (gi, 1, fieldU (stateEntry s1 p e gi) 0 4)
          | none => some (0, 1, 0)
        else (counterFault s1 p e c).map (fun y => (y.1, 2, y.2))
      match bad with
      | some (gi, why, last) => .next (parkChunk s1 p e c gi why last)
      | none =>
        match c.batts with
        | [] => .next (s1.setUe e { x with st := { x.st with inbox := x.st.inbox.drop 1 } })
        | b :: rest => .next (takeBatt s1 p i e c b rest)
  | _, _ => .next s1

-- Closing a step (R308 to R310)

/-- One byte through CRC-64/ECMA-182, most significant bit first (R309). -/
def crc64Bit (c : Nat) : Nat := let x := 2 * c % 2 ^ 64; if 2 ^ 63 ≤ c then Nat.xor x 0x42F0E1EBA9EA3693 else x

def crc64Byte (c : Nat) (b : Byte) : Nat :=
  crc64Bit (crc64Bit (crc64Bit (crc64Bit (crc64Bit (crc64Bit (crc64Bit (crc64Bit (Nat.xor c (b.toNat * 2 ^ 56)))))))))

def crc64 (b : Bytes) : Nat := b.foldl crc64Byte 0

/-- DEST = 1 collectives of the partition that name engine u: engine and entry (R308). -/
def closers (s : State) (p : Fin 8) (i : Img) (u : Fin 4) : List (Nat × Nat) :=
  (imgUes i).flatMap (fun e => (List.range (s.col e).count.toNat).filterMap (fun k =>
    let d := fieldU (schedDesc s p e k) 9 1
    if d % 16 = 1 ∧ d / 16 = u.val then some (e.val, k) else none))

/-- The state table entries of the groups received (R308). -/
def closeGroups (s : State) (p : Fin 8) (e : Fin 4) (step : W32) : State :=
  (s.ue e).st.recv.foldl (fun (t : State) gi =>
    let old := stateEntry t p e gi
    match (t.ue e).st.vals.find? (fun v => v.1 == gi) with
    | none => t
    | some v => pWrite t p (stateAddr t e gi)
        (natLe 4 step.toNat ++ natLe 4 (fieldU old 4 4 + 1) ++ natLe 4 v.2.b1t ++ natLe 4 v.2.b2t) false) s

/-- The weights that the partition's engines wrote in the step, by ascending index (R309). -/
def stepWrites (s : State) (i : Img) : List (Nat × Nat) :=
  (imgUes i).foldl (fun (l : List (Nat × Nat)) e => (s.ue e).st.wrote.foldl (fun (m : List (Nat × Nat)) x => alPut m x.1 (some x.2)) l) []

/-- The last engine to close reads the loss and writes the digest record; every engine latches the digest (R308 to R310). The digest goes
to the partner (R401); a step that skipped poisoned batts raises recovery (R409). -/
def closeStep (s : State) (p : Fin 8) (i : Img) (e : Fin 4) (step : W32) : State :=
  let u := (s.ue e).regs
  let loss := pU32 s p u.loss.toNat
  let ws := stepWrites s i
  let d := crc64 ((ws.map (fun x => natLe 2 x.2)).flatten ++ natLe 4 loss)
  let flags := (imgUes i).foldl (fun (f : Nat) x => f ||| (s.ue x).st.flags.toNat) 0
  let rec0 := natLe 4 step.toNat ++ natLe 4 flags ++ natLe 8 d ++ natLe 4 loss ++ zeroB 4 ++ natLe 8 ws.length
  let s1 := pWrite s p (u.drec.toNat + 32 * (step.toNat % 4)) rec0 false
  let s2 := (imgUes i).foldl (fun (t : State) x => t.setUe x { t.ue x with regs := { (t.ue x).regs with digest := BitVec.ofNat 64 d } }) s1
  let s3 := ownDigest s2 p step.toNat (BitVec.ofNat 64 d) loss flags
  if bitAt flags 0 then raiseRecovery s3 p 4 step.toNat else s3

/-- CLOSE (R308): every DEST = 1 collective that names the engine has completed. -/
def execClose (t : Nat) (e : Fin 4) (s : State) : Answer :=
  let s1 := tick t s
  match enginePart s1 e with
  | none => .next s1
  | some (p, i) =>
    let x := s1.ue e
    if x.regs.state = 1 ∧ (closers s1 p i e).all (fun c => x.st.dones.contains c) = true then
      let step := (s1.col e).step
      let s2 := closeGroups s1 p e step
      let s3 := s2.setUe e { s2.ue e with regs := { (s2.ue e).regs with state := 2 } }
      if (imgUes i).all (fun u => (s3.ue u).regs.state == 2) then .next (closeStep s3 p i e step) else .next s3
    else .next s1

-- Registers

/-- UPD_CTRL.CLR_DISCORD (R314). -/
def clrDiscord (s : State) (who : Requester) (e : Fin 4) : State :=
  let x := s.ue e
  if engWriter who && ueOn s e && x.regs.state == 3 then
    s.setUe e { x with regs := { x.regs with state := 0, parkStep := 0, parkGroup := 0, parkWhy := 0 } }
  else s

def execUpdCtrlClrDiscord (t : Nat) (who : Requester) (e : Fin 4) (s : State) : Answer := .next (clrDiscord (tick t s) who e)

/-- A write of UPD_SEED (R11, R314, R316): SEED_VALID is set when the upper half is written. -/
def updSeedWrite (s : State) (who : Requester) (e : Fin 4) (part : RegPart) (val : W64) : State :=
  if !engWriter who || !ueOn s e then s else
  let r := halfWrite s (csrBase + 0x4000000 + e.val * 0x10000 + 0x40) who part val 0 false
  match r.2 with
  | none => r.1
  | some v =>
    let x := r.1.ue e
    r.1.setUe e { x with regs := { x.regs with seed := v, seedValid := true } }

def execUpdSeed (t : Nat) (who : Requester) (e : Fin 4) (part : RegPart) (val : W64) (s : State) : Answer :=
  .next (updSeedWrite (tick t s) who e part val)

end Sys2Proof.Machine
end

