-- ==== Sys2Proof/Machine/StepOps.lean ====
section
/-! DEFINITION. What happens at and between step boundaries (R28): the shard state and its checkpoints (R404 to R408), B4, the end of a
boundary, B5 with its wake hints (R402, R448, R449), parking (R379), shared by the tickets, the twin and the loader. -/

namespace Sys2Proof.Machine

-- The shard state (R404)

/-- UPD_PTRS value k of a PARTITION section, aligned as R316 gives: 0 STATE, 1 MW, 2 RATE, 3 LOSS, 4 DREC. -/
def updPtr (part : Bytes) (k : Nat) : Nat :=
  let a := [16, 64, 4, 4, 128].getD k 1
  fieldU part (48 + 8 * k) 8 % 2 ^ 48 / a * a

def imgGroups (i : Img) : List Bytes := (List.range (i.groups.length / 160)).map (fun g => sliceB i.groups (160 * g) 160)

/-- Parameter batts of the pieces that this package owns of the DEST = 1 collectives (R276, R293), as first batt and number. -/
def ownedBatts (i : Img) : List (Nat × Nat) :=
  i.scheds.flatMap (fun x => (List.range (x.2.2.length / 128)).filterMap (fun k =>
    let d := sliceB x.2.2 (128 * k) 128
    if fieldU d 9 1 % 16 = 1 then
      let g := geoOf i d
      some ((fieldU d 32 8 + g.own.1) / 32, g.own.2 / 32)
    else none))

/-- Owned batts of a group, ascending. -/
def groupBatts (i : Img) (g : Bytes) : List Nat :=
  let lo := fieldU g 8 8
  let hi := fieldU g 16 8
  let own := ownedBatts i
  (List.range (hi + 1 - lo)).filterMap (fun k => if own.any (fun x => decide (x.1 ≤ lo + k) && decide (lo + k < x.1 + x.2)) then some (lo + k) else none)

/-- Addresses and lengths of the shard state, in order. -/
def shardSpans (i : Img) : List (Nat × Nat) :=
  let gs := imgGroups i
  let last := match gs.getLast? with | some g => 64 * (fieldU g 16 8 + 1) | none => 0
  let n := nLayer i
  let batt (g : Bytes) (b : Nat) : List (Nat × Nat) :=
    let r := b - fieldU g 8 8
    let m := fieldU g 6 1
    momentSpans (fieldU g 4 1) (fieldU g 64 8) (fieldU g 72 8) r ++ momentSpans (fieldU g 5 1) (fieldU g 80 8) (fieldU g 88 8) r ++
      (if fieldU g 2 1 = 2 ∧ m ≠ 0 then [(fieldU g 96 8 + triBytes m * (32 * r / m), triBytes m * (32 / m))] else [])
  (updPtr i.part 1, last) :: gs.flatMap (fun g => (groupBatts i g).flatMap (batt g)) ++
    (imgUes i).map (fun _ => (updPtr i.part 0, 16 * gs.length)) ++
    [(policyBase i, n), (policyBase i + 0x1000, 8 * n), (policyBase i + 0x10000, 256 * n), (plAddr i, 64)]

def readShard (s : State) (p : Fin 8) (i : Img) : Marked :=
  { bytes := ((shardSpans i).map (fun x => pRead s p x.1 x.2)).flatten
    poison := poisonOf ((shardSpans i).flatMap (fun x => (span x.1 x.2).map (pPoi s p))) }

def shardSize (i : Img) : Nat := ((shardSpans i).map Prod.snd).sum

/-- The shard state written back from a checkpoint, from an offset on, with its poison (R240). -/
def writeSpans (s : State) (p : Fin 8) (b : Marked) : Nat → List (Nat × Nat) → State
  | _, [] => s
  | o, x :: r => writeSpans (pCommit s p (markedBytes x.1 b o x.2)) p b (o + x.2) r

/-- Views of the owned batts regenerated from the weights (R303, R404). -/
def regenViews (s : State) (p : Fin 8) (i : Img) : State :=
  (imgGroups i).foldl (fun (t : State) g =>
    if fieldU g 7 1 = 0 then t else
    (groupBatts i g).foldl (fun (u : State) b =>
      let w := pRead u p (updPtr i.part 1 + 64 * b) 64
      let codes := (List.range 32).map (fun j => fieldU w (2 * j) 2)
      pCommit u p ((List.range (fieldU g 7 1)).flatMap (fun j =>
        viewWrites (fieldU g (104 + j) 1) (fieldU g (112 + 16 * j) 8) (fieldU g (120 + 16 * j) 8) (b - fieldU g 8 8) codes))) t) s

-- Checkpoints (R405 to R408)

/-- The 4 KiB header; flags: bit 0 COMPLETE, bit 1 AGREED, bit 2 SOLO. -/
def ckptHeader (i : Img) (p : Fin 8) (flags step : Nat) (shard : Bytes) : Bytes :=
  natLe 4 0x4B43594B ++ natLe 2 1 ++ natLe 1 p.val ++ natLe 1 flags ++ natLe 4 step ++ natLe 2 (ownPkg i) ++ zeroB 2 ++ natLe 8 shard.length ++
    sliceB i.finger 0 48 ++ sha384 shard ++ zeroB 3976

/-- A checkpoint: its header, then the shard state with its poison. -/
def ckptOf (i : Img) (p : Fin 8) (flags step : Nat) (shard : Marked) : Marked :=
  { bytes := ckptHeader i p flags step shard.bytes ++ shard.bytes, poison := shard.poison.map (fun k => k + 128) }

/-- Whether bytes are a usable checkpoint of the partition (R408). -/
def ckptUsable (i : Img) (p : Fin 8) (b : Bytes) : Bool :=
  let n := fieldU b 16 8
  decide (4096 ≤ b.length) && fieldU b 0 4 == 0x4B43594B && fieldU b 4 2 == 1 && fieldU b 6 1 == p.val && fieldU b 7 1 % 4 == 3 &&
    fieldU b 12 2 == ownPkg i && sliceB b 24 48 == sliceB i.finger 0 48 && n == shardSize i && decide (4096 + n ≤ b.length) &&
    sliceB b 72 48 == sha384 (sliceB b 4096 n)

/-- The buddy port: the lowest-numbered port with ROLE 3 or 4 (R406). -/
def buddyPort (s : State) (p : Fin 8) : Option (Fin 16) := (portsWith s p (fun r => r == 3 || r == 4)).head?

/-- The buddy slot that does not hold the newest AGREED checkpoint (R407). -/
def nextSlot (k : Ckpt) : Nat :=
  let age (x : Option BuddySlot) : Nat := match x with
    | some b => if b.complete && b.agreed then b.step + 1 else 0
    | none => 0
  if age (k.slots.get 0) ≤ age (k.slots.get 1) then 0 else 1

/-- A checkpoint of the boundary after step c opens (R407): its bytes are the shard state as it stands now. -/
def openCkpt (s : State) (p : Fin 8) (i : Img) (c : Nat) (ticket : Option Nat) (memory : Option Nat) : State :=
  let k := (s.slot p).ck
  let sl := nextSlot k
  let slots := match memory with
    | none => if sl = 0 then vset k.slots 0 none else vset k.slots 1 none
    | some _ => k.slots
  let mems := match memory with
    | none => k.mems
    | some a => k.mems.filter (fun m => m.1 != a)
  let st : CkStream := { ticket := ticket, memory := memory, slot := sl, step := c, shard := readShard s p i }
  let k1 := { k with slots := slots, mems := mems, stream := some st }
  let s1 := s.setSlot p { s.slot p with ck := { k1 with handle := agreedHandle k1 } }
  match ticket with | some n => beginTicket s1 p n | none => s1

/-- A CHECKPOINT ticket carried out now (R380, R407). A target that cannot be written is refused: DENIED where the memory range is not the
partition's, FAILED where the peer hosts no slots. -/
def ckptTicket (s : State) (p : Fin 8) (t : Ticket) (c : Nat) : State :=
  match (s.slot p).img with
  | none => answer s p t stState 0 0
  | some i =>
    let a := fieldU t.raw 24 8
    if (s.slot p).ck.stream.isSome then s
    else if fieldU t.raw 16 1 = 1 then
      if a < dramEnd ∧ partOwns s p a (4096 + shardSize i) = true then openCkpt s p i c (some t.num) (some a) else answer s p t stDenied 0 0
    else if (s.slot p).ck.hosted then openCkpt s p i c (some t.num) none
    else answer (logEv s 0x0702 0xB00B p.val (payload [])) p t stFailed 0x0300 0

/-- B4 of the boundary after step c: a CHECKPOINT ticket whose turn has come, or an automatic buddy checkpoint. -/
def stageB4 (s : State) (p : Fin 8) (c : Nat) : State :=
  match turnOf s p 4 with
  | some t => ckptTicket s p t c
  | none =>
    let k := s.slot p
    let n := k.twin.ckint.toNat
    match k.img with
    | none => s
    | some i => if n ≠ 0 ∧ c % n = 0 ∧ k.ck.hosted = true ∧ k.ck.stream.isNone = true then openCkpt s p i c none none else s

/-- A stream has completed (R407): COMPLETE is set last, after the bytes; AGREED at once where the bound has reached the step or the
partition is UNPAIRED or SOLO. A memory checkpoint is written at its address; a buddy checkpoint leaves in BULK flits over the buddy port
(R264). -/
def closeCkpt (s : State) (p : Fin 8) : State :=
  match (s.slot p).img, (s.slot p).ck.stream with
  | some i, some x =>
    let w := (s.slot p).twin
    let alone := w.st == .unpaired || w.st == .solo || w.st == .rebuild
    let agreed := alone || decide ((x.step : Int) ≤ w.v)
    let flags := 1 + (if agreed then 2 else 0) + (if alone then 4 else 0)
    let b := ckptOf i p flags x.step x.shard
    let s1 := match x.memory with
      | some a => pCommit s p (markedBytes a b 0 b.bytes.length)
      | none => match buddyPort s p with
        | some q => sendMsg s q 6 2 b.bytes b.poison
        | none => s
    let k := (s1.slot p).ck
    let bs : Option BuddySlot := some { step := x.step, complete := true, agreed := agreed, solo := alone }
    let k1 := match x.memory with
      | some a => { k with mems := (a, x.step, agreed) :: k.mems.filter (fun m => m.1 != a), stream := none }
      | none => { k with slots := if x.slot = 0 then vset k.slots 0 bs else vset k.slots 1 bs, stream := none }
    let s2 := logEv (s1.setSlot p { s1.slot p with ck := { k1 with handle := agreedHandle k1 } }) 0x0702 0xB00A p.val (payload [(4, 4, x.step)])
    match x.ticket with
    | none => s2
    | some n => match findTicket s2 p n with
      | some t => answer s2 p t stDone 0 (match x.memory with | some a => memHandle a | none => buddyHandle x.slot x.step)
      | none => s2
  | _, _ => s

/-- The engines of a partition at their image values, idle (R355, R411). Counters stay. -/
def imageEngine (s : State) (p : Fin 8) (i : Img) (e : Fin 4) : State :=
  if !ueOn s e then s else
  let k := s.col e
  let x := s.ue e
  let sc := i.scheds.find? (fun y => y.1 == e.val)
  let wait := fieldU i.part 44 4
  let s1 := s.setCol e { k with
    state := 0, fly := [], next := 0, past := [], dupLog := []
    timeout := if wait = 0 then 100000 else BitVec.ofNat 24 wait
    base := BitVec.ofNat 41 (match sc with | some y => y.2.1 / 128 | none => 0)
    count := BitVec.ofNat 16 (match sc with | some y => y.2.2.length / 128 | none => 0) }
  s1.setUe e { x with
    regs := { x.regs with
      state := 0, parkStep := 0, parkGroup := 0, parkWhy := 0, seed := runSeed i, seedValid := true, assigned := true
      part := BitVec.ofNat 3 p.val, gcount := BitVec.ofNat 17 (i.groups.length / 160), gtab := BitVec.ofNat 48 (i.gtab / 256 * 256)
      stab := BitVec.ofNat 48 (updPtr i.part 0), mw := BitVec.ofNat 48 (updPtr i.part 1), rate := BitVec.ofNat 48 (updPtr i.part 2)
      loss := BitVec.ofNat 48 (updPtr i.part 3), drec := BitVec.ofNat 48 (updPtr i.part 4) }
    st := UeStep.reset }

def imageEngines (s : State) (p : Fin 8) (i : Img) : State := (imgUes i).foldl (fun (t : State) e => imageEngine t p i e) s

/-- A checkpoint restored (R411): the shard state, the regenerated views, the engines, STEP. -/
def restoreCkpt (s : State) (p : Fin 8) (i : Img) (b : Marked) : State :=
  let s1 := regenViews (writeSpans s p b 4096 (shardSpans i)) p i
  let s2 := imageEngines s1 p i
  syncHdr (setLed s2 p { (s2.slot p).led with step := BitVec.ofNat 32 (fieldU b.bytes 8 4) }) p

-- The end of a boundary (R28, R380)

/-- B4 of the boundary after step c, then the end of the RUN, a pause before B5, or B5 (R28, R380). -/
def finishBoundary (s : State) (p : Fin 8) (c : Nat) : State :=
  let s1 := stageB4 s p c
  match (s1.slot p).run with
  | none => s1
  | some r =>
    if r.left = 0 then endRun s1 p stDone 0 .idle
    else
      let s2 := s1.setSlot p { s1.slot p with run := some { r with stage := .atB5, dueAt := s1.now } }
      match (s2.slot p).pauseNum with
      | none => s2
      | some n =>
        let s3 := s2.setSlot p { s2.slot p with pauseNum := none }
        let s4 := match findTicket s3 p n with | some t => answer s3 p t stDone 0 c | none => s3
        setPState s4 p .paused

-- B5 (R28, R152, R402, R448, R449)

/-- Entries of the WAKE section (R447). -/
def wakeEntry (i : Img) (n : Nat) : Bytes := sliceB i.wake (24 * n) 24
def wakeN (i : Img) : Nat := i.wake.length / 24

/-- Whether an entry applies in a step. -/
def wakeApplies (e : Bytes) (step : Nat) : Bool := fieldU e 16 2 == 0 || step % fieldU e 16 2 == fieldU e 18 2

/-- Physical clusters that an entry targets. -/
def wakeTargets (s : State) (p : Fin 8) (e : Bytes) : List (Fin 64) :=
  ((s.slot p).asg.cmap.zipIdx).filterMap (fun (x : Fin 64 × Nat) => if bitAt (fieldU e 8 8) x.2 then some x.1 else none)

/-- Powers the targets of the WAKE_AT_GO entries that apply in a step (R27, R448). -/
def wakeAtGo (s : State) (p : Fin 8) (i : Img) (step : Nat) : State :=
  (List.range (wakeN i)).foldl (fun (t : State) n =>
    let e := wakeEntry i n
    if fieldU e 0 1 = 1 ∧ wakeApplies e step = true then (wakeTargets t p e).foldl wantCl t else t) s

/-- The counter bank snapshot of the first GO of a RUN (R508). -/
def snapshotBank (s : State) (p : Fin 8) (num : Nat) : State :=
  let o := (s.slot p).obs
  s.setSlot p { s.slot p with obs := { o with
    closed := o.live, tag := o.liveNum, gen := o.gen + 1, live := Vector.replicate 96 0, liveNum := BitVec.ofNat 64 num } }

/-- Whether the verified bound lets step start (R402); without a pair step it does. -/
def twinLets (w : Twin) (step : Nat) : Bool :=
  w.st != .paired || (match w.pairStep with | none => true | some _ => decide ((step : Int) ≤ w.v + 3))

/-- The step starts (R28, R152, R274): the bank snapshot, COL_STEP and the update engines, SEQ_STEP and GO. -/
def startStep (s : State) (p : Fin 8) (i : Img) (r : Run) : State :=
  let k := s.slot p
  let s0 := if r.started then s else snapshotBank s p r.num
  let w := k.twin
  let s1 := if w.st = .paired ∧ w.pairStep.isNone = true then setTwin s0 p { w with pairStep := some r.step, v := (r.step : Int) - 1 } else s0
  let s2 := s1.setSlot p { s1.slot p with run := some { r with stage := .inStep, started := true, applied := false }, slack := [], hints := [] }
  let s3 := setPState s2 p .running
  let s4 := (imgUes i).foldl (fun (t : State) e => colStepWrite t .sched e (BitVec.ofNat 32 r.step)) s3
  k.asg.cmap.foldl (fun (t : State) c =>
    let x := t.cl c
    goCluster (t.setCl c { x with sreg := { x.sreg with step := BitVec.ofNat 32 r.step } }) c) s4

end Sys2Proof.Machine
end

