-- ==== Sys2Proof/Machine/LoadOps.lean ====
section
/-! DEFINITION. What the image loader does with an accepted image (R349 to R359, R474): resources, training, keys, LOAD_AREA, the checks in
order, programming, measurement; and what a slot gives back (R380). -/

namespace Sys2Proof.Machine

-- Images

/-- What the loader keeps of an image. -/
def imgOfBytes (b : Bytes) : Img :=
  { imageId := imgIdent b, digest := imgDigest b, keyDigest := imgKeyDigest b
    finger := sha384 (((imgDir b).filter (fun x => dirType x.2 != 8)).map (fun x => sliceB x.2 24 40)).flatten
    loadArea := imgArea b, total := imgTotal b, part := imgData b 1, clusters := imgData b 3, layers := imgData b 4
    ladders := imgData b 5, streams := imgData b 6, groups := imgData b 7, links := imgData b 8, barriers := imgData b 10
    symbols := imgData b 11, wake := imgData b 12
    scheds := (imgAll b 9).map (fun x => (fieldU x.2.1 22 2 % 16, dirDest x.2.1, x.2.2))
    gtab := match imgAll b 7 with | x :: _ => dirDest x.2.1 | [] => 0
    dests := ((imgDir b).filter (fun x => hasDest (dirType x.2))).map (fun x => (dirDest x.2, dirSize x.2)) }

/-- Bytes of the host range as the loader reads them, with their poison; beyond it they read as zero. -/
def loaderRead (s : State) (a n : Nat) : Marked :=
  { bytes := (span a n).map (fun x => if x < hostSize s then devGet s x else 0)
    poison := poisonOf ((span a n).map (fun x => decide (x < hostSize s) && devPoi s x)) }

/-- The image that a LOAD ticket names: the header, and where it is sound the whole image. -/
def readImage (s : State) (a : Nat) : Marked :=
  let h := loaderRead s a 64
  if headerOk h.bytes then loaderRead s a (imgTotal h.bytes) else h


/-- The bytes after the PARTITION section written into LOAD_AREA at their image offsets (R352). -/
def writeLoadArea (s : State) (p : Fin 8) (m : Marked) : State :=
  let e := sliceB m.bytes 64 64
  let o := dirOff e + dirSize e
  pCommit s p (markedBytes (imgArea m.bytes + o) m o (m.bytes.length - o))

-- Programming (R355)

/-- Whether a claimed cluster or an allocation needs the spine pool of die d. -/
def needsSpine (a : Assign) (d : Fin 2) : Bool := a.cmap.any (fun c => clDie c == d) || decide (0 < (if d = 0 then a.spine0.2 else a.spine1.2))

/-- Step 3: the claimed LG_ and UE_ domains and the spine pools; ports of a domain that is on already leave OFF (R268). -/
def wantDomains (s : State) (p : Fin 8) (i : Img) : State :=
  let ports := fieldU i.part 28 2
  let s1 := (List.range 8).foldl (fun (t : State) g => if bitsAt ports (2 * g) 2 = 0 then t else wantOn t (76 + g)) s
  let s2 := (imgUes i).foldl (fun (t : State) e => wantOn t (84 + e.val)) s1
  let s3 := (List.finRange 2).foldl (fun (t : State) d => if needsSpine (t.slot p).asg d then wantOn t (64 + d.val) else t) s2
  (List.finRange 16).foldl (fun (t : State) q => if bitAt ports q.val then startPort t q else t) s3

/-- Clusters that the loader has powered: all without a WAKE section, the targets of WAKE_AT_GO with one (R446, R448). -/
def wantClusters (s : State) (p : Fin 8) (i : Img) : State :=
  if i.wake.isEmpty then (s.slot p).asg.cmap.foldl wantCl s
  else (List.range (wakeN i)).foldl (fun (t : State) n =>
    let e := wakeEntry i n
    if fieldU e 0 1 = 1 then (wakeTargets t p e).foldl wantCl t else t) s

/-- The measurement of an accepted image (R474). -/
def measureImage (s : State) (p : Fin 8) (i : Img) (kind : Nat) : State :=
  let d := sha384 (i.digest ++ i.keyDigest ++ natLe 8 i.imageId ++ natLe 1 kind)
  let m := if kind = 0 then
      extend (zeroB 48) (match s.sec.tenants.get p with | some x => sha384 x.pub | none => zeroB 48)
    else s.sec.measP.get p
  { s with sec := { s.sec with measP := vset s.sec.measP p (extend m d) } }

/-- A full load ends in IDLE; a slot whose lease has lapsed meanwhile stays PARKED and leaves it for IDLE (R351, R363, R379). -/
def loadedState (s : State) (p : Fin 8) : State :=
  if (s.slot p).st = .parked then s.setSlot p { s.slot p with parkFrom := .idle } else setPState s p .idle

/-- Steps 1 to 6 of R355 for an image whose checks have passed. -/
def programImage (s : State) (p : Fin 8) (t : Ticket) (m : Marked) : State :=
  let b := m.bytes
  let i := imgOfBytes b
  let full := decide (imgKind b = 0)
  let s0 := s.setSlot p { s.slot p with img := some i }
  let s1 := ((imgDir b).filter (fun x => hasDest (dirType x.2))).foldl (fun (u : State) x =>
    pCommit u p (markedBytes (dirDest x.2) m (dirOff x.2) (dirSize x.2))) s0
  let s2 := imageEngines s1 p i
  let s3 := if full then wantClusters (wantDomains s2 p i) p i else s2
  let s4 := (s3.slot p).asg.cmap.foldl (fun (u : State) c => if clOn u c then writeImage u c else u) s3
  let s5 := measureImage s4 p i (imgKind b)
  let o := (s5.slot p).obs
  let w := (s5.slot p).twin
  let s6 := if full then
      s5.setSlot p { s5.slot p with
        obs := { o with live := Vector.replicate 96 0, closed := Vector.replicate 96 0, tag := 0, gen := 0, liveNum := 0 }
        twin := { Twin.reset with cause := w.cause, gen := w.gen, ckint := w.ckint, silence := w.silence }, ck := Ckpt.reset }
    else s5
  let s7 := if full then loadedState s6 p else s6
  let s8 := logEv s7 0x0700 0xD001 p.val (payload [(0, 1, p.val), (1, 1, imgKind b), (8, 8, i.imageId)])
  answer { s8 with sched := { s8.sched with job := none } } p t stDone 0 i.imageId

-- Rejections and the late checks (R353, R356)

/-- A load that fails with a reason: a full load is undone. -/
def failLoad (s : State) (p : Fin 8) (t : Ticket) (j : LoadJob) (reason dir : Nat) : State :=
  let s1 := if j.full then undoLoad s j else s
  rejectLoadAuth { s1 with sched := { s1.sched with job := none } } p t reason dir j.image

/-- Checks 4 to 10 in order: the reason and the directory index of the first that fails. -/
def lateChecks (s : State) (p : Fin 8) (b : Bytes) (v : SigVerdict) : Option (Nat × Nat) :=
  match digestBad b with
  | some d => some (3, d)
  | none =>
    if !v.ecdsaOk || !v.hssOk then some (4, 0xFF)
    else if !keyAuthorised s p (imgKeyDigest b) then some (5, 0xFF)
    else if revisionBad s b then some (6, 0xFF)
    else match sectionBad b with
      | some d => some (9, d)
      | none =>
        if programBad s p b then some (10, imgIdx b 2)
        else if imgKind b = 0 then none
        else match (s.slot p).img with
          | none => none
          | some i => (partialBad i b).map (fun d => (11, d))

/-- A full load from key installation on. -/
def finishFull (s : State) (j : LoadJob) : State :=
  match findTicket s j.slot j.num with
  | none => { s with sched := { s.sched with job := none } }
  | some t =>
    let s1 := writeLoadArea (installKeys s (j.slot.castLE (by decide))) j.slot j.marked
    match lateChecks s1 j.slot j.image j.verdict with
    | some (r, d) => failLoad s1 j.slot t j r d
    | none => programImage s1 j.slot t j.marked

-- The early part of a load (R351 to R353)

/-- The groups of a claim powered and trained; those that were off, and whether all of them work. -/
def trainClaim (s : State) (pkgs : Nat) (trained : List Training) : State × List (Fin 8) × Bool :=
  let how (g : Fin 8) : Option Training := trained.find? (fun x => x.group == g)
  (pkgGroups pkgs).foldl (fun (acc : State × List (Fin 8) × Bool) g =>
    let s0 := acc.1
    let off := !mgOn s0 g
    let s1 := if off then powerUpMg s0 g else s0
    let s2 := if (s1.mg g).trained then s1 else trainMg s1 g ((how g).map Training.rate) (match how g with | some x => x.bad | none => 0)
    (s2, if off then acc.2.1 ++ [g] else acc.2.1, acc.2.2 && (s2.mg g).trained)) (s, [], true)

/-- The owner ranges that a full load replaces, as they stand: its own slot's, and those of slots without an image that it meets. -/
def replacedRanges (s : State) (p : Fin 8) (part : Bytes) : List (Fin 9 × Option Owner) :=
  (List.finRange 8).filterMap (fun q =>
    let i : Fin 9 := q.castLE (by decide)
    let o := s.mem.owners.get i
    let met : Bool := (s.slot q).img.isNone && (match o with
      | some x => overlaps (fieldU part 16 8) (claimSize part) x.base x.size
      | none => false)
    if q = p ∨ met = true then some (i, o) else none)

/-- Resources of a full load: clusters, spine pool, channels, the owner range without keys, in place of the ranges that it meets. -/
def takeResources (s : State) (p : Fin 8) (a : Assign) (part : Bytes) : State :=
  let s1 := (replacedRanges s p part).foldl (fun (t : State) x => setOwnerRange t x.1 none) s
  let s2 := claimChans s1 (p.castLE (by decide)) (claimPkgs part) (claimParity part)
  setOwnerRange (s2.setSlot p { s2.slot p with asg := a }) (p.castLE (by decide))
    (some { base := fieldU part 16 8, chans := claimChansOf part, key := none })

/-- A full load after checks 1 to 3 without training. -/
def beginFull (s : State) (p : Fin 8) (t : Ticket) (j0 : LoadJob) (trained : List Training) : State :=
  let b := j0.image
  let part := imgData b 1
  match assignFor s p part with
  | none => failLoad s p t j0 8 (imgIdx b 1)
  | some a =>
    let x := trainClaim s (claimPkgs part) trained
    let j1 := { j0 with full := true, powered := x.2.1, before := replacedRanges x.1 p part }
    let s1 := takeResources x.1 p a part
    if !x.2.2 then failLoad s1 p t j1 8 (imgIdx b 1)
    else if alarmLevel s1 ≠ 0 then { s1 with sched := { s1.sched with job := some { j1 with waitFrom := some s1.now } } }
    else finishFull s1 j1

/-- A partial reload: checked at once, applied once the partition has quiesced. -/
def beginPartial (s : State) (p : Fin 8) (t : Ticket) (j : LoadJob) : State :=
  let s1 := writeLoadArea s p j.marked
  match lateChecks s1 p j.image j.verdict with
  | some (r, d) => failLoad s1 p t j r d
  | none => { s1 with sched := { s1.sched with job := some j } }

/-- A LOAD ticket read and checked in the order of R353. With an invalid cooling class a claim that names a cluster fails (R22, R350). -/
def loadTicket (s0 : State) (p : Fin 8) (t : Ticket) (v : SigVerdict) (trained : List Training) : State :=
  let a := fieldU t.raw 16 8
  let m := readImage s0 a
  let s := missIn (beginTicket s0 p t.num) a m.bytes.length
  let b := m.bytes
  let j : LoadJob :=
    { slot := p, num := t.num, image := b, verdict := v, full := false, waitFrom := none, poison := m.poison, powered := [], before := [] }
  if !headerOk b then failLoad s p t j 1 0xFF
  else if imgPart b ≠ p.val ∨ (imgKind b = 0) ≠ ((s.slot p).img.isNone = true) then failLoad s p t j 7 0xFF
  else match directoryBad b with
    | some d => failLoad s p t j 2 d
    | none => match claimBad s p b with
      | some d => failLoad s p t j 8 d
      | none =>
        if s.clk.cool = some 3 ∧ claimCls (imgData b 1) ≠ 0 then failLoad s p t j 12 (imgIdx b 1)
        else if imgKind b = 0 then beginFull s p t j trained
        else beginPartial s p t j

-- Quiescing (R359)

def quiesced (s : State) (p : Fin 8) (i : Img) : Bool :=
  (imgUes i).all (fun e => !ueOn s e || ((s.col e).state == 0 && ((s.ue e).regs.state == 0 || (s.ue e).regs.state == 2))) &&
    (s.slot p).asg.cmap.all (fun c => !clOn s c || (((s.cl c).seq.mode == .done || (s.cl c).seq.mode == .idle) && (s.cl c).dma.isEmpty)) &&
    (match (s.slot p).ck.stream with | some x => x.memory.isSome | none => true)

-- DETACH (R27, R380, R508)

/-- The domains of a partition that ends powered down, where nothing else needs them (R27). -/
def releaseDomains (s : State) (p : Fin 8) (i : Img) (a : Assign) : State :=
  let s1 := (a.cmap ++ a.spares).foldl (fun (t : State) c => if clOn t c then powerDownCl t c else { t with pwr := { t.pwr with want := setDom t.pwr.want c.val false } }) s
  let s2 := (imgUes i).foldl (fun (t : State) e => powerDownUe t e) s1
  let others := (otherSlots s p).map (slotPart s)
  let ports := others.foldl (fun (v : Nat) x => v ||| fieldU x 28 2) 0
  let s3 := (List.finRange 8).foldl (fun (t : State) g =>
    if bitsAt (fieldU i.part 28 2) (2 * g.val) 2 ≠ 0 ∧ bitsAt ports (2 * g.val) 2 = 0 then powerDownLg t g else t) s2
  let s4 := (List.finRange 16).foldl (fun (t : State) q =>
    if bitAt (fieldU i.part 28 2) q.val then (t.setPort q { t.port q with state := 0, width := 0 }).setLink q LinkL.reset else t) s3
  let pk := others.foldl (fun (v : Nat) x => v ||| claimPkgs x) (fieldU s.boot.hostMem 0 3)
  let s5 := (pkgGroups (claimPkgs i.part)).foldl (fun (t : State) g => if (pkgGroups pk).contains g then t else powerDownMg t g) s4
  (List.finRange 2).foldl (fun (t : State) d =>
    if spOn t d && !((List.finRange 64).any (fun c => clDie c == d && clOn t c)) &&
        !(others.any (fun x => 0 < fieldU x (24 + 2 * d.val) 2)) then powerDownSp t d else t) s5

/-- A slot becomes EMPTY by DETACH: tickets still being carried out and tests still waited for are answered STATE, and counters and their tag are cleared as well
(R508). -/
def detachSlot (s0 : State) (p : Fin 8) : State :=
  let sk := (s0.slot p).kat.foldl (fun (u : State) w => if w.ticket.isNone then answerTest u p none w.mgmt stState 0 0 else u) s0
  let s := ((s0.slot p).led.queue.filter (fun t => t.begun)).foldl (fun (u : State) t => answer u p t stState 0 0) sk
  let k := s.slot p
  let s1 := emptySlot s p
  let s2 := match k.img with | some i => releaseDomains s1 p i k.asg | none => s1
  let x := s2.slot p
  s2.setSlot p { x with obs := { x.obs with live := Vector.replicate 96 0, closed := Vector.replicate 96 0, tag := 0, gen := 0, liveNum := 0 } }

/-- The tickets that act at B3 of the boundary after step c, in ascending number (R28, R373, R380): a DETACH ends the partition, a LOAD waits
for its command; once none is left the boundary goes on. B3 of a partition whose lease has lapsed acts on none (R379). -/
def boundaryActs (s : State) (p : Fin 8) (c : Nat) : State :=
  if (s.slot p).parking then park s p else
  match turnOf s p 8 with
  | some t => detachSlot (answer (endRun s p stEnded 0 .running) p t stDone 0 0) p
  | none => match turnOf s p 9 with
    | some _ => s
    | none => finishBoundary s p c

end Sys2Proof.Machine
end

