-- ==== Sys2Proof/Machine/Load.lean ====
section
/-! DEFINITION. The commands of the image loader (chapter 13). -/

namespace Sys2Proof.Machine

/-- Whether a LOAD ticket may be carried out now (R351, R380): one load at a time; in RUNNING at B3, in PAUSED and RECOVERING not yet. -/
def loadMay (s : State) (p : Fin 8) : Bool :=
  let k := s.slot p
  schedUp s && s.sched.sampling && s.sched.job.isNone &&
    (k.st == .empty || k.st == .idle || (k.st == .running && (match k.run with | some r => r.stage == .atB3 | none => false)))

/-- Whether no LOAD of another ledger that may be carried out now was accepted earlier (R351, log entry 55). -/
def loadFirst (s : State) (p : Fin 8) (k : Ticket) : Bool :=
  (List.finRange 8).all (fun q => q == p || !loadMay s q || (match turnOf s q 9 with
    | some t => decide (k.ord < t.ord)
    | none => true))

/-- The step after which the boundary lies whose next step is n; steps count modulo 2^32. -/
def stepBefore (n : Nat) : Nat := (n + 2 ^ 32 - 1) % 2 ^ 32

/-- A load that has ended at B3 leaves the other tickets of the boundary, B4 and B5 to follow (R28); none of these follows in a recovery
(R411). -/
def afterLoad (s : State) (p : Fin 8) : State :=
  match (s.slot p).run with
  | some r => if r.stage == .atB3 && s.sched.job.isNone && !(s.slot p).twin.recov then boundaryActs s p (stepBefore r.step) else s
  | none => s

/-- LOAD (R351 to R356). -/
def execLoad (t : Nat) (p : Fin 8) (v : SigVerdict) (trained : List Training) (s : State) : Answer :=
  let s1 := tick t s
  if !loadMay s1 p then .next s1 else
  match turnOf s1 p 9 with
  | none => .next s1
  | some k => if loadFirst s1 p k then .next (afterLoad (loadTicket s1 p k v trained) p) else .next s1

/-- PARTIAL_RELOAD (R359): once the partition has quiesced at B3, in IDLE, or in PARKED where its lease has lapsed meanwhile (R363), the loader
programs it; the next step runs as a restart. A level-1 alarm holds it. -/
def execPartialReload (t : Nat) (p : Fin 8) (s : State) : Answer :=
  let s1 := tick t s
  match s1.sched.job, (s1.slot p).img with
  | some j, some i =>
    let k := s1.slot p
    let due : Bool := k.st == .idle || k.st == .parked || (match k.run with | some r => r.stage == .atB3 | none => false)
    if schedUp s1 = false ∨ j.slot ≠ p ∨ j.full = true ∨ due = false ∨ quiesced s1 p i = false then .next s1
    else if alarmLevel s1 ≠ 0 then
      .next (if j.waitFrom.isSome then s1 else { s1 with sched := { s1.sched with job := some { j with waitFrom := some s1.now } } })
    else match findTicket s1 p j.num with
      | none => .next { s1 with sched := { s1.sched with job := none } }
      | some tk =>
        let s2 := programImage s1 p tk j.marked
        match (s2.slot p).run, (s2.slot p).img with
        | some r, some i2 => .next (afterLoad (restartPolicy s2 p i2 (stepBefore r.step)) p)
        | _, _ => .next s2
  | _, _ => .next s1

/-- LOAD_ALARM_TIMEOUT (R363): a load that a level-1 alarm has held for 1 s fails with reason ALARM and is undone. -/
def execLoadAlarmTimeout (t : Nat) (p : Fin 8) (s : State) : Answer :=
  let s1 := tick t s
  match s1.sched.job with
  | none => .next s1
  | some j =>
    match j.waitFrom with
    | none => .next s1
    | some x =>
      if schedUp s1 = false ∨ j.slot ≠ p ∨ alarmLevel s1 = 0 ∨ elapsed s1.now x 1000000000 = false then .next s1
      else match findTicket s1 p j.num with
        | none => .next { s1 with sched := { s1.sched with job := none } }
        | some tk => .next (afterLoad (failLoad s1 p tk j 13 0xFF) p)

end Sys2Proof.Machine
end

