-- ==== Sys2Proof/Machine/FirmOps.lean ====
section
/-! DEFINITION. The scheduler core's work shared by several commands: sampling a ledger (R367 to R379), restarts of firmware processors
(R385, R386), the end and the deferral of self-tests (R391, R392), starting a RUN (R369, R380). -/

namespace Sys2Proof.Machine

/-- The scheduler core serves tickets (R385, R386, R393). -/
def serving (s : State) : Bool := schedUp s && s.sched.sampling

def satInc (w : W32) : W32 := if w = 0xFFFFFFFF then w else w + 1

-- Checking one ticket (R369, R373 to R377)

/-- A ticket whose type or arguments are out of range (R369). -/
def badArgs (b : Bytes) : Bool :=
  match tkType b with
  | 1 => fieldU b 16 4 == 0
  | 2 | 3 | 5 | 7 | 8 => false
  | 4 => decide (1 < fieldU b 16 1) || (fieldU b 16 1 == 1 && fieldU b 24 8 % 4096 != 0)
  | 6 => fieldU b 18 2 == 0 || fieldU b 16 1 == 0 || decide (4 < fieldU b 16 1)
  | 9 => fieldU b 16 8 % 64 != 0
  | _ => true

/-- A reply to a ticket that is not accepted: nothing is stored (R374, R375). -/
def replyOnly (s : State) (p : Fin 8) (b : Bytes) (status : Nat) : State :=
  writeReply s p (tkNum b) (replyBytes (tkNum b) (tkEpoch b) (tkType b) status 0 (idleValue s p (tkType b)) (lastStep s p))

def countReject (s : State) (p : Fin 8) : State :=
  let l := (s.slot p).led
  setLed s p { l with rejects := satInc l.rejects }

/-- A repeat (R375). -/
def repeatTicket (s : State) (p : Fin 8) (b : Bytes) : State :=
  let num := tkNum b
  let l := (s.slot p).led
  let pl := payload [(0, 8, num)]
  let s1 := logSch (setLed s p { l with repeats := satInc l.repeats }) 0x7003 p.val pl
  match alGet l.stored (num % 4096) with
  | none => logSch s1 0x7005 p.val pl
  | some e =>
    if e.num ≠ num then logSch s1 0x7005 p.val pl
    else
      let s2 := if e.crc = fieldU b 60 4 then s1 else logSch s1 0x7004 p.val pl
      if e.replied then writeReply s2 p num e.reply else s2

/-- The lease of a ledger has lapsed and no CLAIM has come since (R379). -/
def lapsed (s : State) (p : Fin 8) : Bool := (s.slot p).parking || (s.slot p).st == .parked

/-- The ticket accepted: HIGH, the queue, its place in the order of acceptance, and the stored entry (R351, R373 to R376). -/
def acceptTicket (s0 : State) (p : Fin 8) (b : Bytes) : State :=
  let s := { s0 with sched := { s0.sched with accepted := s0.sched.accepted + 1 } }
  let l := (s.slot p).led
  let t : Ticket := { num := tkNum b, ord := s0.sched.accepted, epoch := tkEpoch b, typ := tkType b, raw := b, begun := false }
  let s1 := setLed s p { l with high := BitVec.ofNat 64 t.num, queue := l.queue ++ [t] }
  putStored s1 p { num := t.num, reply := zeroB 32, crc := fieldU b 60 4, replied := false }

/-- The answer to a CLAIM that is still queued, and the ledger header after it. -/
def answerClaim (s : State) (p : Fin 8) (high : Nat) : Option Ticket → State
  | some t => syncHdr (answer s p t stDone 0 high) p
  | none => s

/-- A CLAIM carried out at acceptance (R377, R380): the new epoch, and a PARKED partition leaves PARKED. -/
def claimTicket (s : State) (p : Fin 8) (b : Bytes) : State :=
  let high := (s.slot p).led.high.toNat
  let s1 := acceptTicket s p b
  let k := s1.slot p
  let st : PState := if k.st = .parked then (match k.parkFrom with | .empty => .empty | .paused => .paused | _ => .idle) else k.st
  let l := { k.led with
    epoch := BitVec.ofNat 32 (tkEpoch b), claimed := true, leaseAt := s1.now
    live := decide (k.led.lease.toNat / 2 ^ 32 = tkEpoch b % 2 ^ 32) }
  let s2 := s1.setSlot p { k with st := st, parking := false, led := l }
  answerClaim s2 p high (findTicket s2 p (tkNum b))

/-- One ticket whose CRC is good (R373): epoch, repeat, type and arguments, lapse. -/
def examine (s : State) (p : Fin 8) (b : Bytes) : State :=
  let l := (s.slot p).led
  let ep := tkEpoch b
  let cur := l.epoch.toNat
  let num := tkNum b
  let claim := tkType b == 7
  if ep < cur then logSch (countReject s p) 0x7002 p.val (payload [(0, 8, num), (8, 4, ep)])
  else if cur < ep && !claim then replyOnly s p b stEpoch
  else if num ≤ l.high.toNat then repeatTicket s p b
  else if claim then (if cur < ep then claimTicket s p b else replyOnly s p b stEpoch)
  else if badArgs b then replyOnly s p b stBadTicket
  else if lapsed s p then replyOnly s p b stLapsed
  else acceptTicket s p b

-- Sampling (R365 to R367, R372, R378)

/-- The bytes of ticket slot i. -/
def ticketSlot (s : State) (p : Fin 8) (i : Nat) : Bytes := devRead s ((s.slot p).led.addr + 0x1000 + 64 * (i % 4096)) 64

def headNext (s : State) (p : Fin 8) : State :=
  let l := (s.slot p).led
  setLed s p { l with head := l.head + 1, badReads := 0 }

/-- The lease lapses (R379): a RUNNING partition parks after its step, a RECOVERING one at the boundary after its recovery (R393), any other
at once. -/
def lapse (s : State) (p : Fin 8) : State :=
  let k := s.slot p
  let l := k.led
  let s2 := logSch (setLed s p { l with live := false }) 0x7006 p.val (payload [(0, 1, p.val), (4, 4, l.epoch.toNat)])
  let busy : Bool := k.st == .recovering || (k.st == .running && (match k.run with | some r => r.stage == .inStep | none => false))
  if busy then s2.setSlot p { s2.slot p with parking := true } else park s2 p

/-- The lease word as this sample reads it (R378): a change under the current epoch renews the lease, unless it has lapsed; another epoch ends
it. -/
def readLease (s : State) (p : Fin 8) : State :=
  let l := (s.slot p).led
  let w := BitVec.ofNat 64 (leNat (devRead s (l.addr + 24) 8))
  if w = l.lease then s
  else if decide (w.toNat / 2 ^ 32 = l.epoch.toNat) && l.claimed && !lapsed s p then
    setLed s p { l with lease := w, leaseAt := s.now, live := true }
  else setLed s p { l with lease := w, live := false }

/-- After a sample: a lease that was live at its beginning and whose word has taken another epoch has lapsed, unless a CLAIM of the sample has
changed the current epoch (R377, R378). -/
def afterLease (before s : State) (p : Fin 8) : State :=
  let l0 := (before.slot p).led
  let l := (s.slot p).led
  if l0.live && !l.live && l0.epoch == l.epoch && !lapsed s p then lapse s p else s

/-- Slots from HEAD on, up to n of them; a slot whose CRC fails ends the sample until its third read, and so do 4,096 accepted tickets without
a reply (R396). -/
def sampleSlots (p : Fin 8) : Nat → State → State
  | 0, s => s
  | n + 1, s =>
    let l := (s.slot p).led
    let b := ticketSlot s p l.head
    if 4096 ≤ l.queue.length then s
    else if fieldU b 60 4 = crc32 (b.take 60) then sampleSlots p n (examine (headNext s p) p b)
    else if l.badReads < 2 then setLed s p { l with badReads := l.badReads + 1 }
    else sampleSlots p n (logSch (countReject (headNext s p) p) 0x7001 p.val (payload [(0, 2, l.head % 4096)]))

/-- A sample of one ledger (R367). -/
def sampleLedger (s : State) (p : Fin 8) : State :=
  if !(s.slot p).led.en then s else
  let s1 := readLease s p
  let l := (s1.slot p).led
  let tail := leNat (devRead s1 l.addr 8)
  if tail ≤ l.head then afterLease s s1 p
  else
    let lost := tail - l.head - 4096
    let s2 := if lost = 0 then s1 else
      logSch (setLed s1 p { l with head := tail - 4096, badReads := 0 }) 0x7008 p.val (payload [(0, 8, lost)])
    syncHdr (afterLease s (sampleSlots p (tail - (s2.slot p).led.head) s2) p) p

/-- Every registered ledger in ascending p (R372). -/
def sampleAll (s : State) : State := if serving s then (List.finRange 8).foldl sampleLedger s else s

-- Firmware restarts (R154, R385, R386)

/-- The scheduler core restarts with the resident code, or fails for good. Leases are measured afresh once it runs again (R378, R385). -/
def restartSched (s : State) (savePoisoned : Bool) : State :=
  let c := s.sched
  let l := recentRestarts s c.schAt
  let s1 := { s with sched := { c with restarts := c.restarts + 1, schAt := l, schCount := c.schCount + 1 } }
  if 3 ≤ l.length ∨ savePoisoned = true then logEv { s1 with sched := { s1.sched with failed := true } } 0x0700 0x7012 15 (payload [])
  else
    let s2 := (List.finRange 8).foldl (fun (t : State) p => setLed t p { (t.slot p).led with leaseAt := t.now + 200000 })
      { s1 with sched := { s1.sched with restartAt := some s1.now, code := residentCode s1 0x300000 } }
    logSch s2 0x7010 15 (payload [(0, 2, 0x0702), (4, 4, s2.sched.schCount)])

-- Self-tests (R391, R392)

/-- Answers a self-test to whoever asked for it. -/
def answerKat (s : State) (p : Fin 8) (k : KatWait) (status detail value : Nat) : State := answerTest s p k.ticket k.mgmt status detail value

/-- The end of a known-answer test on a cluster: a failure is logged and the cluster is treated as faulted (R391, R414). -/
def katEnds (s : State) (c : Fin 64) (result : Nat) : State :=
  let part := match claimOf s c with | some (p, _) => p.val | none => 15
  let s1 := if result = 0 then s else logSch s 0x7022 part (payload [])
  let s2 := match claimOf s1 c with
    | some (p, _) => twinKat s1 p c (decide (result ≠ 0))
    | none => s1
  if result = 0 then s2 else spareCluster s2 c

/-- SLACK entries of an image, in order (R447, R448). -/
def slackEntries (i : Img) : List Bytes := ((List.range (wakeN i)).map (wakeEntry i)).filter (fun e => fieldU e 0 1 == 4)

/-- A window long enough for a CLUSTER_KAT of logical cluster l. -/
def slackFits (e : Bytes) (l : Nat) : Bool := bitAt (fieldU e 8 8) l && decide (3000 ≤ fieldU e 4 4)

/-- First step after `step` in which an entry applies. -/
def nextApply (e : Bytes) (step : Nat) : Nat :=
  let n := fieldU e 16 2
  if n = 0 then step + 1 else step + 1 + (fieldU e 18 2 + n - (step + 1) % n) % n

/-- The deferral token of R392 for a test of cluster l after step `step`. -/
def katToken (i : Option Img) (step l test target : Nat) : Nat :=
  let ws : List (Nat × Nat) := match i with
    | none => []
    | some m => ((slackEntries m).zipIdx.filter (fun (x : Bytes × Nat) => slackFits x.1 l)).map (fun (x : Bytes × Nat) => (nextApply x.1 step, x.2))
  let low := test % 256 * 256 + target % 256
  match ws with
  | [] => 0xFFFFFFFFFFFF * 65536 + low
  | x :: r =>
    let b : Nat × Nat := r.foldl (fun (a : Nat × Nat) (y : Nat × Nat) => if y.1 < a.1 then y else a) x
    b.1 % 2 ^ 32 * 2 ^ 32 + b.2 % 65536 * 65536 + low

/-- The window that a presented token names, where the token is good. -/
def tokenWindow (token test target step : Nat) : Option (Nat × Nat) :=
  let st := token / 2 ^ 32
  if token ≠ 0 ∧ bitsAt token 8 8 = test ∧ bitsAt token 0 8 = target % 256 ∧ step < st ∧ st ≠ 0xFFFFFFFF then some (st, bitsAt token 16 16) else none

/-- A CLUSTER_KAT asked for on a cluster of a RUNNING partition begins to wait. -/
def deferKat (s : State) (p : Fin 8) (k : KatWait) (test token : Nat) : State :=
  let win := tokenWindow token test k.target (stepNow s p)
  let s1 := match win with
    | some _ => logSch s 0x7020 p.val (payload [])
    | none => s
  s1.setSlot p { s1.slot p with kat := (s1.slot p).kat ++ [{ k with token := win }] }

/-- A refused CLUSTER_KAT (R392). -/
def refuseKat (s : State) (p : Fin 8) (k : KatWait) : State :=
  let l := match claimOf s k.cluster with | some (_, x) => x | none => 0
  let tok := katToken (s.slot p).img (stepNow s p) l 1 k.target
  let s1 := s.setSlot p { s.slot p with kat := (s.slot p).kat.filter (fun x => x != k) }
  answerKat (logSch s1 0x7021 p.val (payload [])) p k stBusy 0 tok

/-- A MEM_SCRUB on a controller group (R391): it ends with one pass of the patrol scrub over the group; a group that is off or not trained
has nothing to scrub. -/
def scrubTest (s : State) (g : Fin 8) (p : Fin 8) (ticket : Option Nat) (mgmt : Option MgmtReq) (result : Nat) : State :=
  let r := katStatus result
  if mgOn s g && (s.mg g).trained then
    s.setMg g { s.mg g with tests := (s.mg g).tests ++ [{ slot := p, ticket := ticket, mgmt := mgmt, result := result, left := passGranules }] }
  else answerTest s p ticket mgmt r.1 r.2 result

-- RUN (R369, R380)

/-- The checkpoint bytes that a handle names (R408): memory, or what the buddy returns. -/
def handleBytes (s : State) (p : Fin 8) (i : Img) (h : Nat) (buddyCopy : Option Marked) : Option Marked :=
  let b := if bitAt h 63 then buddyCopy
    else if bitAt h 62 then some (pReadMarked s p (bitsAt h 12 36 * 4096) (4096 + shardSize i))
    else none
  match b with
  | none => none
  | some x => if ckptUsable i p x.bytes && (!bitAt h 63 || fieldU x.bytes 8 4 == h % 2 ^ 32) then some x else none

/-- No cluster of a partition is in state RUN: only then is the rung vector written outside a boundary (R133). -/
def noneRuns (s : State) (p : Fin 8) : Bool := (s.slot p).asg.cmap.all (fun c => !clOn s c || (s.cl c).seq.mode != .run)

/-- A RUN ticket starts on an IDLE partition. -/
def startRun (s : State) (p : Fin 8) (i : Img) (t : Ticket) (buddyCopy : Option Marked) : State :=
  let count := fieldU t.raw 16 4
  let src := fieldU t.raw 20 4
  let h := fieldU t.raw 24 8
  let begin0 (u : State) (step : Nat) (fresh : Bool) : State :=
    let r : Run := { num := t.num, left := count, step := step % 2 ^ 32, stage := .atB5, fresh := fresh, started := false, dueAt := u.now, applied := false }
    let u1 := beginTicket (u.setSlot p { u.slot p with run := some r }) p t.num
    meterTag (setPState u1 p .running) p (BitVec.ofNat 64 t.num)
  let nextStep (u : State) : Nat := if src = 0xFFFFFFFF then (lastStep u p + 1) % 2 ^ 32 else src
  if h ≠ 0 then
    match handleBytes s p i h buddyCopy with
    | none =>
      let s1 := logSch s 0xB00E p.val (payload [(0, 1, 2), (1, 1, p.val), (4, 4, nextStep s), (8, 4, h % 2 ^ 32)])
      answer s1 p t stFailed 0x0301 (lastStep s1 p)
    | some b =>
      let s1 := restoreCkpt s p i b
      let step := nextStep s1
      begin0 (restartPolicy s1 p i ((step + 2 ^ 32 - 1) % 2 ^ 32)) step false
  else if src = 0 then begin0 (freshPolicy (freshTables s p i) p i) 0 true
  else
    let step := nextStep s
    begin0 (restartPolicy s p i ((step + 2 ^ 32 - 1) % 2 ^ 32)) step false

end Sys2Proof.Machine
end

