-- ==== Sys2Proof/Machine/Mgmt.lean ====
section
/-! DEFINITION. Management requests, watchdogs and firmware update (R381 to R389, R391, R507). -/

namespace Sys2Proof.Machine

-- Registers that STATUS reports (R343, R397)

def pwrBootReg (s : State) : Nat :=
  s.boot.fail.toNat * 2 ^ 24 + s.boot.cool.toNat * 2 ^ 16 + s.boot.attempt.toNat * 2 ^ 8 + s.boot.stage.toNat

def schStatusReg (s : State) : Nat := (if s.sched.failed then 2 * 2 ^ 30 else if restarting s then 2 ^ 30 else 0) + (if s.sched.fwCommit then 2 ^ 29 else 0)

-- Serving a request (R381, R383)

/-- The session is live and the owner holds it. -/
def ownerSession (s : State) (id : Nat) : Bool := s.sec.sessions.any (fun x => x.id == id && x.role == .owner)

/-- A request in a live session: a repeat is answered from the cache or STALE, a new one is carried out. One that meets a restart of the
scheduler core is served after it (R393), which the model does at once. -/
def mgmtServe (s : State) (r : MgmtReq) (op : Nat) (f : State → State) : State :=
  if s.sched.failed || !s.sched.sampling || !ownerSession s r.session then s else
  let seen : Bool := match alGet s.sched.highest r.session with
    | some h => decide (r.reqId ≤ h)
    | none => false
  if seen then
    match s.sched.cache.find? (fun x => x.session == r.session && x.reqId == r.reqId) with
    | some x => mgmtSend s r x.bytes
    | none => mgmtSend (logSch s 0x7030 15 (payload [])) r (mgmtBytes r.reqId op 9 0 [])
  else f { s with sched := { s.sched with highest := alPut s.sched.highest r.session (some r.reqId) } }

def mgmtAnswer (s : State) (r : MgmtReq) (op status detail : Nat) (data : Bytes) : State := mgmtReply s r op status detail data

-- Queries

/-- DATA of STATUS. -/
def statusData (s : State) : Bytes :=
  ((List.finRange 8).map (fun p =>
    let k := s.slot p
    natLe 1 k.st.code ++ natLe 4 k.led.epoch.toNat ++ natLe 8 k.led.high.toNat ++ natLe 4 k.led.step.toNat)).flatten ++
    natLe 4 (pwrBootReg s) ++ natLe 4 (schStatusReg s)

def execStatus (t : Nat) (r : MgmtReq) (s : State) : Answer :=
  .next (mgmtServe (tick t s) r 0x0001 (fun u => mgmtAnswer u r 0x0001 stDone 0 (statusData u)))

/-- Entries of the trouble log from a 24-bit sequence number on, `n` at most (R382, R516). -/
def logFrom (s : State) (start n : Nat) : Bytes :=
  let hi := s.log.count.toNat
  let lo := hi - 65536
  let d := (start % 2 ^ 24 + 2 ^ 24 - lo % 2 ^ 24) % 2 ^ 24
  let a := if d < 2 ^ 23 then lo + d else lo
  ((List.range (Nat.min n (hi - a))).map (fun k =>
    match alGet s.log.entries ((a + k) % 65536) with
    | some e => e.bytes
    | none => zeroB 32)).flatten

def execLogRead (t : Nat) (r : MgmtReq) (start : Nat) (count : Nat) (s : State) : Answer :=
  .next (mgmtServe (tick t s) r 0x0002 (fun u =>
    if count = 0 ∨ 40 < count then mgmtAnswer u r 0x0002 stBadTicket 0 []
    else mgmtAnswer u r 0x0002 stDone 0 (logFrom u start count)))

/-- The mask of a processor (R384, R387). -/
def setMask (s : State) (proc : Nat) (mask : BitVec 256) : Option State :=
  if h : 0x0700 ≤ proc ∧ proc < 0x0703 then
    some { s with sched := { s.sched with masks := vset s.sched.masks ⟨proc - 0x0700, by omega⟩ mask } }
  else if h : 0x0780 ≤ proc ∧ proc < 0x07C0 then
    let c : Fin 64 := ⟨proc - 0x0780, by omega⟩
    let k := s.cl c
    some (if clOn s c then s.setCl c { k with core := { k.core with mask := mask } } else s)
  else none

def execTraceSet (t : Nat) (r : MgmtReq) (proc : Nat) (mask : BitVec 256) (s : State) : Answer :=
  .next (mgmtServe (tick t s) r 0x0003 (fun u => match setMask u proc mask with
    | some v => mgmtAnswer v r 0x0003 stDone 0 []
    | none => mgmtAnswer u r 0x0003 stBadTicket 0 []))

/-- CNT_READ (R507): 0 to 7 the live half of a partition bank, 8 the global bank. -/
def execCntRead (t : Nat) (r : MgmtReq) (bank : Nat) (first : Nat) (count : Nat) (s : State) : Answer :=
  .next (mgmtServe (tick t s) r 0x0030 (fun u =>
    if 8 < bank ∨ 95 < first ∨ count = 0 ∨ 96 < first + count then mgmtAnswer u r 0x0030 stBadTicket 0 []
    else
      let b : Vector W64 96 := if h : bank < 8 then (u.slot ⟨bank, h⟩).obs.live else u.gbank
      mgmtAnswer u r 0x0030 stDone 0 (((b.toList.drop first).take count).flatMap (fun x => natLe 8 x.toNat))))

/-- SELFTEST by management request (R391, R392). -/
def execMgmtSelftest (t : Nat) (r : MgmtReq) (test : Nat) (target : Nat) (timeoutMs : Nat) (token : W64) (allowStep : Bool) (result : Nat)
    (s : State) : Answer :=
  .next (mgmtServe (tick t s) r 0x0004 (fun u =>
    let q := katStatus result
    let done (v : State) : State := mgmtAnswer v r 0x0004 q.1 q.2 (natLe 8 result)
    if test = 0 ∨ 4 < test ∨ timeoutMs = 0 ∨ 65535 < timeoutMs then mgmtAnswer u r 0x0004 stBadTicket 0 []
    else match test with
      | 1 =>
        if h : target < 64 then
          let c : Fin 64 := ⟨target, h⟩
          match claimOf u c with
          | some (p, _) =>
            if (u.slot p).st = .running ∨ (u.slot p).st = .recovering then
              let w : KatWait :=
                { ticket := none, mgmt := some r, target := target, cluster := c, deadline := u.now + timeoutMs * 1000000
                  allow := allowStep, token := none, ready := false }
              deferKat u p w 1 token.toNat
            else katEnds (done u) c result
          | none => katEnds (done u) c result
        else mgmtAnswer u r 0x0004 stDenied 0 []
      | 2 => if h : target < 8 then scrubTest u ⟨target, h⟩ 0 none (some r) result else mgmtAnswer u r 0x0004 stDenied 0 []
      | 4 =>
        if 16 ≤ target then mgmtAnswer u r 0x0004 stDenied 0 []
        else if (portDecl u (toPort target)).isSome then mgmtAnswer u r 0x0004 stState 0 []
        else done u
      | _ => done u))

-- Firmware update (R388, R389)

def execFwBegin (t : Nat) (r : MgmtReq) (total : Nat) (s : State) : Answer :=
  .next (mgmtServe (tick t s) r 0x0010 (fun u =>
    if u.sched.fwTotal.isSome ∨ stageLen < total then mgmtAnswer u r 0x0010 stState 0 []
    else
      let v := clearStage u
      mgmtAnswer { v with sched := { v.sched with fwTotal := some total, fwCommit := false } } r 0x0010 stDone 0 []))

def execFwData (t : Nat) (r : MgmtReq) (off : Nat) (data : Bytes) (s : State) : Answer :=
  .next (mgmtServe (tick t s) r 0x0011 (fun u =>
    match u.sched.fwTotal with
    | none => mgmtAnswer u r 0x0011 stState 0 []
    | some n =>
      if u.sched.fwCommit then mgmtAnswer u r 0x0011 stState 0 []
      else if 1024 < data.length ∨ n < off + data.length then mgmtAnswer u r 0x0011 stBadTicket 0 []
      else mgmtAnswer { u with ctl := u.ctl.write 32 (stageOff + off) data false } r 0x0011 stDone 0 []))

/-- A committed bundle: measured and activated (R388, R389). -/
def commitBundle (s : State) (b : Bytes) : State :=
  let s1 := copyResident (measureBundle s b) 0x380000 (bundleData b 4)
  let running (c : Fin 64) : Bool := match claimOf s1 c with
    | some (p, _) => (s1.slot p).st == .running
    | none => false
  let on := (List.finRange 64).filter (fun c => clOn s1 c)
  let s2 := { s1 with sched := { s1.sched with fwCommit := true, pendSch := true, pendCl := on.filter running } }
  (on.filter (fun c => !running c)).foldl (fun (u : State) c => restartCore u c false) (logSch s2 0x7013 15 (payload []))

def execFwCommit (t : Nat) (r : MgmtReq) (v : SigVerdict) (s : State) : Answer :=
  .next (mgmtServe (tick t s) r 0x0012 (fun u =>
    match u.sched.fwTotal with
    | none => mgmtAnswer u r 0x0012 stState 0 []
    | some n =>
      if u.sched.fwCommit then mgmtAnswer u r 0x0012 stState 0 [] else
      let b := staged u n
      let code := bundleCheck b v (fwFloor u)
      if code = 0 then mgmtAnswer (commitBundle u b) r 0x0012 stDone 0 []
      else
        let w := clearStage (logSch u 0x7014 15 (payload []))
        mgmtAnswer { w with sched := { w.sched with fwTotal := none } } r 0x0012 stFailed (0x0600 + code) []))

def execFwAbort (t : Nat) (r : MgmtReq) (s : State) : Answer :=
  .next (mgmtServe (tick t s) r 0x0013 (fun u =>
    if u.sched.fwTotal.isNone ∨ u.sched.fwCommit = true then mgmtAnswer u r 0x0013 stState 0 []
    else
      let v := clearStage u
      mgmtAnswer { v with sched := { v.sched with fwTotal := none } } r 0x0013 stDone 0 []))

/-- FW_ACTIVATE (R389): no boundary stage and no load in progress; the scheduler firmware becomes resident and the core restarts. -/
def execFwActivate (t : Nat) (s : State) : Answer :=
  let s1 := tick t s
  let busy := (List.finRange 8).any (fun p => match (s1.slot p).run with
    | some r => (s1.slot p).st == .running && r.stage != .inStep
    | none => false)
  if !s1.sched.pendSch || s1.sched.job.isSome || busy || !schedUp s1 then .next s1 else
  let b := staged s1 (s1.sched.fwTotal.getD 0)
  let s2 := copyResident s1 0x300000 (bundleData b 3)
  .next (settleUpdate (restartSched { s2 with sched := { s2.sched with pendSch := false } } false))

-- Restarts (R382, R385, R386)

def execSchedulerWatchdog (t : Nat) (savePoisoned : Bool) (s : State) : Answer :=
  let s1 := tick t s
  if s1.sched.failed then .next s1 else .next (restartSched s1 savePoisoned)

/-- The watchdog of a cluster control core fires: a core that has failed stays so, and one that restarts takes committed firmware (R386,
R389). -/
def coreWatchdog (s : State) (c : Fin 64) (savePoisoned : Bool) : State :=
  if (s.cl c).core.failed || !clOn s c then s else dropPend (restartCore s c savePoisoned) c

def execClusterWatchdog (t : Nat) (c : Fin 64) (savePoisoned : Bool) (s : State) : Answer := .next (coreWatchdog (tick t s) c savePoisoned)

/-- PROC_RESTART: as if the processor's watchdog had fired; the reply follows the restart (R393). -/
def execProcRestart (t : Nat) (r : MgmtReq) (proc : Nat) (savePoisoned : Bool) (s : State) : Answer :=
  .next (mgmtServe (tick t s) r 0x0020 (fun u =>
    if proc = 0x0702 then
      let v := restartSched u savePoisoned
      if v.sched.failed then v else mgmtAnswer v r 0x0020 stDone 0 []
    else if h : 0x0780 ≤ proc ∧ proc < 0x07C0 then
      mgmtAnswer (coreWatchdog u ⟨proc - 0x0780, by omega⟩ savePoisoned) r 0x0020 stDone 0 []
    else mgmtAnswer u r 0x0020 stBadTicket 0 []))

end Sys2Proof.Machine
end

