-- ==== Sys2Proof/Machine/Move.lean ====
section
/-! DEFINITION. The commands of the DMA engine: COPY, FILL and MOVE_DONE (R139 to R143, R126). -/

namespace Sys2Proof.Machine

/-- A MOVE at issue (R125, R139, R143): waits for room, is checked, and queued; one that moves nothing completes at once (R140). -/
def moveBody (c : Fin 64) (s0 : State) (w : IWord) : State :=
  if 6 ≤ outD (s0.cl c) then s0 else
  let s := rowsNow s0 c
  let k := s.cl c
  match dmaCheck s c w with
  | some r => stopHere s c r w
  | none =>
    let d := k.ops.read (moveDoff w) 128
    if moveEmpty d then advanceWord s c
    else startMove (advanceWord (s.setCl c { k with dma := k.dma ++ [.move w d (moveBytes d) none] }) c) c

def execCopy (t : Nat) (c : Fin 64) (s : State) : Answer := issueWord t c 3 0 (moveBody c) s
def execFill (t : Nat) (c : Fin 64) (s : State) : Answer := issueWord t c 3 1 (moveBody c) s

/-- The MOVE under way completes: what it has not yet written is written, its bytes are counted (R126, R506) and the next starts. A paused
MOVE, and one that a PAUSE has stopped before its end, stays outstanding (R153). -/
def execMoveDone (t : Nat) (c : Fin 64) (s0 : State) : Answer :=
  let s := tick t s0
  let k := s.cl c
  match frontMove k.dma with
  | some (w, d, b, some n) =>
    if !clOn s c || k.seq.paused || (k.seq.pauseReq && decide (n < b)) then .next s else
    let s1 := runMove s c w d n b
    let s2 := s1.setCl c { s1.cl c with dma := dropMove (s1.cl c).dma }
    .next (afterUnit (startMove (countOp s2 (clPart k) (48 + 15) b) c) c)
  | _ => .next s

end Sys2Proof.Machine
end

