-- ==== Sys2Proof/Machine/Boot.lean ====
section
/-! DEFINITION. The commands of start-up, the management port and the sideband (chapters 12 and 21): the stages of R320, the network loader,
the two endpoints of R335, and the I3C window. -/

namespace Sys2Proof.Machine

-- Reset (R318, R341, R520)

/-- Everything as a cold reset leaves it; the flash and the meter die keep what they hold. The queue and the MODEL's counter stay. -/
def coldHeld (s : State) : State :=
  { State.cold s.sec.flash { s.meter.die with sent := [] } with pending := s.pending, free := s.free, now := s.now }

/-- Time counted from this moment on; the meter die's own moments keep their distance. -/
def coldStart (s : State) : State :=
  let c := coldHeld s
  let d := c.meter.die
  { c with
    now := 0
    meter := { c.meter with die := { d with checkAt := d.checkAt.map (fun x => x - (s.now : Int)), upAt := d.upAt - (s.now : Int) } } }

/-- COLD_RESET: PGOOD and RESET_N are both high again. Time restarts at 0. -/
def execColdReset (t : Nat) (s : State) : Answer := .next (coldStart (tick t s))

/-- PGOOD or RESET_N goes low: every domain but MET is in reset until both are high. -/
def execPgoodOrResetNLow (t : Nat) (pgood resetN : Bool) (s : State) : Answer :=
  let s1 := tick t s
  if pgood && resetN then .next s1
  else
    let c := coldHeld s1
    .next { c with boot := { c.boot with pgood := pgood, resetN := resetN } }

/-- POWER_LOSS (R520, R531): a loss of power in every domain but the flash; the meter die, which VMET feeds, loses its state as well (R495). -/
def execPowerLoss (t : Nat) (s : State) : Answer :=
  let c := coldHeld (tick t s)
  let d := s.meter.die
  .next { c with
    boot := { c.boot with pgood := false, resetN := false }
    meter := { c.meter with die := { MeterDie.made with seq := d.seq } } }

/-- STRAP_LATCH (R21, R22, R319): the straps are latched, stage 1 begins, SEC and CFB are powered. R22 gives no moment for COOL_INVALID: the
model logs it here, with the latch, although the power-management core that it names starts in stage 6 (DESIGN CHOICE, log entry 53). -/
def execStrapLatch (t : Nat) (cool : BitVec 2) (s : State) : Answer :=
  let s1 := tick t s
  if s1.boot.pgood && s1.boot.resetN && s1.boot.stage == 0 then
    let s2 := { s1 with clk := { s1.clk with cool := some cool }, boot := { s1.boot with cool := cool } }
    let s3 := enterStage (setOn (setOn s2 92 true) 94 true) 1
    let s4 := { s3 with pwr := { s3.pwr with bucket := bucketCap cool } }
    if cool = 3 then .next (alertEdge s1 (logEv s4 0x0701 0x8001 15 (payload [(0, 1, 3)]))) else .next s4
  else .next s1

-- Identity (R361, R466, R467, R476)

/-- Set bits of a number below a bound. -/
def popBits (v lo n : Nat) : Nat := ((List.range n).filter (fun i => bitAt v (lo + i))).length

/-- The checks of the part record (R361). -/
def partOk (r : Bytes) (sigOk idOk : Bool) : Bool :=
  let u := fieldU r 8 8
  fieldU r 0 4 == 0x5250594B && fieldU r 4 2 == 1 && sigOk && idOk &&
    (if fieldU r 6 1 = 0 then u == 2 ^ 64 - 1 else fieldU r 6 1 == 1 && popBits u 0 32 == 28 && popBits u 32 32 == 28)

/-- The owner record accepted at boot, with an interrupted increment completed (R476). -/
def acceptOwner (s : State) : State :=
  let f := s.sec.flash
  let c := f.rpmc1.toNat
  let pick (v : Nat) : Option Bytes := [f.ownerA, f.ownerB].findSome? (fun r => match r with
    | some x => if x = ownerRecord (x.take 2224) ∧ fieldU x 4 4 = v then some (x.take 2224) else none
    | none => none)
  match pick c with
  | some r => { s with sec := { s.sec with owner := some r } }
  | none =>
    match pick (c + 1) with
    | some r => logEv { s with sec := { s.sec with owner := some r, flash := { f with rpmc1 := f.rpmc1 + 1 } } } 0x0700 0x9004 15 (payload [])
    | none => s

/-- PUF_FAIL with its reason (R466, R467). -/
def pufFail (s : State) (why : Nat) : State := bootFail s 2 (some 0xE001) (payload [(0, 1, why)]) true

/-- Stage 2: the identity is reconstructed, the boot counter advances, the part record and the owner record are checked. -/
def identify (s : State) (r : IdentResult) : State :=
  let f := s.sec.flash
  if !r.flashOk then bootFail s 1 (some 0xE002) (payload []) true
  else if !f.marker then
    pufFail { s with sec := { s.sec with flash := { f with helperA := false, helperB := false } } } 1
  else if !((f.helperA && r.pufA) || (f.helperB && r.pufB)) then pufFail s 1
  else if !r.counterOk then bootFail s 1 (some 0xE002) (payload []) true
  else
    let c := f.rpmc0
    let s1 := { s with sec := { s.sec with bootC := c.setWidth 16, flash := { f with rpmc0 := c + 1 } } }
    if 32768 ≤ c.toNat then pufFail s1 2
    else if !partOk f.part r.partSigOk r.idHashOk then bootFail s1 3 (some 0xE003) (payload []) true
    else
      let s2 := acceptOwner { s1 with sec := { s1.sec with bak := true, bakUsed := 0, bakCert := some (bootCert c.toNat) } }
      if alarmLevel s2 = 0 then startNet s2 else s2

/-- CTL_PLL_LOCK (R320, R437): the control clock locks on the local reference, the ROM runs, and stage 2 follows. -/
def execCtlPllLock (t : Nat) (r : IdentResult) (s : State) : Answer :=
  let s1 := tick t s
  if s1.boot.stage = 1 then
    let s2 := { s1 with clk := { s1.clk with readyL := true, run := s1.clk.run.set 3 true } }
    .next (identify (enterStage s2 2) r)
  else .next s1

-- The network loader (R323, R324, R340)

/-- A level-1 alarm holds the boot in stages 2 to 6 (R341). -/
def bootHeld (s : State) : Bool := alarmLevel s != 0

def execMgtLinkUp (t : Nat) (s : State) : Answer :=
  let s1 := tick t s
  if domOn s1 91 && !s1.net.link then
    let s2 := { s1 with net := { s1.net with link := true } }
    if s2.boot.stage = 3 ∧ bootHeld s2 = false then .next (discover s2) else .next s2
  else .next s1

/-- DHCPACK: the lease, the boot server and the file; the fetch begins. -/
def execDhcpack (t : Nat) (ip : BitVec 32) (server : DhcpServer) (file : Bytes) (s : State) : Answer :=
  let s1 := tick t s
  if s1.boot.stage = 3 ∧ s1.net.link = true ∧ bootHeld s1 = false then .next (startFetch s1 ip server file) else .next s1

/-- Wait before repetition k of the DHCP exchange (R323). -/
def dhcpWait (k : Nat) : Nat := Nat.min 64 (4 * 2 ^ Nat.min k 4) * 1000000000

/-- DHCP_RETRY: no link or no DHCPACK in time. -/
def execDhcpRetry (t : Nat) (s : State) : Answer :=
  let s1 := tick t s
  if s1.boot.stage = 3 ∧ bootHeld s1 = false ∧ elapsed s1.now s1.boot.askedAt (dhcpWait s1.boot.discover) = true then
    let s2 := bootFail s1 4 (some 0xE004) (payload []) false
    .next (discover { s2 with boot := { s2.boot with discover := s2.boot.discover + 1 } })
  else .next s1

/-- A transfer is under way. -/
def fetching (s : State) : Bool := s.boot.stage == 4 && s.boot.retryAt.isNone && s.net.link && !bootHeld s

/-- TFTP_DATA: accepted in order, acknowledged by windows, and the last block starts verification. The block size shows in the first block. -/
def execTftpData (t : Nat) (block : Nat) (data : Bytes) (v : SigVerdict) (s : State) : Answer :=
  let s1 := tick t s
  let b := s1.boot
  let size := if b.blk = 0 then (if 512 < data.length then 8192 else 512) else b.blk
  let window := if size = 8192 then 16 else 1
  if !fetching s1 || decide (size < data.length) || block == 0 then .next s1
  else if block < b.next then .next (sendAck { s1 with boot := { b with resends := 0 } } block)
  else if b.next < block then .next (sendAck s1 (b.next - 1))
  else if stageLen < b.got + data.length then .next (fetchFail s1)
  else
    let s2 := devWrite s1 (ctlBase + stageOff + b.got) data false
    let s3 := { s2 with boot := { s2.boot with blk := size, next := b.next + 1, got := b.got + data.length, ackAt := s2.now, resends := 0 } }
    if data.length < size then .next (verifyBundle (sendAck s3 block) v)
    else if block % window = 0 then .next (sendAck s3 block)
    else .next s3

def execTftpError (t : Nat) (s : State) : Answer :=
  let s1 := tick t s
  if fetching s1 then .next (fetchFail s1) else .next s1

/-- TFTP_RETRANSMIT: the last ACK, or the request, again after 1 s; after five without an answer the fetch fails. -/
def execTftpRetransmit (t : Nat) (s : State) : Answer :=
  let s1 := tick t s
  let b := s1.boot
  if s1.boot.stage = 4 ∧ b.retryAt.isNone = true ∧ bootHeld s1 = false ∧ elapsed s1.now b.ackAt 1000000000 = true then
    if 5 ≤ b.resends then .next (fetchFail s1)
    else
      let s2 := { s1 with boot := { b with resends := b.resends + 1, ackAt := s1.now } }
      if !s2.net.link then .next s2
      else if b.next = 1 then .next (emit s2 .udp 69 (match b.lease with | some (_, _, f) => tftpRequest f | none => []))
      else .next (sendAck s2 (b.next - 1))
  else .next s1

/-- BOOT_RETRY: a failed fetch or a rejected bundle is tried again from DHCP; FAILED is left only by a cold reset (R339). -/
def execBootRetry (t : Nat) (s : State) : Answer :=
  let s1 := tick t s
  match s1.boot.retryAt with
  | none => .next s1
  | some x => if x ≤ s1.now ∧ bootHeld s1 = false ∧ s1.boot.stage ≠ 15 then .next (startNet s1) else .next s1

-- The handoff (R331, R333, R334)

/-- The handoff block. -/
def handoffBlock (s : State) (b : Bytes) : Bytes :=
  let part := s.sec.flash.part
  let ip := match s.boot.lease with | some (x, _, _) => x.toNat | none => 0
  natLe 4 0x4648594B ++ natLe 2 1 ++ natLe 1 s.boot.cool.toNat ++ [0] ++ sliceB part 8 8 ++ natLe 8 (hostSize s) ++ sliceB s.boot.hostMem 0 8 ++
    sliceB part 32 6 ++ zeroB 2 ++ sliceB part 24 6 ++ zeroB 2 ++ natLe 4 ip ++ natLe 4 s.boot.svn.toNat ++ natLe 8 s.now ++
    (bundleDigest b).take 40 ++ sliceB b 20 8 ++ zeroB 16

/-- BOOT_DONE: the loader is copied, the handoff block is written, APP_0 is powered and hart 0 is released. -/
def execBootDone (t : Nat) (s : State) : Answer :=
  let s1 := tick t s
  if s1.boot.stage = 7 ∧ handedOff s1 = false then
    let b := staged s1 s1.boot.got
    let s2 := setOn { s1 with clk := { s1.clk with run := s1.clk.run.set 4 true } } 88 true
    let s3 := match bundleSec b 5 with
      | some e => devWrite { s2 with boot := { s2.boot with load := fieldU e 16 8 } } (fieldU e 16 8) (secData b e) false
      | none => s2
    let s4 := devWrite s3 0 (handoffBlock s3 b) false
    .next (logEv (releaseHarts s4 1) 0x0700 0xE00F 15 (payload []))
  else .next s1

-- The host endpoint (R336)

/-- Whether a gateable peripheral runs (R442): bit of CLK_EN or CLK_AUTO. -/
def gateOn (s : State) (bit : Nat) : Bool := s.clk.autoEn.getLsbD bit || s.clk.en.getLsbD bit

def hostPortOn (s : State) : Bool := handedOff s && domOn s 91 && gateOn s 1

/-- Host memory as the endpoint reaches it: the host range without the firmware reserve (R464, log entry 13). What lies outside is logged
where nothing covers it (`missIn`, R25). -/
def hostRead (s : State) (a n : Nat) : Bytes := if a + n ≤ reserveBase s then devRead s a n else zeroB n
def hostWrite (s : State) (a : Nat) (b : Bytes) : State := if a + b.length ≤ reserveBase s then devWrite s a b false else s
def hostU (s : State) (a n : Nat) : Nat := leNat (hostRead s a n)

/-- A ring as its base word describes it: enabled, with 2^4 to 2^12 descriptors. -/
def hostRing (v : Nat) : Option Ring :=
  if bitAt v 63 && decide (4 ≤ v % 16) && decide (v % 16 ≤ 12) then some { base := bitsAt v 12 36 * 4096, n := 2 ^ (v % 16) } else none

/-- Address of descriptor i. -/
def Ring.desc (r : Ring) (i : Nat) : Nat := r.base + 16 * (i % r.n)

/-- The next transmit frame leaves, with its FCS. -/
def startTx (s : State) : State :=
  let k := s.net
  match k.tx with
  | none => s
  | some r =>
    if k.link && !k.sending && decide (k.txHead.toNat < k.txTail.toNat) then
      let d := r.desc k.txHead.toNat
      let a := hostU s d 8
      let n := hostU s (d + 8) 2
      let f := hostRead s a n
      let s1 := missIn (missIn s d 16) a n
      emit { s1 with net := { k with sending := true } } .hostFrame 0 (f ++ natLe 4 (crc32 f))
    else s

/-- HOST_PORT_SAMPLE: the endpoint reads its block; a base is latched when its enable appears and held until the enable is gone. -/
def execHostPortSample (t : Nat) (s : State) : Answer :=
  let s1 := tick t s
  if hostPortOn s1 then
    let k := s1.net
    let rx := hostU s1 0x80 8
    let tx := hostU s1 0x88 8
    let k1 : Net :=
      if !bitAt rx 63 then { k with rx := none }
      else match k.rx with
        | some _ => k
        | none => { k with rx := hostRing rx, rxHead := BitVec.ofNat 64 (hostU s1 0x98 8) }
    let k2 : Net :=
      if !bitAt tx 63 then { k1 with tx := none }
      else match k1.tx with
        | some _ => k1
        | none => { k1 with tx := hostRing tx, txHead := BitVec.ofNat 64 (hostU s1 0xA8 8) }
    .next (startTx { s1 with net := { k2 with
      rxTail := BitVec.ofNat 64 (hostU s1 0x90 8), txTail := BitVec.ofNat 64 (hostU s1 0xA0 8) } })
  else .next s1

/-- A broadcast ARP request for FW_IPV4, which the firmware endpoint takes. -/
def fwArp (s : State) (f : Bytes) : Bool :=
  match s.boot.lease with
  | some (ip, _, _) => beNat (sliceB f 12 2) == 0x0806 && beNat (sliceB f 20 2) == 1 && beNat (sliceB f 38 4) == ip.toNat
  | none => false

/-- HOST_FRAME_RECEIVE: a frame with its FCS. Frames for HOST_MAC and every other broadcast or multicast frame reach the receive ring. -/
def execHostFrameReceive (t : Nat) (frame : Bytes) (fcsOk : Bool) (s : State) : Answer :=
  let s1 := tick t s
  let k := s1.net
  let dst := sliceB frame 0 6
  let mine := dst == sliceB s1.sec.flash.part 32 6 || (bitAt (fieldU frame 0 1) 0 && !fwArp s1 frame)
  if hostPortOn s1 && k.link && mine && fcsOk && decide (4 ≤ frame.length) && decide (frame.length ≤ 9018) then
    match k.rx with
    | none => .next s1
    | some r =>
      if k.rxHead.toNat < k.rxTail.toNat then
        let d := r.desc k.rxHead.toNat
        let data := frame.take (frame.length - 4)
        let a := hostU s1 d 8
        let s2 := hostWrite (missIn (missIn s1 d 16) a data.length) a data
        let s3 := hostWrite (hostWrite s2 (d + 10) (natLe 2 data.length)) (d + 12) (natLe 2 1)
        .next (hostWrite { s3 with net := { k with rxHead := k.rxHead + 1 } } 0x98 (natLe 8 (k.rxHead + 1).toNat))
      else .next (hostWrite { s1 with net := { k with rxDrops := k.rxDrops + 1 } } 0xB0 (natLe 8 (k.rxDrops + 1).toNat))
  else .next s1

/-- HOST_FRAME_SENT: DONE and TX_HEAD follow once the frame has left, and the next frame begins. -/
def execHostFrameSent (t : Nat) (s : State) : Answer :=
  let s1 := tick t s
  let k := s1.net
  match k.tx with
  | none => .next { s1 with net := { k with sending := false } }
  | some r =>
    if k.sending then
      let s2 := hostWrite s1 (r.desc k.txHead.toNat + 12) (natLe 2 1)
      let s3 := hostWrite { s2 with net := { k with sending := false, txHead := k.txHead + 1 } } 0xA8 (natLe 8 (k.txHead + 1).toNat)
      .next (if hostPortOn s3 then startTx s3 else s3)
    else .next s1

-- The firmware endpoint (R335, R471)

/-- FIRMWARE_FRAME: ARP and ICMP echo are answered; a datagram of UDP port 7340 reaches the scheduler core and one of 7341 the security core,
whose messages are commands of their own; a datagram repeated within 1 s gets the cached response; other frames are dropped. -/
def execFirmwareFrame (t : Nat) (f : FwFrame) (s : State) : Answer :=
  let s1 := tick t s
  if !(handedOff s1 && domOn s1 91 && s1.net.link) then .next s1 else
  match f with
  | .arp ip =>
    match s1.boot.lease with
    | some (x, _, _) => if x = ip then .next (emit s1 .frame 0x0806 (sliceB s1.sec.flash.part 24 6 ++ natBe 4 ip.toNat)) else .next s1
    | none => .next s1
  | .icmpEcho data => .next (emit s1 .frame 0x0800 data)
  | .udpMgmt _ _ => .next s1
  | .udpSpdm src data =>
    let live := s1.net.cache.filter (fun c => !elapsed s1.now c.2.2.1 1000000000)
    match live.find? (fun c => c.1 == src && c.2.1 == data) with
    | some c => .next (emit { s1 with net := { s1.net with cache := live } } .udp 7341 c.2.2.2)
    | none => .next { s1 with net := { s1.net with cache := (src, data, s1.now, []) :: live } }
  | .other => .next s1

/-- DHCP_RENEW (R335, R341): the lease is renewed, or has expired and DHCP is repeated, after the fetch in progress where there is one. -/
def execDhcpRenew (t : Nat) (ip : Option (BitVec 32)) (s : State) : Answer :=
  let s1 := tick t s
  if !(domOn s1 91 && s1.net.link) || s1.boot.stage == 3 then .next s1 else
  let rest := match s1.boot.lease with | some (_, a, b) => (a, b) | none => (0, [])
  match ip with
  | some x => .next { s1 with boot := { s1.boot with lease := some (x, rest), expired := false } }
  | none =>
    if s1.boot.stage = 4 then .next { s1 with boot := { s1.boot with expired := true } }
    else .next (discover { s1 with boot := { s1.boot with lease := none } })

def execMgtLinkLost (t : Nat) (s : State) : Answer :=
  let s1 := tick t s
  .next { s1 with net := { s1.net with link := false } }

/-- I3C_PRIVATE_READ (R337): the 16-byte window. -/
def execI3cPrivateRead (t : Nat) (s : State) : Answer :=
  let s1 := tick t s
  if gateOn s1 3 && s1.boot.pgood && s1.boot.resetN then
    .next (emit s1 .i3c 0 (natLe 1 s1.boot.stage.toNat ++ natLe 1 s1.boot.fail.toNat ++ natLe 1 s1.boot.cool.toNat ++ natLe 1 (alarmLevel s1) ++
      natLe 2 s1.pwr.temp.toNat ++ natLe 2 (Nat.min 0xFFFF (s1.pwr.p1 / 1000)) ++ natLe 4 (s1.now / 1000000000) ++ zeroB 4))
  else .next s1

end Sys2Proof.Machine
end

