-- ==== Sys2Proof/Machine/Tickets.lean ====
section
/-! DEFINITION. The commands of the step boundary and of the ticket ledgers (chapter 14). -/

namespace Sys2Proof.Machine

-- B2 to B4 (R28, R171, R372, R379, R380)

/-- B1 and the step's work are complete (R28, R169, R308): every claimed cluster is DONE, every engine has walked its schedule and closed. -/
def stepDone (s : State) (p : Fin 8) (i : Img) : Bool :=
  (s.slot p).asg.cmap.all (fun c => clOn s c && (s.cl c).seq.mode == .done && !(s.cl c).seq.pauseReq && !(s.cl c).seq.paused) &&
    (imgUes i).all (fun e => (s.col e).state == 0 && (s.col e).fly.isEmpty && decide ((s.col e).count.toNat ≤ (s.col e).next) &&
      (s.ue e).regs.state == 2)

/-- B3: the ledgers are sampled and the tickets of a RUNNING partition act. -/
def stageB3 (s : State) (p : Fin 8) (c : Nat) : State :=
  let s1 := sampleAll (activateCores s p)
  let s2 := s1.setSlot p { s1.slot p with
    kat := (s1.slot p).kat.map (fun k => if k.allow && k.token.isNone && decide (s1.now ≤ k.deadline) then { k with ready := true } else k) }
  boundaryActs s2 p c

/-- DECIDE: B2 of the boundary that ends the step in progress, then B3 and B4 as far as no reload waits. -/
def execDecide (t : Nat) (p : Fin 8) (s : State) : Answer :=
  let s1 := tick t s
  let k := s1.slot p
  match k.run, k.img with
  | some r, some i =>
    if !schedUp s1 || r.stage != .inStep || !(k.st == .running || k.st == .recovering) || !stepDone s1 p i then .next s1 else
    let c := r.step
    let s2 := decideAll s1 p i c
    let nx : Run := { r with left := r.left - 1, step := (c + 1) % 2 ^ 32, stage := .atB3 }
    let s3 := syncHdr (s2.setSlot p { s2.slot p with
      led := { (s2.slot p).led with step := BitVec.ofNat 32 c }, run := some nx, twin := { (s2.slot p).twin with timedOut := false } }) p
    if (s3.slot p).twin.recov then .next (setTwin s3 p { (s3.slot p).twin with stopped := true })
    else if (s3.slot p).parking then .next (park s3 p)
    else if (findTicket s3 p r.num).isNone then .next (endRun s3 p stDone 0 .idle)
    else .next (stageB3 s3 p c)
  | _, _ => .next s1

/-- STAGE_B5 (R28, R402, R449): the step starts once the verified bound allows and every claimed cluster is on. -/
def execStageB5 (t : Nat) (p : Fin 8) (s : State) : Answer :=
  let s1 := tick t s
  let k := s1.slot p
  match k.run, k.img with
  | some r, some i =>
    let may : Bool := schedUp s1 && r.stage == .atB5 && (k.st == .running || k.st == .recovering) && (!k.parking || k.st == .recovering) && !k.twin.recov &&
      twinLets k.twin r.step && !(k.kat.any (fun x => x.ready)) &&
      !(k.twin.st == .rebuild && (match k.twin.j with | some j => decide (j < r.step) | none => false))
    if !may then .next s1
    else
      let s2 := wakeAtGo s1 p i r.step
      if k.asg.cmap.all (fun c => clOn s2 c) then .next (startStep s2 p i r)
      else .next (k.asg.cmap.foldl (fun (u : State) c => wakeLate u c r.step) s2)
  | _, _ => .next s1

-- Sampling

/-- LEDGER_SAMPLE: every registered ledger; the scheduler core passes a trace point (R387, log entry 54). -/
def execLedgerSample (t : Nat) (s : State) : Answer :=
  let s1 := tick t s
  if serving s1 then .next (fwTracePoint (sampleAll s1) 0x0702 15 (s1.sched.masks.get 2)) else .next s1

/-- CLAIM: the ticket at HEAD, where it is a CLAIM. -/
def execClaim (t : Nat) (p : Fin 8) (s : State) : Answer :=
  let s1 := tick t s
  let l := (s1.slot p).led
  let b := ticketSlot s1 p l.head
  if serving s1 && l.en && decide (l.head < leNat (devRead s1 l.addr 8)) && tkType b == 7 && fieldU b 60 4 == crc32 (b.take 60) then
    .next (syncHdr (afterLease s1 (examine (headNext (readLease s1 p) p) p b) p) p)
  else .next s1

-- Ticket types (R369, R380)

/-- RUN: a FENCED partition runs no further (R413); one that waits to rejoin, whose reload is in progress, or with a cluster still in RUN
(R133) waits. -/
def execRun (t : Nat) (p : Fin 8) (buddyCopy : Option Marked) (s : State) : Answer :=
  let s1 := tick t s
  if !serving s1 then .next s1 else
  let k := s1.slot p
  match turnOf s1 p 1 with
  | none => .next s1
  | some tk =>
    match k.st, k.img with
    | .empty, _ => .next (answer s1 p tk stState 0 (lastStep s1 p))
    | .idle, some i =>
      match k.twin.st with
      | .fenced => .next (answer s1 p tk stFailed 0x0303 (lastStep s1 p))
      | .waitRejoin | .rebuild => .next s1
      | _ => if s1.sched.job.any (fun j => j.slot == p) || !noneRuns s1 p then .next s1 else .next (startRun s1 p i tk buddyCopy)
    | _, _ => .next s1

/-- PAUSE. In PAUSED the reply names the step that holds the pause point, as the first one did: before B5 the last completed one (R370). -/
def execPause (t : Nat) (p : Fin 8) (s : State) : Answer :=
  let s1 := tick t s
  if !serving s1 then .next s1 else
  let k := s1.slot p
  match turnOf s1 p 2 with
  | none => .next s1
  | some tk =>
    match k.st with
    | .empty | .idle => .next (answer s1 p tk stState 0 0)
    | .paused =>
      let held : Bool := match k.run with | some r => r.stage == .atB5 | none => true
      .next (answer s1 p tk stDone 0 (if held then lastStep s1 p else stepNow s1 p))
    | .running =>
      match k.run with
      | none => .next s1
      | some r =>
        if k.pauseNum.isSome then .next s1
        else if r.stage = .atB5 then .next (setPState (answer s1 p tk stDone 0 (lastStep s1 p)) p .paused)
        else
          let s2 := beginTicket (s1.setSlot p { k with pauseNum := some tk.num }) p tk.num
          if r.stage = .atB3 then .next s2
          else .next (pauseDone (k.asg.cmap.foldl pauseCluster s2) p)
    | _ => .next s1

/-- RESUME. A partition whose RUN has been answered LAPSED completes its step and then idles (R380). -/
def execResume (t : Nat) (p : Fin 8) (s : State) : Answer :=
  let s1 := tick t s
  if !serving s1 then .next s1 else
  let k := s1.slot p
  match turnOf s1 p 3 with
  | none => .next s1
  | some tk =>
    match k.st with
    | .empty | .idle => .next (answer s1 p tk stState 0 0)
    | .running => .next (answer s1 p tk stDone 0 0)
    | .paused =>
      let s2 := answer s1 p tk stDone 0 0
      match k.run with
      | none => .next (setPState s2 p .idle)
      | some r =>
        if r.stage = .inStep then .next (k.asg.cmap.foldl resumeCluster (setPState s2 p .running))
        else if (findTicket s2 p r.num).isNone then .next (endRun s2 p stDone 0 .idle)
        else .next (setPState (s2.setSlot p { s2.slot p with run := some { r with dueAt := s2.now } }) p .running)
    | _ => .next s1

/-- CHECKPOINT: at once in IDLE; in RUNNING it acts at B4. -/
def execCheckpoint (t : Nat) (p : Fin 8) (s : State) : Answer :=
  let s1 := tick t s
  if !serving s1 then .next s1 else
  match turnOf s1 p 4 with
  | none => .next s1
  | some tk =>
    match (s1.slot p).st with
    | .empty => .next (answer s1 p tk stState 0 0)
    | .idle => .next (ckptTicket s1 p tk (lastStep s1 p))
    | _ => .next s1

/-- DETACH: at once in IDLE and PAUSED; in RUNNING it acts at B3. -/
def execDetach (t : Nat) (p : Fin 8) (s : State) : Answer :=
  let s1 := tick t s
  if !serving s1 then .next s1 else
  match turnOf s1 p 8 with
  | none => .next s1
  | some tk =>
    match (s1.slot p).st with
    | .empty => .next (answer s1 p tk stState 0 0)
    | .idle => .next (detachSlot (answer s1 p tk stDone 0 0) p)
    | .paused => .next (detachSlot (answer (endRun s1 p stEnded 0 .paused) p tk stDone 0 0) p)
    | _ => .next s1

/-- SELFTEST by ticket (R391, R392): resources of the own partition only. -/
def execSelftest (t : Nat) (p : Fin 8) (result : Nat) (s : State) : Answer :=
  let s1 := tick t s
  if !serving s1 then .next s1 else
  let k := s1.slot p
  match turnOf s1 p 6 with
  | none => .next s1
  | some tk =>
    if k.st = .recovering ∨ k.st = .parked then .next s1 else
    let target := fieldU tk.raw 17 1
    let r := katStatus result
    match fieldU tk.raw 16 1 with
    | 1 =>
      match physOf s1 p target with
      | none => .next (answer s1 p tk stDenied 0 0)
      | some c =>
        if k.st = .running then
          let w : KatWait :=
            { ticket := some tk.num, mgmt := none, target := target, cluster := c, deadline := s1.now + fieldU tk.raw 18 2 * 1000000
              allow := bitAt (fieldU tk.raw 13 1) 0, token := none, ready := false }
          .next (deferKat (beginTicket s1 p tk.num) p w 1 (fieldU tk.raw 24 8))
        else .next (katEnds (answer s1 p tk r.1 r.2 result) c result)
    | 2 =>
      match (pkgGroups (claimPkgs (slotPart s1 p))).find? (fun g => g.val == target) with
      | some g => .next (scrubTest (beginTicket s1 p tk.num) g p (some tk.num) none result)
      | none => .next (answer s1 p tk stDenied 0 0)
    | 4 => .next (answer s1 p tk (if target < 16 ∧ roleOf s1 p (toPort target) ≠ 0 then stState else stDenied) 0 0)
    | _ => .next (answer s1 p tk stDenied 0 0)

/-- SELFTEST_TIMEOUT (R392): the oldest CLUSTER_KAT whose time has passed without a window or a B3. -/
def execSelftestTimeout (t : Nat) (p : Fin 8) (s : State) : Answer :=
  let s1 := tick t s
  if !serving s1 then .next s1 else
  match (s1.slot p).kat.find? (fun k => !k.ready && k.token.isNone && decide (k.deadline < s1.now)) with
  | none => .next s1
  | some k => .next (refuseKat s1 p k)

/-- CLUSTER_KAT: the cluster's control core passes a trace point (R387, log entry 54) and the test runs on a cluster whose window has opened or whose B3 has come, or for R413 on one that issues no work. -/
def execClusterKat (t : Nat) (c : Fin 64) (result : Nat) (s : State) : Answer :=
  let s0 := tick t s
  if !schedUp s0 then .next s0 else
  match claimOf s0 c with
  | none => .next s0
  | some (p, _) =>
    let s1 := if clOn s0 c then fwTracePoint s0 (0x0780 + c.val) p.val (s0.cl c).core.mask else s0
    let k := s1.slot p
    match k.kat.find? (fun x => x.ready && x.cluster == c) with
    | some w =>
      let s2 := s1.setSlot p { k with kat := k.kat.filter (fun x => x != w) }
      let r := katStatus result
      .next (katEnds (answerKat s2 p w r.1 r.2 result) c result)
    | none =>
      match k.twin.kats with
      | some (l, _) => if l.contains c then .next (katEnds s1 c result) else .next s1
      | none => .next s1

-- Wake hints (R447, R448); a hint waits from its STAT.TRACE until the power-management core acts on it

/-- The image's entry n of a kind whose trigger has occurred. -/
def hintDue (s : State) (p : Fin 8) (n kind : Nat) : Option Bytes :=
  match (s.slot p).img with
  | none => none
  | some i =>
    let e := wakeEntry i n
    if (s.slot p).hints.contains n ∧ fieldU e 0 1 = kind then some e else none

def dropHint (s : State) (p : Fin 8) (n : Nat) : State := s.setSlot p { s.slot p with hints := (s.slot p).hints.filter (fun x => x != n) }

/-- Index of entry n among the SLACK entries. -/
def slackIndex (i : Img) (n : Nat) : Nat := ((List.range n).filter (fun m => fieldU (wakeEntry i m) 0 1 == 4)).length

/-- SLACK: the window opens; tests that wait for it may run. -/
def execSlack (t : Nat) (p : Fin 8) (entry : Nat) (s : State) : Answer :=
  let s1 := tick t s
  match hintDue s1 p entry 4, (s1.slot p).img with
  | some e, some i =>
    let len := fieldU e 4 4
    let k := (dropHint s1 p entry).slot p
    let idx := slackIndex i entry
    let fits (w : KatWait) : Bool :=
      (match claimOf s1 w.cluster with | some (_, l) => slackFits e l | none => false) &&
        (match w.token with
        | some (st, n) => st == stepNow s1 p && n == idx
        | none => decide (s1.now ≤ w.deadline))
    let ls := (List.range 64).filter (fun l => bitAt (fieldU e 8 8) l)
    .next (s1.setSlot p { k with
      slack := ls.map (fun l => (l, s1.now + len * 1000)) ++ k.slack.filter (fun x => !ls.contains x.1)
      kat := k.kat.map (fun w => if fits w then { w with ready := true } else w) })
  | _, _ => .next s1

/-- WAKE_ON_POINT: the targets are powered. -/
def execWakeOnPoint (t : Nat) (p : Fin 8) (entry : Nat) (s : State) : Answer :=
  let s1 := tick t s
  match hintDue s1 p entry 2 with
  | none => .next s1
  | some e => .next ((wakeTargets s1 p e).foldl wantCl (dropHint s1 p entry))

/-- SLEEP_ON_POINT: targets that are DONE or IDLE with nothing outstanding are powered down; the hint waits until all of them are
off. -/
def execSleepOnPoint (t : Nat) (p : Fin 8) (entry : Nat) (s : State) : Answer :=
  let s1 := tick t s
  match hintDue s1 p entry 3 with
  | none => .next s1
  | some e =>
    let rest (u : State) (c : Fin 64) : Bool := let k := u.cl c; (k.seq.mode == .done || k.seq.mode == .idle) && idleUnits k && k.seq.sigOut.isEmpty
    let ts := wakeTargets s1 p e
    let s2 := ts.foldl (fun (u : State) c => if clOn u c && rest u c then powerDownCl u c else u) s1
    .next (if ts.any (fun c => clOn s2 c) then s2 else dropHint s2 p entry)

-- Ledger registers and the lease (R366, R378, R379)

/-- TKT_BASE_p: a write while the ledger is claimed and its lease has not lapsed has no effect (R366). -/
def tktBaseWrite (s : State) (who : Requester) (p : Fin 8) (part : RegPart) (val : W64) : State :=
  let isApp : Bool := match who with | .app _ => true | _ => false
  if !isApp then s else
  let l := (s.slot p).led
  let r := halfWrite s (csrBase + 0x2000 + 0x20 * p.val) who part val l.base true
  match r.2 with
  | none => r.1
  | some v =>
    let b : W64 := v &&& 0x8000FFFFFFFFF000
    let a := bitsAt b.toNat 12 36 * 4096
    if (l.claimed && !lapsed r.1 p) || (b.getLsbD 63 && decide (reserveBase r.1 < a + 0x61000)) then r.1
    else
      let s1 := setLed r.1 p { l with base := b, badReads := 0 }
      if b.getLsbD 63 then syncHdr (setLed s1 p { (s1.slot p).led with head := leNat (devRead s1 a 8) }) p else s1

def execTktBase (t : Nat) (who : Requester) (p : Fin 8) (part : RegPart) (val : W64) (s : State) : Answer :=
  .next (tktBaseWrite (tick t s) who p part val)

/-- LEASE_LAPSED (R378, R379): 200 ms without a change of the lease word. -/
def execLeaseLapsed (t : Nat) (p : Fin 8) (s : State) : Answer :=
  let s1 := tick t s
  let l := (s1.slot p).led
  if !serving s1 || !l.en || !l.claimed || lapsed s1 p || !elapsed s1.now l.leaseAt 200000000 then .next s1 else .next (lapse s1 p)

end Sys2Proof.Machine
end

