-- ==== Sys2Proof/Machine/Observe.lean ====
section
/-! DEFINITION. Trace points and their hints, the trace drain and tensor dumps (chapter 20; R150, R447, R448, R479). -/

namespace Sys2Proof.Machine

-- Tensors by symbol (R512 to R514)

/-- The SYMBOLS entry of a hash. -/
def symEntry (i : Img) (hash : Nat) : Option Bytes :=
  ((List.range (fieldU i.symbols 0 4)).map (fun n => sliceB i.symbols (16 + 64 * n) 64)).find? (fun e => fieldU e 0 8 == hash)

def symExt (e : Bytes) (d : Nat) : Nat := fieldU e (32 + 4 * d) 4

/-- Rows of a tensor, and bytes of one row (R44). -/
def symRows (e : Bytes) : Nat := symExt e 1 * symExt e 2 * symExt e 3
def symRowLen (e : Bytes) : Nat :=
  match fmtOfCode (fieldU e 10 1) with
  | some f => (symExt e 0 * fmtBits f + 7) / 8
  | none => 0

/-- Bytes of scale entries in one row (R45): none where SBASE is 0; one FP32 scale of an INT8 row; else one entry per batt. -/
def symScaleLen (e : Bytes) : Nat :=
  if fieldU e 24 8 = 0 then 0
  else if fieldU e 10 1 = 9 then 4
  else (symExt e 0 + 31) / 32 * (if bitAt (fieldU e 11 1) 0 then 4 else 1)

/-- Bytes that a dump of the tensor moves. -/
def symSize (e : Bytes) : Nat := symRows e * (symRowLen e + symScaleLen e)

/-- Offset of row r from BASE (R512). -/
def symRowOff (e : Bytes) (r : Nat) : Int :=
  let i1 := r % symExt e 1
  let i2 := r / symExt e 1 % symExt e 2
  let i3 := r / symExt e 1 / symExt e 2
  (i1 : Int) * fieldS e 48 4 + (i2 : Int) * fieldS e 52 4 + (i3 : Int) * fieldS e 56 4

/-- Addresses of the data bytes and then of the scale bytes, in linear order. -/
def symAddrs (e : Bytes) : List Nat :=
  (List.range (symRows e)).flatMap (fun r => span ((fieldU e 16 8 : Int) + symRowOff e r).toNat (symRowLen e)) ++
    span (fieldU e 24 8) (symRows e * symScaleLen e)

/-- A byte of the tensor and its poison flag, from the operand store of the capture cluster or from a partition address. -/
def symByte (s : State) (p : Fin 8) (c : Fin 64) (e : Bytes) (a : Nat) : Byte × Bool :=
  if bitAt (fieldU e 11 1) 1 then ((s.cl c).ops.get a, nsMem (s.cl c).ops.poison (a / 32)) else (pGet s p a, pPoi s p a)

/-- Length of the container of a dump (R515). -/
def dumpLen (s : State) (p : Fin 8) (n : Nat) : Nat :=
  64 + n + ((n + 31) / 32 + 7) / 8 + (if (s.sec.tenants.get p).isSome then 16 else 48)

-- DUMP (R479, R513)

/-- The AUTH that a DUMP ticket must carry (R479). -/
def dumpAuth (s : State) (p : Fin 8) (raw : Bytes) : Bytes :=
  match s.sec.tenants.get p with
  | none => zeroB 16
  | some k => (hmac384 k.kAuth (sliceB raw 16 8 ++ sliceB raw 24 4 ++ sliceB raw 32 8 ++ sliceB raw 0 8 ++ natLe 1 p.val)).take 16

/-- A DUMP ticket whose turn has come: answered, or armed. -/
def dumpTicket (s : State) (p : Fin 8) (t : Ticket) : State :=
  let k := s.slot p
  match k.img with
  | none => answer s p t stState 0 0
  | some i =>
    if sliceB t.raw 40 16 ≠ dumpAuth s p t.raw then answer s p t stDenied 0 0
    else match symEntry i (fieldU t.raw 16 8) with
      | none => answer s p t stBadTicket 0 0
      | some e =>
        let n := symSize e
        let dest := fieldU t.raw 32 8
        if partSize s p < dest + n ∨ partOwns s p dest n = false ∨ k.obs.dumpLen.toNat < dumpLen s p n then answer s p t stBadTicket 0 0
        else if fieldU t.raw 24 4 ≤ k.led.step.toNat ∨ k.obs.dump.isSome = true then answer s p t stState 0 0
        else
          let s1 := beginTicket s p t.num
          let j : DumpJob := { num := t.num, entry := e, step := fieldU t.raw 24 4, dest := dest, taken := none }
          s1.setSlot p { s1.slot p with obs := { (s1.slot p).obs with dump := some j } }

def execDump (t : Nat) (p : Fin 8) (s : State) : Answer :=
  let s1 := tick t s
  if !serving s1 then .next s1 else
  match turnOf s1 p 5 with
  | some k => .next (dumpTicket s1 p k)
  | none => .next s1

-- STAT.TRACE (R150, R447, R448, R510, R514)

/-- The wake entries that a trace point of a logical cluster triggers (R447, R448). -/
def hintsOf (i : Img) (l point step : Nat) : List Nat :=
  (List.range (wakeN i)).filter (fun n =>
    let e := wakeEntry i n
    decide (2 ≤ fieldU e 0 1) && fieldU e 1 1 == l && fieldU e 2 2 == point && wakeApplies e step)

/-- The capture of an armed dump (R514): the first execution of its step. -/
def captureDump (s00 : State) (p : Fin 8) (c : Fin 64) (point step : Nat) : State :=
  let o := (s00.slot p).obs
  match o.dump with
  | none => s00
  | some j =>
    let e := j.entry
    if j.taken.isSome || j.step != step || fieldU e 12 1 != clLcl (s00.cl c) || fieldU e 14 2 != point then s00 else
    let s := planksNow s00
    let b := (symAddrs e).map (symByte s p c e)
    let ws := b.zipIdx.map (fun (x : (Byte × Bool) × Nat) => ({ addr := j.dest + x.2, byte := x.1.1, poi := x.1.2 } : WByte))
    let s1 := pCommit s p ws
    let bad := (b.zipIdx.filterMap (fun (x : (Byte × Bool) × Nat) => if x.1.2 then some (x.2 / 32) else none)).eraseDups
    s1.setSlot p { s1.slot p with obs := { (s1.slot p).obs with dump := some { j with taken := some (b.map Prod.fst, bad) } } }

/-- What a trace point sets off in its partition. -/
def tracePoint (s : State) (c : Fin 64) (point : Nat) : State :=
  let k := s.cl c
  let step := k.sreg.step.toNat
  match claimOf s c with
  | none => s
  | some (p, l) =>
    match (s.slot p).img with
    | none => s
    | some i =>
      let x := s.slot p
      let s1 := s.setSlot p { x with hints := (hintsOf i l point step).foldl (fun (h : List Nat) n => nsSet h n true) x.hints }
      captureDump s1 p c point step

def traceBody (c : Fin 64) (s : State) (w : IWord) : State :=
  let point := bitsAt w.toNat 96 16
  advanceWord (tracePoint (traceRec s c 1 point (bitsAt w.toNat 0 64)) c point) c

def execTrace (t : Nat) (c : Fin 64) (s : State) : Answer := issueWord t c 5 1 (traceBody c) s

-- DUMP_DELIVER (R515)

/-- The header of a container. -/
def dumpHead (s : State) (p : Fin 8) (i : Img) (j : DumpJob) (bad n : Nat) : Bytes :=
  natLe 4 0x5044594B ++ natLe 2 1 ++ natLe 1 p.val ++ natLe 1 (if (s.sec.tenants.get p).isSome then 1 else 0) ++ sliceB j.entry 0 8 ++
    natLe 4 j.step ++ natLe 4 bad ++ natLe 8 j.num ++ natLe 8 n ++ natLe 8 i.imageId ++ zeroB 16

/-- One bit per granule. -/
def poisonMap (n : Nat) (bad : List Nat) : Bytes :=
  (List.range (((n + 31) / 32 + 7) / 8)).map (fun j =>
    BitVec.ofNat 8 (((List.range 8).filter (fun b => bad.contains (8 * j + b))).map (fun b => 2 ^ b)).sum)

/-- The container: header, data and poison bitmap, encrypted for a bound slot, and its trailer. -/
def dumpContainer (s : State) (p : Fin 8) (i : Img) (j : DumpJob) (data : Bytes) (bad : List Nat) : Bytes :=
  let h := dumpHead s p i j bad.length data.length
  let body := data ++ poisonMap data.length bad
  match s.sec.tenants.get p with
  | none => h ++ body ++ sha384 (h ++ body)
  | some k =>
    let x := gcmEncrypt k.kDump (natLe 8 j.num ++ zeroB 4) h body
    h ++ x.1 ++ x.2

/-- DUMP_DELIVER: a captured dump is delivered and answered. -/
def execDumpDeliver (t : Nat) (p : Fin 8) (s0 : State) : Answer :=
  let s := tick t s0
  let k := s.slot p
  match k.obs.dump, k.img with
  | some j, some i =>
    match j.taken, findTicket s p j.num with
    | some (data, bad), some tk =>
      if !schedUp s then .next s else
      let b := dumpContainer s p i j data bad
      let s1 := hostWrite s (bitsAt k.obs.dumpOut.toNat 12 36 * 4096) b
      let s2 := s1.setSlot p { s1.slot p with obs := { (s1.slot p).obs with dump := none } }
      .next (answer s2 p tk stDone 0 b.length)
    | _, _ => .next s
  | _, _ => .next s

-- The trace drain (R511)

/-- One record of a cluster copied to the drain ring. -/
def drainOne (s : State) (p : Fin 8) (c : Fin 64) (n : Nat) : State :=
  let o := (s.slot p).obs
  let v := o.drain.toNat
  let h := o.drainHd.toNat
  let s1 := hostWrite s (bitsAt v 12 36 * 4096 + 32 * (h % 2 ^ (v % 32))) ((s.cl c).trace.read (n % 512 * 32) 32)
  s1.setSlot p { s1.slot p with obs := { (s1.slot p).obs with drainHd := o.drainHd + 1 } }

/-- TRACE_DRAIN: the pending records of a cluster of a partition whose drain is enabled. -/
def execTraceDrain (t : Nat) (c : Fin 64) (s0 : State) : Answer :=
  let s := tick t s0
  match claimOf s c with
  | none => .next s
  | some (p, _) =>
    let k := (s.cl c).trc
    let hi := k.recno.toNat
    if !bitAt (s.slot p).obs.drain.toNat 5 || !gateOn s 5 || !clOn s c then .next s else
    let lo := max k.drained (hi - 512)
    let s1 := (span lo (hi - lo)).foldl (fun (u : State) n => drainOne u p c n) s
    .next (s1.setCl c { s1.cl c with trc := { (s1.cl c).trc with drained := hi } })

end Sys2Proof.Machine
end

