-- ==== Sys2Proof/Machine/Plank.lean ====
section
/-! DEFINITION. The commands of the plank: PASS, commit, pounce checks, faults, re-execution, freezing (chapter 4 of the manual). -/

namespace Sys2Proof.Machine

/-- The claims of the accumulator blocks after a pass issues (R99). -/
def claimBlocks (k : Plank) (p : PassF) : Plank :=
  if p.new then
    let cl : Claim := { acc := k.nextAcc, shape := p.shape, mm1 := p.mm1, nm1 := p.nm1, mode := p.mode, comp := p.comp }
    { k with nextAcc := k.nextAcc + 1, claims := p.allBlocks.foldl (fun (l : List (Nat × Claim)) b => alPut l b (some cl)) k.claims }
  else k

/-- A valid PASS enters the plank: its records are read, its cycles fixed by R93, its index and draw by R136 and R166. -/
def acceptPass (s : State) (c : Fin 64) (w : IWord) : State :=
  let k := s.cl c
  let p := passFields w
  let tile := k.ops.read p.trec 128
  let recs := passRecs k p
  let L := passLayer recs
  let n := passIndex k.seq L
  let fu := fusionOf p.a p.w
  let t := arrCyc s c
  let aset := actSet p tile
  let newC := startsChain k.plk p fu aset t
  let x := passTimes k.plk.last newC p.shape p.m t
  let ch := match k.plk.last with
    | none => 0
    | some l => if newC then l.chain + 1 else l.chain
  let q : Pass :=
    { word := w, tile := tile, recs := recs.map Prod.fst, plans := recs.map Prod.snd, seqNo := k.plk.issued, layer := L, ladder := k.seq.ladder,
      index := n, draw := passSample s c p L, zskip := k.plk.zskipEn, step := k.sreg.step, chain := ch, issueC := t, stagedC := x.1 + sigmaOf p.shape,
      firstC := x.2, attempt := 0, aband := none, kinds := [], ecc := false, counted := true, run := PassRun.idle }
  let k1 := claimBlocks k.plk p
  let edges := k1.edges.filter (fun e => k1.passes.any (fun y => y.chain == e.chain) || e.chain == ch)
  advanceWord (s.setCl c { k with
    plk := { k1 with
      passes := k1.passes ++ [q], last := some q.asLast, brk := false, issued := k1.issued + 1
      edges := edges ++ if newC then edgesOf none [q] else [] }
    seq := { k.seq with passIdx := alPut k.seq.passIdx L (some (n + 1)) }
    rng := { k.rng with evals := k.rng.evals + (if p.pen then 1 else 0) } }) c

/-- PASS (R134, R138, R107, R125): waits for room in the plank, for the freeze to release, and for the pounce unit where it is
sampled; then it is checked and accepted. -/
def passBody (c : Fin 64) (s0 : State) (w : IWord) : State :=
  if 6 ≤ outP (s0.cl c) || (s0.cl c).frozen then s0 else
  let s := rowsNow s0 c
  let k := s.cl c
  match passCheck s c w with
  | some r => stopHere s c r w
  | none =>
    let p := passFields w
    if (passSample s c p (passLayer (passRecs k p))).isSome && !k.plk.checks.isEmpty then s else acceptPass s c w

def execPass (t : Nat) (c : Fin 64) (s : State) : Answer := issueWord t c 1 0 (passBody c) s

/-- FX of the count of products: the wider operand's format (R84, R506). -/
def passFx (p : PassF) : Nat := if fusionRank p.a < fusionRank p.w then p.wfmt else p.afmt

/-- The commit of the pass at the front, whose rows are all complete (R98, R104, R121, R162, R506). The check of a sampled pass reads its
BF16 rows and columns now. Where an earlier sampled pass's check is still under way, this one follows it (R107 holds back the issue of a
sampled pass while the unit is busy, and leaves open a pass that was issued before: DESIGN CHOICE, log entry 15). -/
def commitPass (s0 : State) (c : Fin 64) (q0 : Pass) : State :=
  let s := rowsNow s0 c
  let k := s.cl c
  let q := (k.plk.passes.find? (fun y => y.seqNo == q0.seqNo)).getD q0
  let p := q.p
  let k2 := { k with
    plk := { k.plk with
      passes := k.plk.passes.filter (fun y => y.seqNo != q.seqNo)
      accSel := flipSel k.plk.accSel p.allBlocks
      fusion := q.fusion, shape := p.shape
      checks := k.plk.checks ++ (match q.draw with
        | some g => [{ seqNo := q.seqNo, layer := q.layer, ladder := q.ladder, d4 := pounceCheck q.run.narrow (wideRows k p q.tile g) }]
        | none => []) }
    cnt := { k.cnt with passes := k.cnt.passes + 1 }
    rng := { k.rng with evals := k.rng.evals + BitVec.ofNat 64 (shadowDraws p q.recs q.plans) } }
  let s1 := foldPass (s.setCl c k2) c q q.run.res
  let s2 := countOp s1 (clPart k) (passFx p) (p.m * 32 * p.kg * p.n * tileCount p.shape)
  let s3 := (shapedElems p q.recs).foldl (fun (t : State) x => countOp t (clPart k) (16 + x.1) x.2) s2
  let s4 := if k.trc.pass then traceRec s3 c 2 q.layer q.seqNo else s3
  afterUnit s4 c

/-- The commit cycle of the oldest pass has come (R93, R98); nothing commits while the plank is frozen (R114). -/
def execPassCommit (t : Nat) (c : Fin 64) (s0 : State) : Answer :=
  let s := tick t s0
  match inFlight s c with
  | [] => .next s
  | q :: _ =>
    if clOn s c && !(s.cl c).frozen && decide (q.commitC ≤ arrCyc s c) then .next (commitPass s c q) else .next s

/-- The recomputation of the oldest check ends (R106, R107, R167). -/
def execPounceCheckDone (t : Nat) (c : Fin 64) (s0 : State) : Answer :=
  let s := tick t s0
  let k := s.cl c
  match k.plk.checks with
  | [] => .next s
  | h :: r =>
    if !clOn s c || k.frozen then .next s else
    let k1 := { k with plk := { k.plk with checks := r }, cnt := { k.cnt with pounce := k.cnt.pounce + 1 } }
    .next (afterUnit (foldCheck (s.setCl c k1) c h) c)

def execPlankResidue (t : Nat) (c : Fin 64) (seq tile : Nat) (s : State) : Answer := .next (plankFault (rowsNow (tick t s) c) c 0 seq tile)
def execAccEcc (t : Nat) (c : Fin 64) (seq tile : Nat) (s : State) : Answer := .next (plankFault (rowsNow (tick t s) c) c 1 seq tile)
def execShadowParity (t : Nat) (c : Fin 64) (seq tile : Nat) (s : State) : Answer := .next (plankFault (rowsNow (tick t s) c) c 2 seq tile)

/-- Re-execution (R112, R116): once no pass is in flight, not before a pending pause point, not in FAULTED or while frozen. -/
def execPassReexecute (t : Nat) (c : Fin 64) (s0 : State) : Answer :=
  let s := tick t s0
  let k := s.cl c
  if clOn s c && !k.frozen && !k.plk.faulted && !k.seq.pauseReq && !k.seq.paused && (inFlight s c).isEmpty &&
      k.plk.passes.any (fun q => q.aband.isSome) then .next (reexecute s c)
  else .next s

/-- CLR_FAULTED (R113, R119): the shadows, the edge buffer, the dropped passes and the sequencer's queue are discarded and OUT_P is 0, so
the plank reads IDLE although passes before the exhausted one may still run to their commits (R112); the sequencer is IDLE once the engines
have completed. -/
def clrFaulted (s : State) (c : Fin 64) : State :=
  let k := s.cl c
  if !k.plk.faulted then s else
  let live := k.plk.passes.map (fun q => q.seqNo)
  let held := live ++ k.plk.checks.map (fun h => h.seqNo)
  let k1 := { k with
    plk := { k.plk with
      faulted := false, dropped := [], passes := k.plk.passes.map (fun q => { q with counted := false })
      last := k.plk.passes.getLast?.map Pass.asLast, brk := true
      edges := k.plk.edges.filter (fun e => k.plk.passes.any (fun q => q.chain == e.chain)) }
    seq := { k.seq with draining := true }
    dma := k.dma.map (fun j => match j with
      | .flush g => .flush { g with waitP := g.waitP.filter live.contains, waitC := g.waitC.filter held.contains }
      | x => x) }
  afterUnit (s.setCl c k1) c

def execPlkCtrlClrFaulted (t : Nat) (who : Requester) (c : Fin 64) (s0 : State) : Answer :=
  let s := tick t s0
  if plkWriter who c && clOn s c then .next (clrFaulted s c) else .next s

/-- The freeze takes effect on its arrival, within the 16 array cycles of R114. -/
def execFreezeRequest (t : Nat) (c : Fin 64) (cause : FreezeCause) (s : State) : Answer := .next (freezeCl (tick t s) c cause)
def execFreezeRelease (t : Nat) (c : Fin 64) (cause : FreezeCause) (s : State) : Answer := .next (releaseCl (tick t s) c cause)

end Sys2Proof.Machine
end

