-- ==== Sys2Proof/Machine/Power.lean ====
section
/-! DEFINITION. Clocks, power domains, the power cap and thermal sensors (chapter 17: R434 to R461), and PWR_APP (R344). -/

namespace Sys2Proof.Machine

-- References and switches (R434 to R440)

/-- Clock code and index (R438). -/
def clockIdx : Clock → Fin 4
  | .arr => 0
  | .fab => 1
  | .ctl => 2
  | .app => 3

def refCode : Ref → BitVec 2
  | .loc => 0
  | .recP => 1
  | .recA => 2

/-- A loaded image declares a port with CLK bit b, and that port is UP (R434). -/
def recoveredUp (s : State) (b : Nat) : Bool :=
  (List.finRange 16).any (fun q => (s.port q).state == 3 && (match portDecl s q with
    | some x => bitAt (fieldU x.2 5 1) b
    | none => false))

/-- READY of a reference by code (R434). -/
def refReady (s : State) (code : BitVec 2) : Bool :=
  match code.toNat with
  | 0 => s.clk.readyL
  | 1 => s.clk.readyP && recoveredUp s 0
  | 2 => s.clk.readyA && recoveredUp s 1
  | _ => false

/-- Who may write CLK_SEL and PWR_REQ (R457). -/
def clkWriter : Requester → Bool
  | .pmc | .app _ => true
  | _ => false

/-- A request to switch a clock to a reference (R438): no effect on the current one, refused, or a switch under way. -/
def clkSel (s : State) (k : Clock) (code : BitVec 2) : State :=
  if s.clk.src.get (clockIdx k) = code then s
  else if s.clk.switching.isSome || !refReady s code then
    logEv { s with clk := { s.clk with refused := true } } 0x0400 0x8003 15 (payload [(0, 1, (clockIdx k).val), (1, 1, code.toNat)])
  else { s with clk := { s.clk with switching := some (k, code) } }

/-- The fallback target of R440: REC_A where it is READY and not the lost reference, else LOCAL. -/
def fallbackTo (s : State) (src : BitVec 2) : Option (BitVec 2) :=
  if src ≠ 2 ∧ refReady s 2 = true then some 2
  else if src ≠ 0 ∧ refReady s 0 = true then some 0
  else none

/-- Automatic fallback (R440): the first clock in holdover, in the order CTL, FAB, APP, ARR, that has a target begins its switch. -/
def autoFall (s : State) : State :=
  if !s.clk.auto || s.clk.switching.isSome then s else
  match [Clock.ctl, Clock.fab, Clock.app, Clock.arr].findSome? (fun k =>
      if s.clk.holdover.get (clockIdx k) then (fallbackTo s (s.clk.src.get (clockIdx k))).map (fun r => (k, r)) else none) with
  | some x => clkSel s x.1 x.2
  | none => s

/-- Whether a switch towards a reference is in progress. -/
def switchTo (s : State) (code : BitVec 2) : Bool :=
  match s.clk.switching with
  | some x => x.2 == code
  | none => false

/-- A reference stops being READY (R438, R440): its clocks enter holdover, a switch to it is abandoned, and fallback may begin. -/
def loseRef (s : State) (code : BitVec 2) : State :=
  let k := s.clk
  let used := k.src.toList.any (fun c => c == code)
  let gone := switchTo s code
  let k1 : Clk := { k with
    readyL := k.readyL && code != 0, readyP := k.readyP && code != 1, readyA := k.readyA && code != 2
    holdover := Vector.ofFn (fun i => k.holdover.get i || k.src.get i == code)
    lost := k.lost || used
    switching := if gone then none else k.switching }
  let s1 := { s with clk := k1 }
  autoFall (if used || gone then logEv s1 0x0400 0x8004 15 (payload [(0, 1, code.toNat)]) else s1)

/-- The cycles that an ARR handover costs the units of a cluster that nothing else freezes or stalls (R439). -/
def handoverCl (s : State) (c : Fin 64) : State :=
  let k := s.cl c
  if !clOn s c then s
  else s.setCl c { k with
    cnt := if k.frozen then k.cnt else { k.cnt with frozen := k.cnt.frozen + 48 }
    vec := if k.stalled then k.vec else { k.vec with stall := k.vec.stall + 48 } }

/-- What the stop of a clock costs (R439): 48 array cycles of every cluster; 64 cycles of CTL, 53 ns, of every lease interval. -/
def handover (s : State) (k : Clock) : State :=
  match k with
  | .arr => (List.finRange 64).foldl handoverCl s
  | .ctl => (List.finRange 8).foldl (fun (t : State) p => setLed t p { (t.slot p).led with leaseAt := (t.slot p).led.leaseAt + 53 }) s
  | .fab => s
  | .app => s

def execClkSelArr (t : Nat) (who : Requester) (code : BitVec 2) (s : State) : Answer :=
  .next (if clkWriter who then clkSel (tick t s) .arr code else tick t s)
def execClkSelFab (t : Nat) (who : Requester) (code : BitVec 2) (s : State) : Answer :=
  .next (if clkWriter who then clkSel (tick t s) .fab code else tick t s)
def execClkSelCtl (t : Nat) (who : Requester) (code : BitVec 2) (s : State) : Answer :=
  .next (if clkWriter who then clkSel (tick t s) .ctl code else tick t s)
def execClkSelApp (t : Nat) (who : Requester) (code : BitVec 2) (s : State) : Answer :=
  .next (if clkWriter who then clkSel (tick t s) .app code else tick t s)

/-- CLK_SWITCH (R438, R439): the switch in progress of a clock completes; a target that is no longer READY ends it instead. It arrives at
the restart of the domain. -/
def execClkSwitch (t : Nat) (k : Clock) (s0 : State) : Answer :=
  let s := tick t s0
  match s.clk.switching with
  | none => .next s
  | some (k', code) =>
    if k' ≠ k then .next s
    else if !refReady s code then .next (loseRef s code)
    else
      let c := s.clk
      let s1 := handover { s with clk := { c with
        switching := none, src := vset c.src (clockIdx k) code, holdover := vset c.holdover (clockIdx k) false, switches := c.switches + 1 } } k
      .next (autoFall (logEv s1 0x0400 0x8002 15 (payload [(0, 1, (clockIdx k).val), (1, 1, code.toNat)])))

/-- REF_LOST (R440). A recovered reference is lost only after it has been READY. -/
def execRefLost (t : Nat) (r : Ref) (s0 : State) : Answer :=
  let s := tick t s0
  let was := match r with | .loc => s.clk.readyL | .recP => s.clk.readyP | .recA => s.clk.readyA
  .next (if was then loseRef s (refCode r) else s)

/-- CLK_FALLBACK_RETRY (R440). -/
def execClkFallbackRetry (t : Nat) (s : State) : Answer := .next (autoFall (tick t s))

/-- Index of a die's ARR PLL among the clocks that run. -/
def arrRun (die : Fin 2) : Fin 5 := die.castLE (by decide)

/-- ARR_PLL_STOP (R437): 1 ms after the last CL_ or SP_ domain of the die went down. -/
def execArrPllStop (t : Nat) (die : Fin 2) (s0 : State) : Answer :=
  let s := tick t s0
  match s.pwr.idleAt.get die with
  | none => .next s
  | some t0 =>
    if dieBusy s die || !elapsed s.now t0 1000000 then .next s
    else .next { s with clk := { s.clk with run := vset s.clk.run (arrRun die) false }, pwr := { s.pwr with idleAt := vset s.pwr.idleAt die none } }

-- Power domains (R443 to R445, R461)

/-- CL_, SP_ and UE_ domains: those that the rate limit counts (R444) and that stay off with an invalid class (R22). -/
def limitedDom (i : Nat) : Bool := decide (i < 66) || (decide (84 ≤ i) && decide (i < 88))

/-- UE_e powered up: registers at reset values, then the image loader's values (R443). -/
def powerUpUe (s : State) (e : Fin 4) : State :=
  let s1 := setOn ((s.setUe e Ue.reset).setCol e Col.reset) (84 + e.val) true
  match (List.finRange 8).findSome? (fun p => match (s1.slot p).img with
      | some i => if (imgUes i).contains e then some (p, i) else none
      | none => none) with
  | some x => imageEngine s1 x.1 x.2 e
  | none => s1

/-- LG_g powered up: its declared ports enter TRAIN (R268, R443). -/
def powerUpLg (s : State) (g : Nat) : State :=
  let s1 := setOn s (76 + g) true
  (List.finRange 16).foldl (fun (t : State) q => if q.val / 2 = g then startPort t q else t) s1

/-- The after-wake state of a domain (R443). -/
def powerUpDom (s : State) (i : Nat) : State :=
  if h : i < 64 then powerUpCl s ⟨i, h⟩
  else if i = 64 then powerUpSp s 0
  else if i = 65 then powerUpSp s 1
  else if h : 68 ≤ i ∧ i < 76 then powerUpMg s ⟨i - 68, by omega⟩
  else if 76 ≤ i ∧ i < 84 then powerUpLg s (i - 76)
  else if h : 84 ≤ i ∧ i < 88 then powerUpUe s ⟨i - 84, by omega⟩
  else setOn s i true

/-- Power-ups of limited domains within the last 2 µs (R444). -/
def recentStarts (s : State) : List Nat := s.pwr.starts.filter (fun t0 => !elapsed s.now t0 2000)

/-- Whether a domain may power up before the spine pool of its die: a cluster may not (R27). -/
def spFirst (s : State) (i : Nat) : Bool := if h : i < 64 then !spOn s (clDie ⟨i, h⟩) else false

/-- POWER_UP: a domain that something has asked for becomes usable. With an invalid class no CL_, SP_ or UE_ domain powers up (R22), a
ninth of them within 2 µs starts later (R444), and a cluster starts after the spine pool of its die (R27). -/
def execPowerUp (t : Nat) (dom : Fin 96) (s0 : State) : Answer :=
  let s := tick t s0
  let l := recentStarts s
  if domOn s dom.val || !s.pwr.want.getLsbD dom.val then .next s
  else if limitedDom dom.val then
    (if s.clk.cool == some 3 || decide (8 ≤ l.length) || spFirst s dom.val then .next s
     else .next (powerUpDom { s with pwr := { s.pwr with starts := s.now :: l } } dom.val))
  else .next (powerUpDom s dom.val)

/-- POWER_FAULT (R445, R340): a domain that was to power up stays off. -/
def execPowerFault (t : Nat) (dom : Fin 96) (s0 : State) : Answer :=
  let s := tick t s0
  let i := dom.val
  if domOn s i || !s.pwr.want.getLsbD i then .next s else
  let s1 := { s with pwr := { s.pwr with want := setDom s.pwr.want i false, pfault := true } }
  let s2 := logEv s1 0x0701 0x800B 15 (payload [(0, 1, i)])
  if h : i < 64 then .next (spareCluster s2 ⟨i, h⟩)
  else if h : 68 ≤ i ∧ i < 76 then
    (if s2.boot.stage = 6 ∧ (pkgGroups (fieldU s2.boot.hostMem 0 3)).contains (⟨i - 68, by omega⟩ : Fin 8) = true then
      .next (bootFail s2 0x08 (some 0xE008) (payload []) true) else .next s2)
  else .next s2

/-- PWR_REQ.APP1_ON (R461, R456). -/
def app1Write (s : State) (who : Requester) (on : Bool) : State :=
  if !clkWriter who then s else
  let s1 := { s with pwr := { s.pwr with app1 := on } }
  if on then wantOn s1 89 else if domOn s1 89 then powerDownApp1 s1 else { s1 with pwr := { s1.pwr with want := setDom s1.pwr.want 89 false } }

def execPwrReqApp1On (t : Nat) (who : Requester) (on : Bool) (s : State) : Answer := .next (app1Write (tick t s) who on)

/-- PWR_APP.START (R331, R344): harts that are held and whose domain is on are released. -/
def appStart (s : State) (who : Requester) (harts : BitVec 16) : State :=
  let ok := match who with | .app _ => true | .sec => true | _ => false
  if !ok then s else
  let can : BitVec 16 := (if domOn s 88 then 0x00FE else 0) ||| (if domOn s 89 then 0xFF00 else 0)
  releaseHarts s (harts &&& can)

def execPwrAppStart (t : Nat) (who : Requester) (harts : BitVec 16) (s : State) : Answer := .next (appStart (tick t s) who harts)

-- The power cap (R450 to R453)

/-- Sustained cap of the class in mW (R21). -/
def capMw (s : State) : Nat :=
  match s.clk.cool with
  | some 0 => 1200000
  | some 1 => 1900000
  | some 2 => 2600000
  | _ => 3300000

def fullBucket (s : State) : Nat :=
  match s.clk.cool with
  | some c => bucketCap c
  | none => 0

/-- The bucket and the state of the throttle after one decision (R451). -/
def bucketStep (s : State) (p1 : Nat) : State :=
  let cap := fullBucket s
  let b := min cap (s.pwr.bucket + capMw s - p1)
  let cls := match s.clk.cool with | some c => c.toNat | none => 0
  let s1 := { s with pwr := { s.pwr with p1 := p1, bucket := b } }
  if cap = 0 then s1
  else if !s1.pwr.throttle && b == 0 then
    logRated { s1 with pwr := { s1.pwr with throttle := true } } 100 0x0701 0x8005 15 0 (payload [(0, 1, cls)])
  else if s1.pwr.throttle && decide (cap / 2 ≤ b) then
    logRated { s1 with pwr := { s1.pwr with throttle := false } } 100 0x0701 0x8006 15 0 (payload [(0, 1, cls)])
  else s1

/-- Power above which clusters are frozen, in mW (R451). -/
def targetMw (s : State) : Nat := if s.pwr.throttle then capMw s else 3300000

/-- d_c of the clusters that are not frozen (R453). -/
def noteDyn (s : State) (l : List (Fin 64 × Nat)) : State :=
  { s with pwr := { s.pwr with dyn := l.foldl (fun (v : Vector Nat 64) x => if (s.cl x.1).frz.isEmpty then vset v x.1 x.2 else v) s.pwr.dyn } }

/-- Hot clusters whose 8 µs have passed change over (R455), as far as the changes left allow. -/
def toggleHot (s : State) (budget : Nat) : State × Nat :=
  s.pwr.hot.foldl (fun (a : State × Nat) x =>
    if a.2 = 0 || !elapsed a.1.now x.2 8000 then a else
    let s1 := if ((a.1.cl x.1).frz).contains .hot then releaseCl a.1 x.1 .hot else freezeCl a.1 x.1 .hot
    ({ s1 with pwr := { s1.pwr with hot := s1.pwr.hot.map (fun y => if y.1 == x.1 then (y.1, s1.now) else y) } }, a.2 - 1)) (s, budget)

/-- A throttle freeze ends. -/
def unthrottle (s : State) (c : Fin 64) : State :=
  let s1 := releaseCl s c .throttle
  { s1 with pwr := { s1.pwr with held := s1.pwr.held.filter (fun x => x.1 != c) } }

/-- A cluster is frozen by throttle and the rotating pointer moves past it. -/
def throttleCl (s : State) (c : Fin 64) : State :=
  let s1 := freezeCl s c .throttle
  { s1 with pwr := { s1.pwr with held := s1.pwr.held ++ [(c, s1.now)], ptr := c + 1 } }

/-- Clusters that may be frozen by throttle, in rotation: in RUN, not paused, not held already (R453). -/
def rotation (s : State) : List (Fin 64) :=
  ((List.finRange 64).map (fun i => s.pwr.ptr + i)).filter (fun c =>
    clOn s c && (s.cl c).seq.mode == .run && !(s.cl c).seq.paused && !((s.cl c).frz.contains .throttle))

/-- Freezes clusters in rotation: the first `swap` of them as replacements, and then until their d_c cover `need`. -/
def throttleMore (s : State) (swap need budget : Nat) : List (Fin 64) → State
  | [] => s
  | c :: r =>
    match budget with
    | 0 => s
    | b + 1 =>
      match swap with
      | k + 1 => throttleMore (throttleCl s c) k need b r
      | 0 => if need = 0 then s else throttleMore (throttleCl s c) 0 (need - s.pwr.dyn.get c) b r

/-- POWER_DECISION (R444, R450 to R453, R455), made every 1 µs with the power estimate and the dynamic power of the clusters, in mW. A cluster
held for 8 µs is released and the next in rotation frozen in its place, unless it would be released anyway. -/
def execPowerDecision (t : Nat) (p1 : Nat) (dyn : List (Fin 64 × Nat)) (s0 : State) : Answer :=
  let s1 := noteDyn (bucketStep (tick t s0) p1) dyn
  let target := targetMw s1
  let due := (s1.pwr.held.filter (fun x => elapsed s1.now x.2 8000)).map (fun x => x.1)
  let out := due.take 16
  let rot := (rotation s1).filter (fun c => !out.contains c)
  let s2 := out.foldl unthrottle s1
  let h := toggleHot s2 (16 - out.length)
  let s3 := h.1
  let free (c : Fin 64) : Bool := decide ((p1 + s1.pwr.dyn.get c) * 100 ≤ 98 * target)
  let swap := (out.filter (fun c => !free c)).length
  let s4 :=
    if target < p1 then throttleMore s3 swap (p1 - target) h.2 rot
    else
      let s5 := throttleMore s3 swap 0 h.2 rot
      let left := h.2 - (s5.pwr.held.length - s3.pwr.held.length)
      (((s5.pwr.held.map (fun x => x.1)).filter free).take left).foldl unthrottle s5
  let n := ((List.finRange 64).filter (fun c => (s4.cl c).frz.contains .throttle || (s4.cl c).frz.contains .hot)).length
  .next { s4 with pwr := { s4.pwr with throttled := s4.pwr.throttled + BitVec.ofNat 64 n } }

-- The hardware limit (R454)

/-- HW_ILIMIT: every plank freezes and every vector engine stalls. -/
def execHwIlimit (t : Nat) (s0 : State) : Answer :=
  let s := tick t s0
  let s1 := (List.finRange 64).foldl (fun (x : State) c => freezeCl x c .hwLimit) { s with pwr := { s.pwr with hwActive := true, hwLim := true } }
  .next (logRated s1 100 0x0400 0x8007 15 0 (payload []))

/-- HW_LIMIT_RELEASE: the next 16 clusters that the limit holds are released, in ascending number. -/
def execHwLimitRelease (t : Nat) (s0 : State) : Answer :=
  let s := tick t s0
  let l := (List.finRange 64).filter (fun c => clOn s c && (s.cl c).frz.contains .hwLimit)
  let s1 := (l.take 16).foldl (fun (x : State) c => releaseCl x c .hwLimit) s
  .next { s1 with pwr := { s1.pwr with hwActive := decide (16 < l.length) } }

-- Thermal sensors (R455, R540)

/-- Scope of a sensor: the dies in the order of R540. -/
def sensorScope : Sensor → Nat
  | .cluster c => (clDie c).val
  | .link d _ => 2 + d.val
  | .control _ => 4

def sensorNo : Sensor → Nat
  | .cluster c => c.val
  | .link _ i => i.val
  | .control i => i.val

def noteReading (s : State) (x : Sensor × Int) : State :=
  { s with pwr := { s.pwr with sensors := x :: s.pwr.sensors.filter (fun y => y.1 != x.1) } }

/-- PWR_THERM: the hottest cluster reading, and its cluster, the lowest-numbered of equals (R461). -/
def noteHottest (s : State) : State :=
  let rd (c : Fin 64) : Option (Int × Fin 64) := (s.pwr.sensors.find? (fun y => y.1 == .cluster c)).map (fun y => (y.2, c))
  match (List.finRange 64).foldl (fun (m : Option (Int × Fin 64)) c => match m, rd c with
      | none, x => x
      | some y, some x => if y.1 < x.1 then some x else some y
      | some y, none => some y) none with
  | none => s
  | some x => { s with pwr := { s.pwr with temp := BitVec.ofInt 16 x.1, tempCl := BitVec.ofNat 6 x.2.val } }

/-- Whether a trip of a scope holds a cluster: that of its own die, or of any other die (R455). -/
def tripHolds (scopes : List Nat) (c : Fin 64) : Bool := scopes.any (fun x => x == (clDie c).val || decide (2 ≤ x))

/-- Clusters that cool below 97 °C are no longer hot; clusters at 100 °C or more become so, at most 16 changes in one reading (R444). -/
def hotStep (s : State) (rs : List (Sensor × Int)) : State :=
  let cool (c : Fin 64) : Bool := rs.any (fun x => x.1 == .cluster c && decide (x.2 < 776))
  let off := (s.pwr.hot.map (fun x => x.1)).filter cool
  let s1 := off.foldl (fun (t : State) c =>
    let u := releaseCl t c .hot
    { u with pwr := { u.pwr with hot := u.pwr.hot.filter (fun y => y.1 != c) } }) s
  let fresh := rs.filterMap (fun x => match x.1 with
    | .cluster c => if 800 ≤ x.2 ∧ clOn s1 c = true ∧ s1.pwr.hot.any (fun y => y.1 == c) = false then some (c, x.2) else none
    | _ => none)
  let s2 := (fresh.take (16 - off.length)).foldl (fun (t : State) x =>
    let u := freezeCl t x.1 .hot
    { u with pwr := { u.pwr with hot := u.pwr.hot.filter (fun y => y.1 != x.1) ++ [(x.1, u.now)] } }) s1
  rs.foldl (fun (t : State) x => match x.1 with
    | .cluster c => if 800 ≤ x.2 then
        logRated t 100 0x0701 0x8008 15 c.val (payload [(0, 1, c.val), (2, 2, (BitVec.ofInt 16 x.2).toNat)]) else t
    | _ => t) s2

/-- Trips whose sensors all read below 100 °C release. -/
def untrip (s : State) : State :=
  let keep := s.pwr.scopes.filter (fun k => s.pwr.sensors.any (fun y => sensorScope y.1 == k && decide (800 ≤ y.2)))
  let s1 := { s with pwr := { s.pwr with scopes := keep } }
  (List.finRange 64).foldl (fun (t : State) c =>
    if (t.cl c).frz.contains .trip && !tripHolds keep c then releaseCl t c .trip else t) s1

/-- THERMAL_READ, every 10 µs. The power-management core passes a trace point (R387). -/
def execThermalRead (t : Nat) (readings : List (Sensor × Int)) (s0 : State) : Answer :=
  let s1 := noteHottest (readings.foldl noteReading (tick t s0))
  let s2 := untrip (hotStep s1 readings)
  .next (fwTracePoint (if tempOut s0 || tempOut s2 then holdTemp s2 else s2) 0x0701 15 (s0.sched.masks.get 1))

/-- THERM_TRIP: a sensor at 108 °C or more. -/
def execThermTrip (t : Nat) (sensor : Sensor) (reading : Int) (s0 : State) : Answer :=
  let s := tick t s0
  let k := sensorScope sensor
  if reading < 864 || s.pwr.scopes.contains k then .next s else
  let s1 := noteReading s (sensor, reading)
  let s2 := { s1 with pwr := { s1.pwr with scopes := k :: s1.pwr.scopes, trip := true } }
  let s3 := (List.finRange 64).foldl (fun (x : State) c => if tripHolds [k] c then freezeCl x c .trip else x) s2
  let s4 := logEv s3 0x0400 0x8009 15 (payload [(0, 1, k), (1, 1, sensorNo sensor), (2, 2, (BitVec.ofInt 16 reading).toNat)])
  .next (alertEdge s s4)

end Sys2Proof.Machine
end

