-- ==== Sys2Proof/Machine/Security.lean ====
section
/-! DEFINITION. The security island's commands (chapter 18: R463 to R489): sessions and measurements, the owner record, keys, grants and
tenants, debug tokens, alarms. Signatures and encrypted exchanges enter as verdicts; what the security core answers is an output of kind spdm
(log entry 2): destination 0 done, 1 ERROR Busy, 2 STATE, 3 refused, 4 ERROR SessionLimitExceeded, 5 ERROR, then the command code and its
data. -/

namespace Sys2Proof.Machine

-- Sessions (R470, R475)

/-- The security core serves requests: start-up is over and no alarm of level 3 or higher is in effect (R483). -/
def secServes (s : State) : Bool := handedOff s && decide (alarmLevel s < 3)

def hasSession (s : State) (role : Role) : Bool := s.sec.sessions.any (fun x => x.role == role)

def cmdReply (s : State) (code st : Nat) (data : Bytes) : State := emit s .spdm st (natLe 1 code ++ data)

/-- A refused command (R475, R540): answered, and logged as SEC_DENIED. -/
def refuseCmd (s : State) (code st : Nat) : State := logRefused (cmdReply s code st []) code

/-- A security command in a session of a role (R475): no session, no command; any alarm refuses it; a session of another role is refused. -/
def secCommand (s : State) (role : Role) (may : Bool) (code : Nat) (f : State → State) : State :=
  if !secServes s || !hasSession s role then s
  else if alarmLevel s ≠ 0 then refuseCmd s code 1
  else if !may then refuseCmd s code 3
  else f s

/-- Signatures that BAK-H can make (R468). -/
def bakLimit : Nat := 2 ^ 20

/-- One more signature of BAK-E and BAK-H, where BAK-H is not exhausted (R468, R472). -/
def signOnce (s : State) : Option State :=
  if s.sec.bak && decide (s.sec.bakUsed < bakLimit) then some { s with sec := { s.sec with bakUsed := s.sec.bakUsed + 1 } } else none

/-- Free bytes of an answer: a signature or anything else whose bits an outside standard or a fresh value gives. -/
def freeBytes (s : State) (n : Nat) : State × Bytes :=
  let f := s.fresh
  (f.2, (List.range n).map (Config.responseByte f.1))

-- The owner record (R475 to R477)

/-- A record written to both copies with the next VERSION, and the counter advanced (R476). -/
def writeOwner (s : State) (b : Bytes) : State :=
  let f := s.sec.flash
  let r := patchB b 4 (natLe 4 (f.rpmc1 + 1).toNat)
  logEv { s with sec := { s.sec with
    owner := some r, flash := { f with ownerA := some (ownerRecord r), ownerB := some (ownerRecord r), rpmc1 := f.rpmc1 + 1 } } } 0x0700 0x9004 15 (payload [])

/-- A record whose fixed fields are as R476 gives them. -/
def ownerOk (b : Bytes) : Bool :=
  b.length == 2224 && fieldU b 0 4 == 0x574F594B && bitAt (fieldU b 12 1) 0 && decide (fieldU b 13 1 ≤ 32)

/-- SET_OWNER: an owned package also needs the current owner's HSS signature, whose failure is an authentication failure (R482). -/
def execSetOwner (t : Nat) (role : Role) (newRecord : Bytes) (hssOk : Bool) (s : State) : Answer :=
  let s1 := tick t s
  .next (secCommand s1 role (s1.sec.owner.isNone || role == .owner) 1 (fun x =>
    if !ownerOk newRecord then refuseCmd x 1 3
    else if x.sec.owner.isSome && !hssOk then authFailure (refuseCmd x 1 3)
    else cmdReply (writeOwner x newRecord) 1 0 []))

/-- Index of the entry of a key digest in the owner record (R476). -/
def keyEntry (r key : Bytes) : Option Nat :=
  (List.range (fieldU r 13 1)).find? (fun i => sliceB r (176 + 64 * i) 48 == sliceB key 0 48)

def keyBytes (key : Bytes) (bitmap : BitVec 8) : Bytes := sliceB key 0 48 ++ [bitmap] ++ zeroB 15

/-- AUTH_KEY: an entry added or replaced; a 33rd entry is refused. -/
def execAuthKey (t : Nat) (role : Role) (keyDigest : Bytes) (bitmap : BitVec 8) (s : State) : Answer :=
  .next (secCommand (tick t s) role (role == .owner) 2 (fun x =>
    match x.sec.owner with
    | none => refuseCmd x 2 3
    | some r =>
      let n := fieldU r 13 1
      match keyEntry r keyDigest with
      | some i => cmdReply (writeOwner x (patchB r (176 + 64 * i) (keyBytes keyDigest bitmap))) 2 0 []
      | none =>
        if 32 ≤ n then refuseCmd x 2 2
        else cmdReply (writeOwner x (patchB (patchB r (176 + 64 * n) (keyBytes keyDigest bitmap)) 13 (natLe 1 (n + 1)))) 2 0 []))

/-- REVOKE_KEY: the entry is removed, and those after it move down. -/
def execRevokeKey (t : Nat) (role : Role) (keyDigest : Bytes) (s : State) : Answer :=
  .next (secCommand (tick t s) role (role == .owner) 3 (fun x =>
    match x.sec.owner with
    | none => refuseCmd x 3 3
    | some r =>
      let n := fieldU r 13 1
      match keyEntry r keyDigest with
      | none => cmdReply x 3 0 []
      | some i =>
        let keep := sliceB r 176 (64 * i) ++ sliceB r (176 + 64 * (i + 1)) (64 * (31 - i)) ++ zeroB 64
        cmdReply (writeOwner x (patchB (patchB r 176 keep) 13 (natLe 1 (n - 1)))) 3 0 []))

/-- GRANT_SLOT: volatile, and only of an EMPTY slot. -/
def execGrantSlot (t : Nat) (role : Role) (p : Fin 8) (keyDigest : Bytes) (s : State) : Answer :=
  .next (secCommand (tick t s) role (role == .owner) 4 (fun x =>
    if (x.slot p).st ≠ .empty then refuseCmd x 4 2
    else cmdReply { x with sec := { x.sec with grants := vset x.sec.grants p (some (sliceB keyDigest 0 48)) } } 4 0 []))

-- Tenants (R478)

/-- The keys of a binding: TBS extracted from both shared secrets under h, then K_auth and K_dump. -/
def tenantOf (keyDigest request qd ct ss1 ss2 pub : Bytes) : Tenant :=
  let h := sha384 (request ++ qd ++ ct)
  let tbs := hmac384 h (ss1 ++ ss2)
  { keyDigest := sliceB keyDigest 0 48, pub := pub, tbs := tbs, kAuth := hkdfExpand tbs (ascii "KY7 auth") 48, kDump := hkdfExpand tbs (ascii "KY7 dump") 32 }

/-- BIND_TENANT: the exchange's values enter with the command; the answer carries Q_D and ct, signed. -/
def execBindTenant (t : Nat) (keyDigest : Bytes) (p : Fin 8) (request qd ct ss1 ss2 pub : Bytes) (s : State) : Answer :=
  let s1 := tick t s
  if !secServes s1 || s1.sec.sessions.isEmpty then .next s1
  else if alarmLevel s1 ≠ 0 then .next (refuseCmd s1 5 1)
  else if s1.sec.grants.get p ≠ some (sliceB keyDigest 0 48) then .next (refuseCmd s1 5 3)
  else if (s1.slot p).st ≠ .empty then .next (refuseCmd s1 5 2)
  else match signOnce s1 with
    | none => .next (cmdReply s1 5 1 [])
    | some s2 =>
      let s3 := { s2 with sec := { s2.sec with tenants := vset s2.sec.tenants p (some (tenantOf keyDigest request qd ct ss1 ss2 pub)) } }
      let g := freeBytes (logEv s3 0x0700 0x9007 p.val (payload [])) 96
      .next (cmdReply g.1 5 0 (qd ++ ct ++ g.2))

/-- RAISE_FLOOR: a lower or equal value is refused. -/
def execRaiseFloor (t : Nat) (role : Role) (floor : Nat) (s : State) : Answer :=
  .next (secCommand (tick t s) role (role == .owner) 6 (fun x =>
    match x.sec.owner with
    | none => refuseCmd x 6 3
    | some r => if floor ≤ fieldU r 8 4 ∨ 2 ^ 32 ≤ floor then refuseCmd x 6 3 else cmdReply (writeOwner x (patchB r 8 (natLe 4 floor))) 6 0 []))

/-- ENABLE_RETIRE. -/
def execEnableRetire (t : Nat) (role : Role) (s : State) : Answer :=
  .next (secCommand (tick t s) role (role == .owner) 8 (fun x =>
    match x.sec.owner with
    | none => refuseCmd x 8 3
    | some r =>
      if bitAt (fieldU r 12 1) 1 then cmdReply x 8 0 []
      else cmdReply (writeOwner x (patchB r 12 (natLe 1 (fieldU r 12 1 + 2)))) 8 0 []))

-- Debug tokens (R480, R481)

/-- The slot that a token names. -/
def tokenSlot (k : Token) : Option (Fin 8) := if h : k.part < 8 then some ⟨k.part, h⟩ else none

/-- Whether a token is accepted (R480, R481). The bits of SCOPE that R480 writes 0 are ignored (R538). -/
def tokenOk (s : State) (k : Token) (sigOk : Bool) : Bool :=
  let sc := k.scope.toNat % 16
  k.magic == 0x4742444B && k.ver == 1 && k.serial == BitVec.ofNat 64 (fieldU s.sec.flash.part 16 8) && k.boot == s.sec.bootC.toNat &&
    k.nonce == s.sec.nonce && sigOk && decide (1 ≤ k.life) && decide (k.life ≤ 86400) &&
    (if k.issuer = 1 then
      k.part == 0xFF && s.sec.owner.isSome && (!bitAt sc 3 || s.sec.tenants.toList.all (fun x => x.isNone))
     else if k.issuer = 2 then
      decide (sc < 4) && (match tokenSlot k with | some p => (s.sec.tenants.get p).isSome | none => false)
     else false)

/-- A token presented: accepted, it opens debug, draws a new nonce, extends index 14 and sets CLK_EN.DBG; else it is an authentication
failure. -/
def presentToken (s : State) (k : Token) (digest : Bytes) (sigOk : Bool) : State × Bool :=
  let slot := if k.issuer = 2 then tokenSlot k else none
  let part := match slot with | some p => p.val | none => 15
  if tokenOk s k sigOk then
    let d : DbgOpen := { slot := slot, scope := k.scope.setWidth 4, endAt := s.now + k.life * 1000000000 }
    let s1 := newNonce { s with
      sec := { s.sec with dbg := s.sec.dbg ++ [d], meas14 := extend s.sec.meas14 (sliceB digest 0 48) }
      clk := { s.clk with en := s.clk.en ||| 0x40 } }
    (logEv s1 0x0700 0x9009 part (payload []), true)
  else (authFailure (logEv s 0x0700 0x900A 15 (payload [])), false)

/-- DEBUG_OPEN, in an owner or a tenant session. -/
def execDebugOpen (t : Nat) (role : Role) (tok : Token) (tokDigest : Bytes) (sigOk : Bool) (s : State) : Answer :=
  .next (secCommand (tick t s) role (role != .relying) 7 (fun x =>
    let r := presentToken x tok tokDigest sigOk
    cmdReply r.1 7 (if r.2 then 0 else 3) []))

/-- TOKEN_LOAD: the JTAG TOKEN data register; a token is not checked under an alarm (R483). -/
def execTokenLoad (t : Nat) (tok : Token) (tokDigest : Bytes) (sigOk : Bool) (s : State) : Answer :=
  let s1 := tick t s
  if !secServes s1 || alarmLevel s1 != 0 then .next s1 else .next (presentToken s1 tok tokDigest sigOk).1

/-- DEBUG_CLOSE: tokens whose life has ended. -/
def execDebugClose (t : Nat) (s : State) : Answer :=
  let s1 := tick t s
  .next (closeDebug s1 (fun d => decide (d.endAt ≤ s1.now)))

-- SPDM (R470 to R474)

/-- PQ_SIG: the BAK-H signature over the transcript of the session's latest signed response. -/
def execPqSig (t : Nat) (role : Role) (s : State) : Answer :=
  let s1 := tick t s
  if !secServes s1 then .next s1 else
  match s1.sec.sessions.find? (fun x => x.role == role && x.signed) with
  | none => .next (if hasSession s1 role then cmdReply s1 9 5 [] else s1)
  | some x =>
    if alarmLevel s1 ≠ 0 then .next (refuseCmd s1 9 1) else
    let g := freeBytes { s1 with sec := { s1.sec with
      sessions := s1.sec.sessions.map (fun (y : Session) => if y.id = x.id then { y with signed := false } else y) } } 96
    .next (cmdReply g.1 9 0 g.2)

/-- Measurement indices that a role may read (R474). -/
def mayMeasure (role : Role) (i : Nat) : Bool :=
  (decide (1 ≤ i) && decide (i ≤ 5)) || i == 15 || i == 16 ||
    (match role with
     | .owner => decide (1 ≤ i) && decide (i ≤ 16)
     | .tenant p => i == 6 + p.val || i == 14
     | .relying => false)

/-- Content of a measurement block (R473); index 16 has no stated value while the package is unowned. -/
def measurement (s : State) (i : Nat) : State × Bytes :=
  let k := s.sec
  if i = 1 then (s, (List.range 48).map Config.fixedDigestByte)
  else if i = 2 then (s, k.meas2)
  else if i = 3 then (s, (List.range 48).map (fun j => Config.fixedDigestByte (48 + j)))
  else if i = 4 then (s, match k.owner with | some r => sha384 (sliceB r 16 156) | none => zeroB 48)
  else if i = 5 then (s, natLe 2 k.bootC.toNat ++ natLe 4 (fwFloor s) ++
    natLe 1 (match k.owner with | some r => fieldU r 12 1 / 2 % 2 | none => 0))
  else if i = 14 then (s, k.meas14)
  else if i = 15 then (s, natLe 1 k.highest)
  else if i = 16 then (match k.owner with | some r => (s, sha384 r) | none => freeBytes s 48)
  else if h : 6 ≤ i ∧ i < 14 then (s, k.measP.get ⟨i - 6, by omega⟩)
  else (s, [])

/-- The answer leaves on the port that brought the request; on the management port it is cached for a repeated datagram (R471). -/
def spdmSend (s : State) (via : Option (Fin 16)) (b : Bytes) : State :=
  match via with
  | some q => emit s .spdm (16 + q.val) b
  | none =>
    let fill (l : List (BitVec 48 × Bytes × Nat × Bytes)) : List (BitVec 48 × Bytes × Nat × Bytes) := match l with
      | (a, d, x, []) :: r => (a, d, x, b) :: r
      | y => y
    emit { s with net := { s.net with cache := fill s.net.cache } } .udp 7341 b

-- Certificates (R469)

/-- A DER element: tag, length and body. -/
def derElem (tag : Byte) (b : Bytes) : Bytes :=
  let n := b.length
  let len : Bytes := if n < 128 then [BitVec.ofNat 8 n] else if n < 256 then [0x81, BitVec.ofNat 8 n] else [0x82] ++ natBe 2 n
  [tag] ++ len ++ b

/-- The extension 1.3.6.1.4.1.59861.7.1, which carries the HSS signature over the TBSCertificate. -/
def hssExtension (c : Cert) : Bytes :=
  derElem 0x30 (derElem 0x06 [0x2B, 0x06, 0x01, 0x04, 0x01, 0x83, 0xD3, 0x55, 0x07, 0x01] ++ derElem 0x04 (Config.certPart c.num 2))

/-- A certificate: the TBSCertificate with its extension, the algorithm ecdsa-with-SHA384, and the ECDSA P-384 signature. -/
def certBytes (c : Cert) : Bytes :=
  derElem 0x30 (derElem 0x30 (Config.certPart c.num 0 ++ hssExtension c) ++
    derElem 0x30 (derElem 0x06 [0x2A, 0x86, 0x48, 0xCE, 0x3D, 0x04, 0x03, 0x03]) ++ derElem 0x03 (0 :: Config.certPart c.num 1))

/-- The chain of slot 0, root first. -/
def slotZero (s : State) : List Cert := s.sec.flash.chain ++ s.sec.bakCert.toList

/-- The chain as SPDM carries it (PRESUMED from DSP0274, log entry 56): its length, two zero bytes, the digest of the root, the
certificates. -/
def chainBytes (s : State) : Bytes :=
  let c := slotZero s
  let b := sha384 ((c.take 1).flatMap certBytes) ++ c.flatMap certBytes
  natLe 2 (b.length + 4) ++ zeroB 2 ++ b

/-- The portion of the chain that GET_CERTIFICATE asks for: slot, portion length, remainder, bytes (PRESUMED from DSP0274, log entry 56). -/
def chainPortion (s : State) (offset length : Nat) : Bytes :=
  let b := chainBytes s
  let p := sliceB b offset (min length (b.length - offset))
  natLe 1 0 ++ natLe 2 p.length ++ natLe 2 (b.length - (offset + p.length)) ++ p

/-- ERROR with a code: 1 Busy, 4 SessionLimitExceeded, 5 any other. -/
def spdmError (s : State) (via : Option (Fin 16)) (code : Nat) : State := spdmSend s via [0x7F, BitVec.ofNat 8 code]

/-- A response that is signed: refused under an alarm (R475), Busy once BAK-H is exhausted (R468). -/
def spdmSigned (s : State) (via : Option (Fin 16)) (session : Option Nat) (b : Bytes) : State :=
  if alarmLevel s ≠ 0 then logRefused (spdmError s via 1) 0 else
  match signOnce s with
  | none => spdmError s via 1
  | some s1 =>
    let s2 := { s1 with sec := { s1.sec with sessions := s1.sec.sessions.map (fun (y : Session) => if some y.id = session then { y with signed := true } else y) } }
    let g := freeBytes s2 96
    spdmSend g.1 via (b ++ g.2)

/-- The role that KEY_EXCHANGE gives a session (R470). -/
def roleFor (s : State) (r : Role) : Role :=
  match r with
  | .owner => if s.sec.owner.isSome then .owner else .relying
  | .tenant p => if (s.sec.tenants.get p).isSome then .tenant p else .relying
  | .relying => .relying

/-- Where SPDM messages arrive: the management port, or a brim port in ATTEST or later. -/
def spdmReaches (s : State) (via : Option (Fin 16)) : Bool :=
  match via with
  | none => domOn s 91 && s.net.link
  | some q => lgOn s q && ((s.port q).state == 2 || (s.port q).state == 3)

/-- The next request of a session: PQ_SIG for the response before it comes too late (R472). -/
def nextRequest (s : State) (session : Option Nat) : State :=
  { s with sec := { s.sec with sessions := s.sec.sessions.map (fun (y : Session) => if some y.id = session then { y with signed := false } else y) } }

/-- What the arrival of a request changes before its effect: a trace point of the security core too (R387). -/
def spdmHeard (s : State) (session : Option Nat) : State := nextRequest (fwTracePoint s 0x0700 15 (s.sched.masks.get 0)) session

/-- SPDM_MESSAGE. A secured message of a session that does not exist cannot be decrypted: an authentication failure (R482). -/
def execSpdmMessage (t : Nat) (viaPort : Option (Fin 16)) (session : Option Nat) (r : SpdmReq) (s0 : State) : Answer :=
  let s1 := tick t s0
  if !secServes s1 || !spdmReaches s1 viaPort then .next s1 else
  let s := spdmHeard s1 session
  let live := match session with | none => true | some i => s.sec.sessions.any (fun x => x.id == i)
  if !live then .next (authFailure s) else
  let role : Role := match session with
    | none => .relying
    | some i => match s.sec.sessions.find? (fun x => x.id == i) with | some x => x.role | none => .relying
  match r with
  | .getMeasurements i =>
    if !mayMeasure role i then .next (spdmError s viaPort 5) else
    let m := measurement s i
    .next (spdmSigned m.1 viaPort session (natLe 1 i ++ m.2))
  | .challenge => .next (spdmSigned s viaPort session [])
  | .keyExchange want algorithmsOk authOk =>
    if !algorithmsOk then .next (spdmError s viaPort 5)
    else if 16 ≤ s.sec.sessions.length then .next (spdmError s viaPort 4)
    else if !authOk then .next (authFailure (spdmError s viaPort 5))
    else
      let n := s.sec.nextSess
      let s1 := spdmSigned s viaPort none (natLe 4 n)
      if s1.sec.bakUsed = s.sec.bakUsed then .next s1 else
      let f := s1.fresh
      let g := f.2.fresh
      let x : Session := { id := n, role := roleFor s want, port := viaPort, signed := true, txKey := newFlitKey f.1, rxKey := newFlitKey g.1 }
      .next { g.2 with sec := { g.2.sec with sessions := g.2.sec.sessions ++ [x], nextSess := n + 1 } }
  | .endSession =>
    match session with
    | none => .next (spdmError s viaPort 5)
    | some i => .next (spdmSend { s with sec := { s.sec with sessions := s.sec.sessions.filter (fun x => x.id != i) } } viaPort [])
  | .getCertificate slot offset length =>
    if slot ≠ 0 then .next (spdmError s viaPort 5) else .next (spdmSend s viaPort (chainPortion s offset length))
  | .other =>
    let g := freeBytes s 32
    .next (spdmSend g.1 viaPort g.2)

-- Alarms (R482, R483, R485, R488)

/-- The level at which a sensor trips now; AUTH by the authentication failures of the last 60 s (R482). -/
def tripLevel (s : State) (code : Nat) : Nat :=
  if code = 5 then
    let n := (s.sec.authAt.filter (fun x => !elapsed s.now x 60000000000)).length
    if 64 ≤ n then cfgLevel s 5 else if 16 ≤ n then 1 else 0
  else cfgLevel s code

/-- ALARM: a sensor trips. The sensors work once SEC has power. -/
def execAlarm (t : Nat) (sensor : Fin 6) (s0 : State) : Answer :=
  let s := tick t s0
  let n := sensor.val + 1
  if !domOn s 92 || tripLevel s n == 0 then .next s else .next (raiseAlarm s n (tripLevel s n))

/-- SEC_ZEROISE.LEVEL written: by the security core, an alarm of that level (R488); by any other requester, a denied access (R26). -/
def zeroiseWrite (s : State) (who : Requester) (level : BitVec 3) : State :=
  if who ≠ .sec ∧ who ≠ .loader then logDenied s who (csrBase + 0x500000C) true
  else if 1 ≤ level.toNat ∧ level.toNat ≤ 3 then raiseAlarm s 0 level.toNat else s

def execSecZeroise (t : Nat) (who : Requester) (level : BitVec 3) (s : State) : Answer := .next (zeroiseWrite (tick t s) who level)

/-- Whether an alarm may have ended (R483). -/
def alarmOver (s : State) (a : AlarmOn) : Bool :=
  if a.sensor = 3 ∧ tempOut s = true then false
  else if a.level = 1 then
    elapsed s.now a.since 1000000000 && decide ((s.sec.authAt.filter (fun x => !elapsed s.now x 60000000000)).length < 16)
  else if a.level = 2 then elapsed s.now a.since 10000000
  else false

/-- What waited for the alarm goes on: the boot (R341), and a load (R363). -/
def afterAlarm (s : State) : State :=
  let s1 := if s.boot.stage = 2 ∧ s.sec.bak = true then startNet s else finishStage6 s
  match s1.sched.job with
  | none => s1
  | some j =>
    if j.full then (if j.waitFrom.isSome then finishFull s1 j else s1)
    else { s1 with sched := { s1.sched with job := some { j with waitFrom := none } } }

/-- ALARM_END: every cause has ended long enough ago; the later ending counts for all (R485). -/
def execAlarmEnd (t : Nat) (s0 : State) : Answer :=
  let s := tick t s0
  if s.sec.alarms.isEmpty || !s.sec.alarms.all (alarmOver s) then .next s
  else .next (afterAlarm { s with sec := { s.sec with alarms := [] } })

end Sys2Proof.Machine
end

