-- ==== Sys2Proof/Machine/Twin.lean ====
section
/-! DEFINITION. The commands of twin operation, checkpoints and recovery (chapter 15). A twin or recovery message is the command of its kind;
it counts where it arrives on an UP port of the partition that carries such messages. -/

namespace Sys2Proof.Machine

/-- A message of partition p that arrived on a port with one of some roles. -/
def heardOn (s : State) (q : Fin 16) (p : Fin 8) (f : Nat → Bool) : Bool := (s.port q).state == 3 && f (roleOf s p q) && !s.sched.failed

def onTwin (s : State) (q : Fin 16) (p : Fin 8) : Bool := heardOn s q p (fun r => r == 2)

-- Pairing and digests (R399, R401)

/-- HELLO. -/
def execHello (t : Nat) (port : Fin 16) (p : Fin 8) (finger : Bytes) (s : State) : Answer :=
  let s1 := tick t s
  let w := (s1.slot p).twin
  match (s1.slot p).img with
  | none => .next s1
  | some i =>
    if !onTwin s1 port p || w.st != .unpaired then .next s1
    else if finger = i.finger then .next (logTwin (setTwin s1 p { w with st := .paired, pairStep := none }) p 0xB001 (payload []))
    else .next (logTwin s1 p 0xB002 (payload []))

/-- DIGEST: the partner's digest of a step. -/
def execDigest (t : Nat) (port : Fin 16) (p : Fin 8) (step : Nat) (value : W64) (s : State) : Answer :=
  let s1 := tick t s
  if onTwin s1 port p && (s1.slot p).twin.st == .paired then .next (theirDigest s1 p step value) else .next s1

-- Recovery notices (R410)

/-- A notice sent onward as it came, by a package that takes no target from it (R410). -/
def forwardRecover (s : State) (p : Fin 8) (reason r gen target : Nat) : State :=
  sendTwin s (upPorts s) (twinData 3 p [(2, 1, reason), (4, 4, r), (24, 4, gen), (28, 4, target)] [])

/-- A RECOVER of a higher generation. -/
def adoptRecover (s : State) (p : Fin 8) (reason r gen target : Nat) : State :=
  let k := s.slot p
  let w := k.twin
  if k.run.isNone then forwardRecover (setTwin s p { w with gen := gen }) p reason r gen target
  else
    match newestBelow s p r with
    | none => noCheckpoint (forwardRecover (setTwin s p { w with gen := gen }) p reason r gen target) p 1 r none
    | some n =>
      let tgt := min target n
      let s1 := dropStream (setTwin s p { w with
        recov := true, cause := BitVec.ofNat 4 reason, r := r, gen := gen, target := some tgt
        stopped := w.stopped || (match k.run with | some x => x.stage == .atB5 | none => false), changed := s.now }) p
      logSch (sendRecover (setPState s1 p .recovering) p) 0xB006 p.val
        (payload [(0, 1, reason), (1, 1, p.val), (4, 4, r), (8, 4, tgt), (12, 4, gen)])

/-- RECOVER. -/
def execRecover (t : Nat) (port : Fin 16) (p : Fin 8) (reason : Nat) (r : Nat) (gen : Nat) (target : Nat) (s : State) : Answer :=
  let s1 := tick t s
  let w := (s1.slot p).twin
  if !heardOn s1 port p (fun x => x != 0) then .next s1
  else if w.gen < gen then .next (adoptRecover s1 p reason r gen target)
  else if w.gen = gen ∧ w.recov = true then
    match w.target with
    | some x => if target < x then .next (sendRecover (setTwin s1 p { w with target := some target, changed := s1.now }) p) else .next s1
    | none => .next s1
  else .next s1

-- The partner's state (R403, R415, R416)

def execParked (t : Nat) (port : Fin 16) (p : Fin 8) (s : State) : Answer :=
  let s1 := tick t s
  if onTwin s1 port p then .next (goSolo s1 p) else .next s1

def execFenced (t : Nat) (port : Fin 16) (p : Fin 8) (s : State) : Answer :=
  let s1 := tick t s
  if onTwin s1 port p then .next (goSolo s1 p) else .next s1

/-- JOIN with J in force on the ring ports. -/
def sendJoin (s : State) (p : Fin 8) (j : Nat) : State := sendTwin s (ringPorts s p) (twinData 7 p [(4, 4, j)] [])

/-- The step in progress or due, else the last one completed. -/
def currentStep (s : State) (p : Fin 8) : Nat := match (s.slot p).run with | some r => r.step | none => lastStep s p

/-- The J that stands (R415): one whose step has passed without a rebuild counts no more. -/
def standingJ (s : State) (p : Fin 8) : Option Nat :=
  let w := (s.slot p).twin
  match w.j with
  | some x => if w.st ≠ .rebuild ∧ x < currentStep s p then none else some x
  | none => none

/-- REBUILD: a SOLO survivor adopts J = its current step + 16. -/
def execRebuild (t : Nat) (port : Fin 16) (p : Fin 8) (s : State) : Answer :=
  let s1 := tick t s
  let k := s1.slot p
  if !onTwin s1 port p || k.twin.st != .solo then .next s1
  else
    let cur := currentStep s1 p
    let j := match standingJ s1 p with | some x => min x (cur + 16) | none => cur + 16
    .next (sendJoin (setTwin s1 p { k.twin with st := .rebuild, j := some j }) p j)

/-- JOIN: the smallest J seen is adopted and sent onward. -/
def execJoin (t : Nat) (port : Fin 16) (p : Fin 8) (j : Nat) (s : State) : Answer :=
  let s1 := tick t s
  let w := (s1.slot p).twin
  if !heardOn s1 port p (fun r => r == 1 || r == 4) then .next s1
  else match standingJ s1 p with
    | some x => if j < x then .next (sendJoin (setTwin s1 p { w with j := some j }) p j) else .next s1
    | none => .next (sendJoin (setTwin s1 p { w with j := some j }) p j)

/-- WAIT_REJOIN (R415): a fenced half, or a replacement that has loaded the image, waits; one that waits sends REBUILD every 1 s while its
ring ports are UP. -/
def execWaitRejoin (t : Nat) (p : Fin 8) (s : State) : Answer :=
  let s1 := tick t s
  let k := s1.slot p
  if !twinned s1 p || !schedUp s1 then .next s1 else
  let s2 := if k.run.isNone ∧ (k.twin.st = .fenced ∨ k.twin.st = .unpaired) then waitRejoin s1 p else s1
  let w := (s2.slot p).twin
  let due := match w.rebuiltAt with | none => true | some x => elapsed s2.now x 1000000000
  if w.st = .waitRejoin ∧ due = true ∧ (ringPorts s2 p).all (fun q => (s2.port q).state == 3) = true then
    .next (sendTwin (setTwin s2 p { w with rebuiltAt := some s2.now }) (twinPorts s2 p) (twinData 6 p [] []))
  else .next s2

/-- PAIRED again after step J (R416). -/
def rejoin (s : State) (p : Fin 8) (j : Nat) : State :=
  let w := (s.slot p).twin
  logTwin (setTwin s p { w with st := .paired, pairStep := some (j + 1), v := j, j := none, own := [], theirs := [], first := none }) p 0xB00C (payload [])

/-- A RUN that could not advance goes on with step j + 1, or ends where step j was its last (R380, R416, log entry 37). -/
def runOn (s : State) (p : Fin 8) (i : Img) (r : Run) (j : Nat) : State :=
  if r.left + r.step ≤ j + 1 then endRun s p stDone 0 .idle
  else
    let s1 := restartPolicy s p i j
    s1.setSlot p { s1.slot p with
      run := some { r with left := r.left + r.step - (j + 1), step := j + 1, stage := .atB5, applied := false, dueAt := s1.now } }

/-- TWIN_REBUILD_DONE: the survivor has streamed its shard state after step J in BULK flits (R264), or the partner has received it; no
cluster of it is in RUN (R133), and those of a step that could not advance are halted. -/
def execTwinRebuildDone (t : Nat) (p : Fin 8) (shard : Option Marked) (s : State) : Answer :=
  let s1 := tick t s
  let k := s1.slot p
  match k.img with
  | none => .next s1
  | some i =>
    match k.twin.st, k.run, k.twin.j, shard with
    | .rebuild, some r, some j, _ =>
      if r.stage = .atB5 ∧ r.step = j + 1 ∧ schedUp s1 = true then
        let b := ckptOf i p 1 j (readShard s1 p i)
        .next (rejoin ((twinPorts s1 p).foldl (fun (u : State) q => sendMsg u q 6 2 b.bytes b.poison) s1) p j)
      else .next s1
    | .waitRejoin, rn, _, some b =>
      let j := fieldU b.bytes 8 4
      if fieldU b.bytes 0 4 = 0x4B43594B ∧ fieldU b.bytes 16 8 = shardSize i ∧ 4096 + shardSize i ≤ b.bytes.length ∧ schedUp s1 = true then
        match rn with
        | none => if noneRuns s1 p then .next (rejoin (restoreCkpt s1 p i b) p j) else .next s1
        | some r => .next (runOn (rejoin (restoreCkpt (haltClusters s1 p) p i b) p j) p i r j)
      else .next s1
    | _, _, _, _ => .next s1

/-- TWIN_SOLO (R403): B5 has waited for SILENCE_MS, or no twin port has been UP for that time. -/
def execTwinSolo (t : Nat) (p : Fin 8) (s : State) : Answer :=
  let s1 := tick t s
  let k := s1.slot p
  let ns := k.twin.silence.toNat * 1000000
  let waits : Bool := match k.run with
    | some r => r.stage == .atB5 && !twinLets k.twin r.step && elapsed s1.now r.dueAt ns
    | none => false
  let quiet : Bool := (twinPorts s1 p).all (fun q => (s1.port q).state != 3 && elapsed s1.now (s1.port q).leftUp ns)
  if k.twin.st = .paired ∧ schedUp s1 = true ∧ (waits = true ∨ quiet = true) then .next (goSolo s1 p) else .next s1

-- Checkpoints (R406, R407)

/-- Bytes rounded up to 1 MiB. -/
def roundMiB (n : Nat) : Nat := cdiv n 0x100000 * 0x100000

/-- Whether the host partition must refuse a region at the top of its owner range. -/
def regionRefused (s : State) (p : Fin 8) (i : Img) (a n : Nat) : Bool :=
  decide (partSize s p < n) || overlaps a n (policyBase i) (policySize i.part) || overlaps a n i.loadArea i.total ||
    i.dests.any (fun d => overlaps a n d.1 d.2) || (s.slot p).ck.hosts.any (fun h => overlaps a n h.2.1 h.2.2)

/-- BUDDY_REQUEST (R406): the peer's answer to the own request, or the request of a peer. -/
def execBuddyRequest (t : Nat) (port : Fin 16) (p : Fin 8) (ev : BuddyEvent) (s : State) : Answer :=
  let s1 := tick t s
  let k := s1.slot p
  match k.img with
  | none => .next s1
  | some i =>
    if (s1.port port).state ≠ 3 ∨ roleOf s1 p port = 0 ∨ s1.sched.failed = true then .next s1 else
    match ev with
    | .answered ok =>
      if buddyPort s1 p ≠ some port ∨ k.ck.asked = true then .next s1
      else
        let s2 := s1.setSlot p { k with ck := { k.ck with asked := true, hosted := ok } }
        .next (if ok then s2 else logSch s2 0xB00B p.val (payload []))
    | .received slotBytes =>
      let n := 2 * roundMiB slotBytes
      let a := partSize s1 p - n
      if regionRefused s1 p i a n then .next (emit s1 .bulk port.val [0])
      else .next (emit (s1.setSlot p { k with ck := { k.ck with hosts := k.ck.hosts ++ [(port.val, a, n)] } }) .bulk port.val [1])

/-- CKPT_DONE. -/
def execCkptDone (t : Nat) (p : Fin 8) (s : State) : Answer :=
  let s1 := tick t s
  if schedUp s1 then .next (closeCkpt s1 p) else .next s1

-- RESTORE (R411, R412)

/-- The step in progress can go no further: an engine has stopped, or a cluster does not run it to DONE. -/
def stepStuck (s : State) (p : Fin 8) (i : Img) : Bool :=
  (imgUes i).any (fun e => !ueOn s e || (s.col e).state == 3 || (s.ue e).regs.state == 3) ||
    (s.slot p).asg.cmap.any (fun c => !clOn s c || (s.cl c).plk.faulted || (s.cl c).seq.mode == .stopped || (s.cl c).seq.mode == .idle)

/-- Controller groups of the partition with a LOST parity group. -/
def lostGroups (s : State) (i : Img) : List (Fin 8) :=
  (pkgGroups (claimPkgs i.part)).filter (fun g => mgOn s g && (List.finRange 2).any (fun m => ((s.mg g).pgrps.get m).state == 3))

/-- The checkpoint of step T as it reads: the buddy's copy, or a memory checkpoint. -/
def targetBytes (s : State) (p : Fin 8) (i : Img) (tgt : Nat) (buddyCopy : Option Marked) : Option Marked :=
  let k := (s.slot p).ck
  let inBuddy := (k.slots.toList.filterMap id).any (fun b => b.complete && b.agreed && b.step == tgt)
  match inBuddy, buddyCopy with
  | true, some b => if ckptUsable i p b.bytes && fieldU b.bytes 8 4 == tgt then some b else none
  | _, _ =>
    match k.mems.find? (fun m => m.2.2 && m.2.1 == tgt) with
    | none => none
    | some m =>
      let b := pReadMarked s p m.1 (4096 + shardSize i)
      if ckptUsable i p b.bytes && fieldU b.bytes 8 4 == tgt then some b else none

/-- Checkpoint T restored: the clusters are halted, the state written back, and step T + 1 is due as a restart. -/
def restoreTo (s : State) (p : Fin 8) (i : Img) (r : Run) (tgt : Nat) (b : Marked) : State :=
  let s2 := restartPolicy (restoreCkpt (haltClusters s p) p i b) p i tgt
  let w := (s2.slot p).twin
  let w1 := { w with
    recov := false, stopped := false, target := none, own := w.own.filter (fun x => decide (x.1 ≤ tgt)), theirs := w.theirs.filter (fun x => decide (x.1 ≤ tgt)) }
  let w2 := if w.st = .paired then { w1 with pairStep := some (tgt + 1), v := (tgt : Int) } else w1
  let nx : Run := { r with left := r.left + r.step - (tgt + 1), step := tgt + 1, stage := .atB5, applied := false, dueAt := s2.now }
  let s3 := s2.setSlot p { s2.slot p with run := some nx, twin := w2 }
  let s4 := logSch s3 0xB007 p.val (payload [(1, 1, p.val), (8, 4, tgt), (12, 4, w.gen)])
  if (s4.slot p).parking then park s4 p else s4

/-- RESTORE: the partition has stopped and GEN and T have not changed for 10 ms. For a LOST parity group its controller group is powered down
and up first. -/
def execRestore (t : Nat) (p : Fin 8) (buddyCopy : Option Marked) (s : State) : Answer :=
  let s1 := tick t s
  let k := s1.slot p
  match k.run, k.img, k.twin.target with
  | some r, some i, some tgt =>
    let stopped : Bool := k.twin.stopped || r.stage != .inStep || stepStuck s1 p i
    if !k.twin.recov || !schedUp s1 || !stopped || !elapsed s1.now k.twin.changed 10000000 then .next s1 else
    let lost := lostGroups s1 i
    if !lost.isEmpty then .next (lost.foldl (fun (u : State) g => wantOn (powerDownMg u g) (68 + g.val)) s1)
    else if !(pkgGroups (claimPkgs i.part)).all (fun g => mgOn s1 g && (s1.mg g).trained) then .next s1
    else match targetBytes s1 p i tgt buddyCopy with
      | none => .next (noCheckpoint s1 p 2 k.twin.r (some tgt))
      | some b => .next (restoreTo s1 p i r tgt b)
  | _, _, _ => .next s1

end Sys2Proof.Machine
end

