-- ==== Sys2Proof/Machine/CsrRead.lean ====
section
/-! DEFINITION. What every control and status register reads as: the blocks of CSR space (R24) and the register tables of the chapters. A
register is given by the offset at which it starts, its width in bits, and its value; offsets without one are reserved. -/

namespace Sys2Proof.Machine

/-- A register as it reads: width in bits and value. -/
abbrev RegVal := Option (Nat × W64)

def r32 (v : Nat) : RegVal := some (32, BitVec.ofNat 64 (v % 2 ^ 32))
def r64 (v : Nat) : RegVal := some (64, BitVec.ofNat 64 v)

/-- A bit at a place. -/
def bitN (b : Bool) (i : Nat) : Nat := if b then 2 ^ i else 0

-- Global block (R342 to R344, R394 to R398, R420 to R423, R457 to R462, R503, R505)

def clkStatus (s : State) : Nat :=
  let k := s.clk
  (k.src.get 3).toNat * 2 ^ 26 + (k.src.get 2).toNat * 2 ^ 24 + (k.src.get 1).toNat * 2 ^ 22 + (k.src.get 0).toNat * 2 ^ 20 +
    bitN (k.holdover.toList.any id) 19 + bitN k.switching.isSome 18 + bitN k.refused 17 + bitN k.lost 16 +
    bitN (refReady s 2) 2 + bitN (refReady s 1) 1 + bitN (refReady s 0) 0

def clkSelReg (s : State) : Nat :=
  let k := s.clk
  bitN k.auto 31 + (k.src.get 3).toNat * 2 ^ 6 + (k.src.get 2).toNat * 2 ^ 4 + (k.src.get 1).toNat * 2 ^ 2 + (k.src.get 0).toNat

/-- PWR_STATUS.STATE: the highest state in effect (R460). -/
def pwrState (s : State) : Nat :=
  if !s.pwr.scopes.isEmpty then 3 else if s.pwr.hwActive then 2 else if s.pwr.throttle then 1 else 0

/-- MTR_STATUS.LIVE (R504). -/
def meterLive (s : State) : Bool := s.meter.win.live && !elapsed s.now s.meter.win.lastAt 10000000

def pwrReg (s : State) (o : Nat) : RegVal :=
  let k := s.pwr
  if o = 0x200 then r32 (pwrState s * 2 ^ 29 + bitN k.hwLim 28 + bitN k.trip 27 + bitN k.pfault 26)
  else if o = 0x204 then r32 (bitN k.app1 0)
  else if o = 0x208 then r32 (Nat.min 0xFFFF (k.p1 / 1000) * 2 ^ 16 + Nat.min 0xFFFF (k.bucket / 1000000))
  else if o = 0x20C then r32 (k.temp.toNat * 2 ^ 16 + k.tempCl.toNat)
  else if o = 0x210 then r64 (k.on.toNat % 2 ^ 64)
  else if o = 0x218 then r64 (k.on.toNat / 2 ^ 64 % 2 ^ 31 * 2 ^ 32 + bitN (meterLive s) 63)
  else if o = 0x220 then r64 k.throttled.toNat
  else none

def tktReg (s : State) (p : Fin 8) (o : Nat) : RegVal :=
  let k := s.slot p
  let l := k.led
  if o = 0 then r64 l.base.toNat
  else if o = 8 then r64 l.high.toNat
  else if o = 0x10 then r32 (k.st.code * 2 ^ 29 + bitN l.live 28 + bitN l.claimed 27 + l.queue.length)
  else if o = 0x14 then r32 l.epoch.toNat
  else if o = 0x18 then r32 l.rejects.toNat
  else if o = 0x1C then r32 l.repeats.toNat
  else none

def twinReg (s : State) (p : Fin 8) (o : Nat) : RegVal :=
  let k := s.slot p
  let w := k.twin
  if o = 0 then r32 (w.st.code * 2 ^ 29 + bitN w.recov 28 + w.cause.toNat * 2 ^ 24 + k.asg.spares.length * 2 ^ 16 + w.gen % 2 ^ 16)
  else if o = 4 then r32 (w.ckint.toNat * 2 ^ 16 + w.silence.toNat)
  else if o = 8 then r32 (BitVec.ofInt 32 w.v).toNat
  else if o = 0x10 then r64 k.ck.handle.toNat
  else none

def globReg (s : State) (o : Nat) : RegVal :=
  if o = 0 then r32 (clkStatus s)
  else if o = 4 then r32 (clkSelReg s)
  else if o = 8 then r32 s.clk.en.toNat
  else if o = 0xC then r32 s.clk.autoEn.toNat
  else if o = 0x10 then r64 s.clk.time.toNat
  else if o = 0x18 then r64 s.clk.switches.toNat
  else if o = 0x100 then r32 (pwrBootReg s)
  else if o = 0x104 then r32 (s.boot.running.toNat * 2 ^ 16)
  else if o < 0x2000 then pwrReg s o
  else if h : (o - 0x2000) / 0x20 < 8 then tktReg s ⟨(o - 0x2000) / 0x20, h⟩ (o % 0x20)
  else if o = 0x3000 then r32 (schStatusReg s)
  else if o = 0x3004 then r32 (s.sched.wdogSch.toNat * 2 ^ 8 + s.sched.wdogCl.toNat)
  else if o = 0x3008 then r64 s.sched.restarts.toNat
  else if o = 0x3010 then r64 s.sched.clfail.toNat
  else if h : 0x4000 ≤ o ∧ (o - 0x4000) / 0x20 < 8 then twinReg s ⟨(o - 0x4000) / 0x20, h.2⟩ (o % 0x20)
  else if o = 0x5000 then r32 (bitN s.meter.win.pend.isSome 31)
  else if o = 0x5008 then r64 s.meter.win.arg.toNat
  else none

-- A cluster's block (R117 to R121, R156 to R160, R183 to R186, R213 to R215, R229 to R231, R522, R523)

/-- PLK_STATUS.STATE (R118). -/
def plkState (s : State) (c : Fin 64) : Nat :=
  let k := s.cl c
  if k.plk.faulted then 5
  else if k.frozen && !k.plk.overridden then 2
  else if k.seq.paused then 3
  else if k.plk.passes.any (fun q => q.aband.isSome) then 4
  else if !k.plk.passes.any Pass.counted then 0 else 1

/-- The shadows hold a complete staged tile (R118): that of a pass that has not started and that no pause holds back (R109). -/
def plkStaged (s : State) (c : Fin 64) : Bool :=
  !(s.cl c).seq.pauseReq && !(s.cl c).seq.paused &&
    (s.cl c).plk.passes.any (fun q => q.aband.isNone && decide (q.stagedC ≤ arrCyc s c) && decide (arrCyc s c < q.firstC))

/-- Mode and shape of the chain that is in the array, else of the last one that was (R118). -/
def plkChain (s : State) (c : Fin 64) : Nat × Nat :=
  match inFlight s c with
  | q :: _ => (q.fusion, q.p.shape)
  | [] => ((s.cl c).plk.fusion, (s.cl c).plk.shape)

def plkReg (s : State) (c : Fin 64) (o : Nat) : RegVal :=
  let k := s.cl c
  let p := k.plk
  if o = 0 then r32 ((inFlight s c).length * 2 ^ 16 + plkState s c * 2 ^ 13 + (plkChain s c).1 * 2 ^ 10 + (plkChain s c).2 * 2 ^ 7 +
    bitN (!p.checks.isEmpty) 4 + bitN (plkStaged s c) 3 + bitN k.frozen 2)
  else if o = 4 then r32 (p.retryMax.toNat * 4 + bitN p.zskipEn 1)
  else if o = 8 then r32 (p.retries * 2 ^ 16 + bitN p.fltExh 3 + bitN p.fltShadow 2 + bitN p.fltEcc 1 + bitN p.fltRes 0)
  else if o = 0xC then r32 p.fltSeq.toNat
  else if o = 0x10 then r64 p.accSel.toNat
  else if o = 0x18 then r64 k.cnt.passes.toNat
  else if o = 0x20 then r64 (frozenCyc s c)
  else if o = 0x28 then r64 ((rowsNow s c).cl c).cnt.zskip.toNat
  else if o = 0x30 then r64 k.cnt.pounce.toNat
  else none

/-- SEQ_STATUS.STATE (R157). -/
def seqState (q : Seq) : Nat :=
  if q.paused then 4 else match q.mode with | .idle => 0 | .run => 1 | .wait => 2 | .held => 3 | .done => 5 | .stopped => 6

def seqReg (s : State) (c : Fin 64) (o : Nat) : RegVal :=
  let k := s.cl c
  let q := k.seq
  let g := k.sreg
  if o = 0x100 then r32 (outD k * 2 ^ 19 + outV k * 2 ^ 16 + outP k * 2 ^ 13 + q.calls.length * 2 ^ 10 + q.loops.length * 2 ^ 8 + bitN q.coreRst 7 +
    seqState q * 2 ^ 4)
  else if o = 0x104 then r32 0
  else if o = 0x108 then r32 (bitN g.semRes 2 + bitN g.semOvf 1 + bitN g.stop 0)
  else if o = 0x10C then r32 (g.part.toNat * 2 ^ 8 + g.lcl.toNat)
  else if o = 0x110 then r32 g.step.toNat
  else if o = 0x118 then r64 g.entry.toNat
  else if o = 0x120 then r64 g.vtBase.toNat
  else if o = 0x128 then r64 g.rvBase.toNat
  else if o = 0x130 then r64 (match q.block with | some b => q.idx * 2 ^ 48 + b.addr | none => 0)
  else if o = 0x138 then r64 g.info.toNat
  else if h : 0x140 ≤ o ∧ o < 0x1C0 then (if o % 4 = 0 then r32 (q.sems[(o - 0x140) / 4]'(by omega)).toNat else none)
  else if o = 0x1C0 then r64 g.issued.toNat
  else none

/-- VEC_STATUS.STATE (R214). -/
def vecState (k : Cluster) : Nat :=
  match k.vec.jobs with
  | j :: _ => if j.start.isSome then (if k.stalled then 2 else 1) else if k.seq.paused then 3 else if k.stalled then 2 else 0
  | [] => if k.seq.paused then 3 else 0

/-- Array cycles stalled, those of a stall in progress included. -/
def stallCyc (s : State) (c : Fin 64) : Nat :=
  (s.cl c).vec.stall.toNat + if (s.cl c).stalled then cycIn s s.now - cycIn s (s.cl c).stlAt else 0

/-- VEC_STATUS.VOP: that of the executing instruction, or of the last one completed (R214). -/
def vecVopReg (k : Cluster) : Nat :=
  match k.vec.jobs with
  | j :: _ => if j.start.isSome then vecVop j.word else k.vec.vop.toNat
  | [] => k.vec.vop.toNat

def unitReg (s : State) (c : Fin 64) (o : Nat) : RegVal :=
  let k := s.cl c
  if o = 0x200 then r32 (k.card.slots.length * 2 ^ 8 + bitN (!k.plk.checks.isEmpty) 1)
  else if o = 0x204 then r32 (bitN k.card.ovf 0)
  else if o = 0x208 then r32 (k.card.layer.toNat * 2 ^ 16 + k.card.d4.toNat * 2 ^ 8 + k.card.ladder.toNat * 2 ^ 6)
  else if o = 0x210 then r64 k.card.dropped.toNat
  else if o = 0x300 then r32 (vecVopReg k * 2 ^ 24 + vecState k)
  else if o = 0x310 then r64 k.vec.done.toNat
  else if o = 0x318 then r64 k.vec.sat.toNat
  else if o = 0x320 then r64 k.vec.nan.toNat
  else if o = 0x328 then r64 (stallCyc s c)
  else if o = 0x400 then r32 (bitN k.rng.valid 0)
  else if o = 0x404 then r32 (bitN k.rng.reuse 0)
  else if o = 0x408 then r64 0
  else if o = 0x410 then r64 k.rng.evals.toNat
  else if o = 0x418 then r64 k.rng.reuses.toNat
  else if o = 0x500 then r32 (bitN k.trc.freeze 3 + bitN k.trc.vec 2 + bitN k.trc.pass 1)
  else if o = 0x508 then r64 k.trc.recno.toNat
  else none

def clReg (s : State) (c : Fin 64) (o : Nat) : RegVal :=
  if o < 0x100 then plkReg s c o else if o < 0x200 then seqReg s c o else unitReg s c o

-- Memory controllers, ports, engines (R254 to R260, R285 to R291, R313 to R317)

def mgReg (s : State) (g : Fin 8) (o : Nat) : RegVal :=
  let k := s.mg g
  if o = 0 then r32 (bitN (k.scrubAt != 0) 5 + bitN k.failed 4 + bitN k.trained 3 + k.rate.toNat)
  else if o = 4 then r32 (bitN k.rebuild 1 + bitN k.scrubEn 0)
  else if o = 8 then r32 k.err.toNat
  else if o = 0x10 then r64 k.ce.toNat
  else if o = 0x18 then r64 k.ue.toNat
  else if o = 0x20 then r64 (k.ueChan.toNat * 2 ^ 56 + k.ueOwner.toNat * 2 ^ 52 + k.ueOff.toNat)
  else if h : 0x40 ≤ o ∧ o < 0xA0 then
    (if o % 4 = 0 then
      let n := k.chans[(o - 0x40) / 4]'(by omega)
      r32 (n.state.toNat * 2 ^ 28 + n.owner.toNat * 2 ^ 24 + bitN n.parity 16 + n.ceCount.toNat)
     else none)
  else if h : 0xA0 ≤ o ∧ o < 0xA8 then
    (if o % 4 = 0 then
      let x := k.pgrps[(o - 0xA0) / 4]'(by omega)
      r32 (x.state.toNat * 2 ^ 30 + x.failed.toNat * 2 ^ 26 + x.progress s.now)
     else none)
  else none

def portReg (s : State) (q : Fin 16) (o : Nat) : RegVal :=
  let k := s.port q
  if o = 0 then r32 (k.state.toNat * 2 ^ 29 + k.width.toNat * 2 ^ 27 + k.laneOk.toNat * 2 ^ 19 + bitN k.keyTx 18 + bitN k.reversed 17)
  else if o = 4 then r32 (bitN k.disable 29)
  else if o = 8 then r32 k.err.toNat
  else if o = 0xC then r32 (k.peerPkg.toNat * 2 ^ 16 + k.peerPort.toNat * 2 ^ 12)
  else if o = 0x10 then r64 k.txFlits.toNat
  else if o = 0x18 then r64 k.rxFlits.toNat
  else if o = 0x20 then r64 k.replays.toNat
  else if o = 0x28 then r64 k.dups.toNat
  else if o = 0x30 then r64 k.fec.toNat
  else none

/-- COL_STATUS.INDEX (R290). -/
def colIndex (k : Col) : Nat :=
  if k.state = 3 then k.aborted else match k.fly with | x :: _ => x.entry | [] => k.next

def colReg (s : State) (e : Fin 4) (o : Nat) : RegVal :=
  let k := s.col e
  if o = 0 then r32 (k.state.toNat * 2 ^ 29 + k.fly.length * 2 ^ 27 + colIndex k)
  else if o = 4 then r32 k.timeout.toNat
  else if o = 8 then r32 k.err.toNat
  else if o = 0xC then r32 k.step.toNat
  else if o = 0x10 then r64 (k.count.toNat * 2 ^ 48 + k.base.toNat * 2 ^ 7)
  else if o = 0x18 then r64 k.done.toNat
  else if o = 0x20 then r64 k.dups.toNat
  else if o = 0x28 then r64 k.strays.toNat
  else none

def updReg (s : State) (e : Fin 4) (o : Nat) : RegVal :=
  let k := (s.ue e).regs
  let n := (s.ue e).cnt
  if o = 0 then r32 (k.state.toNat * 2 ^ 29 + bitN k.seedValid 28 + bitN k.assigned 27 + k.part.toNat * 2 ^ 24)
  else if o = 4 then r32 0
  else if o = 8 then r32 k.err.toNat
  else if o = 0xC then r32 k.gcount.toNat
  else if o = 0x10 then r64 k.gtab.toNat
  else if o = 0x18 then r64 k.stab.toNat
  else if o = 0x20 then r64 k.mw.toNat
  else if o = 0x28 then r64 k.rate.toNat
  else if o = 0x30 then r64 k.loss.toNat
  else if o = 0x38 then r64 k.drec.toNat
  else if o = 0x40 then r64 0
  else if o = 0x48 then r64 (k.parkStep.toNat * 2 ^ 32 + k.parkGroup.toNat * 2 ^ 16 + k.parkWhy.toNat * 2 ^ 8)
  else if o = 0x50 then r64 k.digest.toNat
  else if o = 0x58 then r64 n.applied.toNat
  else if o = 0x60 then r64 n.fallbacks.toNat
  else if o = 0x68 then r64 n.skipped.toNat
  else if o = 0x70 then r64 n.discards.toNat
  else if o = 0x78 then r64 n.nan.toNat
  else if o = 0x80 then r64 n.sat.toNat
  else none

-- Security, meter window, debug (R486 to R489, R503, R504, R519, R522, R523)

def retireEn (s : State) : Bool := match s.sec.owner with | some r => bitAt (fieldU r 12 1) 1 | none => false

/-- Sensors tripped now (R487). -/
def activeSensors (s : State) : Nat :=
  ((List.range 6).map (fun i => bitN (s.sec.alarms.any (fun a => a.sensor == i + 1)) i)).sum

def secReg (s : State) (o : Nat) : RegVal :=
  let k := s.sec
  if o = 0 then r32 (alarmLevel s * 2 ^ 29 + bitN k.zdone 28 + bitN k.owner.isSome 27 + bitN (retireEn s) 26 +
    ((List.finRange 8).map (fun p => bitN (k.tenants.get p).isSome (18 + p.val))).sum)
  else if o = 4 then r32 (activeSensors s * 2 ^ 8 + k.seen.toNat)
  else if o = 8 then r32 k.cfg.toNat
  else if o = 0xC then r32 0
  else if o = 0x10 then r32 k.bootC.toNat
  else if o = 0x14 then r32 k.authFail.toNat
  else if o = 0x18 then r32 ((k.dbg.foldl (fun (v : BitVec 4) d => if d.slot.isNone then v ||| d.scope else v) 0).toNat * 2 ^ 8 +
    ((List.finRange 8).map (fun p => bitN (k.dbg.any (fun d => d.slot == some p)) p.val)).sum)
  else if o = 0x20 then r64 (k.nonce.toNat % 2 ^ 64)
  else if o = 0x28 then r64 (k.nonce.toNat / 2 ^ 64)
  else none

/-- Eight bytes of a window that holds bytes. -/
def wordOf (b : Bytes) (o : Nat) : RegVal := if o % 8 = 0 then r64 (fieldU b o 8) else none

def meterReg (s : State) (o : Nat) : RegVal :=
  let w := s.meter.win
  if o = 0 then r32 (bitN (meterLive s) 31 + bitN w.restart 30 + bitN w.fault 29 + bitN w.chk 28)
  else if o = 8 then r64 w.head.toNat
  else if o = 0x10 then r64 w.gaps.toNat
  else if h : 0x1000 ≤ o ∧ o < 0x1400 then wordOf (w.resp[(o - 0x1000) / 256]'(by omega)) (o % 256)
  else if 0x800000 ≤ o then wordOf ((alGet w.ring ((o - 0x800000) / 256)).getD (zeroB 256)) (o % 256)
  else none

/-- A counter bank: the live half, then the closed half (R522). Reads are 0 while the read port's clock is stopped (R442, R521). -/
def bankReg (s : State) (p : Fin 8) (o : Nat) : RegVal :=
  let b := (s.slot p).obs
  let v (x : Vector W64 96) (i : Nat) : RegVal := if i % 8 = 0 ∧ i < 768 then r64 (if gateOn s 4 then (x.toList.getD (i / 8) 0).toNat else 0) else none
  if o < 0x400 then v b.live o else if o < 0x800 then v b.closed (o - 0x400) else none

def dbgSlotReg (s : State) (p : Fin 8) (o : Nat) : RegVal :=
  let b := (s.slot p).obs
  if o = 0 then r64 b.dumpOut.toNat
  else if o = 8 then r64 b.dumpLen.toNat
  else if o = 0x10 then r64 (if gateOn s 5 then b.drain.toNat else 0)
  else if o = 0x18 then r64 (if gateOn s 5 then b.drainHd.toNat else 0)
  else none

def dbgReg (s : State) (o : Nat) : RegVal :=
  if o = 0 then r64 s.log.count.toNat
  else if o = 8 then r64 s.log.supp.toNat
  else if h : 0x100 ≤ o ∧ o < 0x200 then dbgSlotReg s ⟨(o - 0x100) / 0x20, by omega⟩ (o % 0x20)
  else if h : 0x200 ≤ o ∧ o < 0x280 then
    (let b := (s.slot ⟨(o - 0x200) / 0x10, by omega⟩).obs
     if o % 0x10 = 0 then r64 b.tag.toNat else if o % 0x10 = 8 then r64 b.gen.toNat else none)
  else if h : 0x10000 ≤ o ∧ o < 0x18000 then bankReg s ⟨(o - 0x10000) / 0x1000, by omega⟩ (o % 0x1000)
  else if 0x20000 ≤ o ∧ o < 0x20300 then
    (if o % 8 = 0 then r64 (if gateOn s 4 then (s.gbank.toList.getD ((o - 0x20000) / 8) 0).toNat else 0) else none)
  else if 0x800000 ≤ o ∧ o < 0xA00000 then
    (if o % 8 = 0 then r64 (leNat ((span (o - 0x800000) 8).map (logByte s))) else none)
  else none

-- Reading (R8, R11, R17)

def engineOf (o : Nat) : Option (Fin 4) := if h : o / 0x10000 < 4 then some ⟨o / 0x10000, h⟩ else none

/-- The register that starts at an offset of CSR space; a block whose domain is off has none that reads other than zero. -/
def csrReg (s : State) (off : Nat) : RegVal :=
  match csrLoc off with
  | .glob o => globReg s o
  | .cl c o => if clOn s c then clReg s c o else none
  | .mg g o => if mgOn s g then mgReg s g o else none
  | .port q o => if lgOn s q then portReg s q o else none
  | .col o => (match engineOf o with | some e => if ueOn s e then colReg s e (o % 0x10000) else none | none => none)
  | .upd o => (match engineOf o with | some e => if ueOn s e then updReg s e (o % 0x10000) else none | none => none)
  | .sec o => secReg s o
  | .meter o => meterReg s o
  | .dbg o => dbgReg s o
  | .miss => none

/-- A requester that runs firmware (R457, R503, R507, R522). -/
def isFirmware : Requester → Bool
  | .sec | .pmc | .sched | .loader | .clcore _ => true
  | _ => false

/-- The global counter bank answers only the firmware processors (R507); the memory registers the driver, the scheduler core and the security
core (R254). -/
def mayRead (who : Requester) (off : Nat) : Bool :=
  match csrLoc off with
  | .dbg o => !(decide (0x20000 ≤ o) && decide (o < 0x20300)) || isFirmware who
  | .mg _ _ => (match who with | .app _ | .sched | .sec | .loader => true | _ => false)
  | _ => true

/-- A read of `width` bytes at an offset (R11): 0 where the access is not performed. -/
def csrRead (s : State) (who : Requester) (off width : Nat) : W64 :=
  if !mayRead who off then 0
  else if width = 8 then
    (if off % 8 ≠ 0 then 0 else match csrReg s off with
      | some (64, v) => v
      | _ => 0)
  else if width = 4 then
    (if off % 4 ≠ 0 then 0 else match csrReg s off with
      | some (_, v) => v &&& 0xFFFFFFFF
      | none =>
        if off % 8 = 4 then (match csrReg s (off - 4) with
          | some (64, v) => v >>> 32
          | _ => 0) else 0)
  else 0

end Sys2Proof.Machine
end

