-- ==== Sys2Proof/Machine/Memory.lean ====
section
/-! DEFINITION. The commands of chapter 9: training, scrub, channel failure and rebuild, hatband flits, errors of on-die stores. -/

namespace Sys2Proof.Machine

/-- A host group that fails training fails the boot (R330). -/
def hostMemFail (s : State) (g : Fin 8) : State :=
  if s.boot.stage = 6 ∧ (pkgGroups (fieldU s.boot.hostMem 0 3)).contains g = true then bootFail s 0x08 (some 0xE008) (payload []) true else s

/-- MG_TRAIN (R234, R243): the outcome of the training that follows the power-up of MG_g: the rate, and the channels that could not be
trained at it. -/
def execMgTrain (t : Nat) (g : Fin 8) (rate : Option (Rate × BitVec 24)) (s : State) : Answer :=
  let s1 := tick t s
  if mgOn s1 g && !(s1.mg g).trained && !(s1.mg g).failed then
    let s2 := trainMg s1 g (rate.map Prod.fst) (match rate with | some x => x.2 | none => 0)
    .next (match rate with
      | none => hostMemFail s2 g
      | some _ => finishStage6 s2)
  else .next s1

/-- Whether a granule is the one that the scrub pass reads next: ascending offset, and at one offset ascending channel (R241, log
entry 50). -/
def scrubNext (k : Mg) (n : Fin 24) (off : Nat) : Bool :=
  decide (off % 32 = 0) && decide (k.scrubAt = 24 * (off / 32) + n.val)

/-- One granule of the scrub pass of every MEM_SCRUB self-test of a group read; those whose pass is complete are answered (R391). -/
def scrubTests (s : State) (g : Fin 8) : State :=
  let l := (s.mg g).tests.map (fun x => { x with left := x.left - 1 })
  (l.filter (fun x => x.left == 0)).foldl (fun (u : State) x =>
    let r := katStatus x.result
    answerTest u x.slot x.ticket x.mgmt r.1 r.2 x.result) (s.setMg g { s.mg g with tests := l.filter (fun x => x.left != 0) })

/-- SCRUB (R241, R253, R391): the patrol read of the next granule of the powered channels, while SCRUB_EN is 1 or a self-test asks for a pass;
an owner write to it in between has already won. -/
def execScrub (t : Nat) (g : Fin 8) (n : Fin 24) (off : Nat) (ecc : Ecc) (s : State) : Answer :=
  let s1 := tick t s
  let k := s1.mg g
  if mgOn s1 g && k.trained && (k.scrubEn || !k.tests.isEmpty) && scrubNext k n off then
    let s2 := s1.setMg g { k with scrubAt := (k.scrubAt + 1) % passGranules }
    .next (scrubTests (checkGranule s2 g n off (chanAddr s2 g n off) ecc) g)
  else .next s1

/-- A retry of training of the failed channel of a DEGRADED group (R244): REBUILD begins on success. -/
def retryRebuild (s : State) (g : Fin 8) (m : Fin 2) (ok : Bool) : State :=
  let x := (s.mg g).pgrps.get m
  match failedChan x m with
  | none => s
  | some n =>
    if mgOn s g && x.enabled && x.state == 1 then
      if ok then
        let s1 := setChan s g n { (s.mg g).chans.get n with state := 4 }
        setPgrp s1 g m { (s1.mg g).pgrps.get m with state := 2, since := s1.now }
      else s
    else s

/-- REBUILD_RETRY: one of the up to 3 automatic retries, 100 ms apart, while REBUILD_AUTO is 1. -/
def execRebuildRetry (t : Nat) (g : Fin 8) (m : Fin 2) (ok : Bool) (s : State) : Answer :=
  let s1 := tick t s
  let x := (s1.mg g).pgrps.get m
  if (s1.mg g).rebuild && decide (x.retries < 3) && x.state == 1 && elapsed s1.now x.retryAt 100000000 then
    .next (retryRebuild (setPgrp s1 g m { x with retries := x.retries + 1, retryAt := s1.now }) g m ok)
  else .next s1

/-- Whether a requester may write the MEM_ registers (R254). -/
def memWriter : Requester → Bool
  | .sched | .sec | .loader => true
  | _ => false

/-- A write of REBUILD_NOW_m (R244, R256). -/
def rebuildNow (s : State) (who : Requester) (g : Fin 8) (m : Fin 2) (ok : Bool) : State :=
  if memWriter who then retryRebuild s g m ok else s

def execMemCtrlRebuildNow0 (t : Nat) (who : Requester) (g : Fin 8) (ok : Bool) (s : State) : Answer :=
  .next (rebuildNow (tick t s) who g 0 ok)

def execMemCtrlRebuildNow1 (t : Nat) (who : Requester) (g : Fin 8) (ok : Bool) (s : State) : Answer :=
  .next (rebuildNow (tick t s) who g 1 ok)

/-- The 2^26 units of a rebuild at 4 GB/s, in ns (R244). -/
def rebuildNs : Nat := 2 ^ 26 * 64

/-- REBUILD_DONE (R244): the last unit has been written, no sooner than 4 GB/s allow; the group is PROTECTED again. -/
def execRebuildDone (t : Nat) (g : Fin 8) (m : Fin 2) (s : State) : Answer :=
  let s1 := tick t s
  let x := (s1.mg g).pgrps.get m
  match failedChan x m with
  | none => .next s1
  | some n =>
    if mgOn s1 g && x.state == 2 && elapsed s1.now x.since rebuildNs then
      let c := (s1.mg g).chans.get n
      let s2 := setPgrp (setChan s1 g n { c with state := 1 }) g m { x with state := 0, retries := 0 }
      .next (logEv s2 (0x0100 + g.val) 0x4005 c.owner.toNat (payload []))
    else .next s1

/-- PERIODIC_RETRAINING (R243, R252): a channel that cannot be retrained fails. -/
def execPeriodicRetraining (t : Nat) (g : Fin 8) (n : Fin 24) (ok : Bool) (s : State) : Answer :=
  let s1 := tick t s
  let c := (s1.mg g).chans.get n
  if mgOn s1 g && (c.state == 1 || c.state == 4) && !ok then .next (failChan s1 g n) else .next s1

/-- Sets MEM_ERR.HB_FAIL of the group that a main-memory address lies in (R257). -/
def hbFail (s : State) (a : Nat) : State :=
  match ownerOf s.mem a with
  | none => s
  | some (_, o) =>
    match chanAt (locate o.chans (a - o.base)).1 with
    | none => s
    | some (g, _) => s.setMg g { s.mg g with err := (s.mg g).err ||| 0x20 }

/-- HATBAND_FLIT (R251): a flit of at most eight granules written at a device address; after 8 failed retries it is delivered with every
granule poisoned. The trouble log and CSR space take no such flit; one at an address that nothing covers is dropped and logged (R25). -/
def execHatbandFlit (t : Nat) (die : Fin 2) (addr : Nat) (data : Bytes) (poison : BitVec 8) (failures : Nat) (s : State) : Answer :=
  let s1 := tick t s
  if data.length > 256 ∨ addr % 32 ≠ 0 then .next s1 else
  let bad : Bool := decide (8 ≤ failures)
  let ws := data.zipIdx.map (fun (x : Byte × Nat) =>
    ({ addr := addr + x.2, byte := x.1, poi := bad || poison.getLsbD (x.2 / 32) } : WByte))
  let s2 := if unmapped s1 addr then logMiss s1 addr else devCommit (planksNow s1) ws
  if bad then .next (logEv (hbFail s2 addr) (0x0110 + die.val) 0x4020 15 (payload [])) else .next s2

/-- SRAM_ACCESS (R248): a read of an on-die store, with what its code finds. The counts of corrected errors have no register. -/
def execSramAccess (t : Nat) (store : Store) (off : Nat) (ecc : Ecc) (s : State) : Answer :=
  let s1 := tick t s
  if storeOn s1 store && decide (off < (storeSize store).1) then
    match ecc with
    | .clean => .next s1
    | .correctable => .next (logRated (noteSramCe s1 store) 1000 (storeSource store) 0x4010 (storePart s1 store) (storeNum store) (payload []))
    | .uncorrectable | .stripe =>
      .next (logEv (poisonUnit (planksNow s1) store off) (storeSource store) 0x4011 (storePart s1 store) (payload []))
  else .next s1

end Sys2Proof.Machine
end

