-- ==== Sys2Proof/Machine/CsrWrite.lean ====
section
/-! DEFINITION. Writes of control and status registers (R8 to R11 and the writer lists of the chapters). Fields that have a command of their own
are written by that command's operation. -/

namespace Sys2Proof.Machine

-- Global block (R342, R344, R394, R397, R398, R420, R422, R457 to R461, R503, R505)

/-- A field of CLK_SEL written (R438). -/
def clkField (s : State) (k : Clock) (v lo : Nat) : State := clkSel s k (BitVec.ofNat 2 (bitsAt v lo 2))

def clkSelWrite (s : State) (v : Nat) : State :=
  let s1 := { s with clk := { s.clk with auto := bitAt v 31 } }
  clkField (clkField (clkField (clkField s1 .arr v 0) .fab v 2) .ctl v 4) .app v 6

/-- The bits of CLK_EN and CLK_AUTO that a requester may write (R457). -/
def gateMask (who : Requester) : BitVec 7 :=
  match who with
  | .pmc => 0b1111110
  | .app _ => 0b0110110
  | .sec | .loader => 0b1001000
  | _ => 0

def gateMerge (old : BitVec 7) (v : Nat) (m : BitVec 7) : BitVec 7 := (old &&& ~~~m) ||| (BitVec.ofNat 7 v &&& m)

def isApp : Requester → Bool
  | .app _ => true
  | _ => false

def wdogWrite (s : State) (v : Nat) : State :=
  let a := bitsAt v 8 8
  let b := bitsAt v 0 8
  { s with sched := { s.sched with
    wdogSch := if 10 ≤ a then BitVec.ofNat 8 a else s.sched.wdogSch, wdogCl := if 1 ≤ b then BitVec.ofNat 8 b else s.sched.wdogCl } }

def ckctlWrite (s : State) (p : Fin 8) (v : Nat) : State :=
  let w := (s.slot p).twin
  let x := bitsAt v 0 16
  setTwin s p { w with ckint := BitVec.ofNat 16 (bitsAt v 16 16), silence := if 10 ≤ x then BitVec.ofNat 16 x else w.silence }

/-- The slot whose registers, 0x20 bytes each from a base, an offset lies in. -/
def slotAt (o base : Nat) : Option (Fin 8) := if h : base ≤ o ∧ (o - base) / 0x20 < 8 then some ⟨(o - base) / 0x20, h.2⟩ else none

def globPut (s : State) (who : Requester) (o v : Nat) : State :=
  if o = 0 then
    (if who = .pmc then { s with clk := { s.clk with refused := s.clk.refused && !bitAt v 17, lost := s.clk.lost && !bitAt v 16 } } else s)
  else if o = 4 then (if clkWriter who then clkSelWrite s v else s)
  else if o = 8 then { s with clk := { s.clk with en := gateMerge s.clk.en v (gateMask who) } }
  else if o = 0xC then { s with clk := { s.clk with autoEn := gateMerge s.clk.autoEn v (gateMask who) } }
  else if o = 0x104 then appStart s who (BitVec.ofNat 16 v)
  else if o = 0x200 then
    (if who = .pmc then { s with pwr := { s.pwr with
      hwLim := s.pwr.hwLim && !bitAt v 28, trip := s.pwr.trip && !bitAt v 27, pfault := s.pwr.pfault && !bitAt v 26 } } else s)
  else if o = 0x204 then app1Write s who (bitAt v 0)
  else if o = 0x3004 then (if isApp who || isLoader who then wdogWrite s v else s)
  else if o = 0x5000 then meterReq s who (bitsAt v 0 8) ⟨bitsAt v 8 3, Nat.mod_lt _ (by decide)⟩
  else match slotAt o 0x4000 with
    | some p => if o % 0x20 = 4 ∧ isApp who = true then ckctlWrite s p v else s
    | none => s

-- A cluster's block (R117, R119, R120, R156 to R160, R183, R185, R229, R230, R522, R523)

def plkPut (s : State) (who : Requester) (c : Fin 64) (o v : Nat) : State :=
  let k := s.cl c
  if !plkWriter who c then s
  else if o = 4 then
    let s1 := s.setCl c { k with plk := { k.plk with retryMax := BitVec.ofNat 2 (bitsAt v 2 2), zskipEn := bitAt v 1 } }
    if bitAt v 31 then clrFaulted s1 c else s1
  else if o = 8 then
    s.setCl c { k with plk := { k.plk with
      fltExh := k.plk.fltExh && !bitAt v 3, fltShadow := k.plk.fltShadow && !bitAt v 2, fltEcc := k.plk.fltEcc && !bitAt v 1
      fltRes := k.plk.fltRes && !bitAt v 0 } }
  else if o = 0x204 then s.setCl c { k with card := { k.card with ovf := k.card.ovf && !bitAt v 0 } }
  else s

/-- SEQ_CTRL: its bits act from GO down (R158). -/
def seqCtrlPut (s : State) (c : Fin 64) (v : Nat) : State :=
  let f (i : Nat) (g : State → State) (t : State) : State := if bitAt v i then g t else t
  f 26 (fun t => resumeCluster t c) (f 27 (fun t => pauseCluster t c) (f 28 (fun t => seqClrStop t c)
    (f 29 (fun t => seqTrapDone t c) (f 30 (fun t => seqRelease t c) (f 31 (fun t => goCluster t c) s)))))

def seqPut (s : State) (who : Requester) (c : Fin 64) (o v : Nat) : State :=
  let k := s.cl c
  let g := k.sreg
  if !seqWriter who c then s
  else if o = 0x104 then seqCtrlPut s c v
  else if o = 0x108 then s.setCl c { k with sreg := { g with
    semRes := g.semRes && !bitAt v 2, semOvf := g.semOvf && !bitAt v 1, stop := g.stop && !bitAt v 0 } }
  else if o = 0x10C then s.setCl c { k with sreg := { g with part := BitVec.ofNat 3 (bitsAt v 8 3), lcl := BitVec.ofNat 6 (bitsAt v 0 6) } }
  else if o = 0x110 then s.setCl c { k with sreg := { g with step := BitVec.ofNat 32 v } }
  else s

def clPut (s : State) (who : Requester) (c : Fin 64) (o v : Nat) : State :=
  let k := s.cl c
  if !clOn s c then s
  else if o < 0x100 ∨ (0x200 ≤ o ∧ o < 0x300) then plkPut s who c o v
  else if o < 0x200 then seqPut s who c o v
  else if o = 0x404 then (if rngWriter who then s.setCl c { k with rng := { k.rng with reuse := k.rng.reuse && !bitAt v 0 } } else s)
  else if o = 0x500 then
    (if isApp who then s.setCl c { k with trc := { k.trc with freeze := bitAt v 3, vec := bitAt v 2, pass := bitAt v 1 } } else s)
  else s

-- Memory controllers, ports, engines (R254, R256, R257, R285, R287, R289 to R291, R313 to R316)

/-- REBUILD_NOW_m written through MEM_CTRL: the training's outcome is a free value. -/
def rebuildBit (s : State) (who : Requester) (g : Fin 8) (m : Fin 2) (on : Bool) : State :=
  if on then
    let f := s.fresh
    rebuildNow f.2 who g m ((Config.freeWord f.1).getLsbD 0)
  else s

def mgPut (s : State) (who : Requester) (g : Fin 8) (o v : Nat) : State :=
  if !mgOn s g || !memWriter who then s
  else if o = 4 then
    rebuildBit (rebuildBit (s.setMg g { s.mg g with rebuild := bitAt v 1, scrubEn := bitAt v 0 }) who g 0 (bitAt v 2)) who g 1 (bitAt v 3)
  else if o = 8 then s.setMg g { s.mg g with err := (s.mg g).err &&& ~~~(BitVec.ofNat 6 v) }
  else s

def portPut (s : State) (who : Requester) (q : Fin 16) (o v : Nat) : State :=
  if !lgOn s q || !brmWriter who then s
  else if o = 4 then
    let s1 := if bitAt v 29 != (s.port q).disable then brmDisable s who q (bitAt v 29) else s
    let s2 := if bitAt v 30 then brmFullWidth s1 who q else s1
    if bitAt v 31 then brmRetrain s2 who q else s2
  else if o = 8 then s.setPort q { s.port q with err := (s.port q).err &&& ~~~(BitVec.ofNat 8 v) }
  else s

def colPut (s : State) (who : Requester) (e : Fin 4) (o v : Nat) : State :=
  let k := s.col e
  if !ueOn s e || !engWriter who then s
  else if o = 4 then
    let x := bitsAt v 0 24
    let s1 := if x = 0 then s else s.setCol e { k with timeout := BitVec.ofNat 24 x }
    if bitAt v 31 then colAbort s1 who e else s1
  else if o = 8 then s.setCol e { k with err := k.err &&& ~~~(BitVec.ofNat 5 v) }
  else if o = 0xC then colStepWrite s who e (BitVec.ofNat 32 v)
  else s

def updPut (s : State) (who : Requester) (e : Fin 4) (o v : Nat) : State :=
  let x := s.ue e
  if !ueOn s e || !engWriter who then s
  else if o = 4 then (if bitAt v 31 then clrDiscord s who e else s)
  else if o = 8 then s.setUe e { x with regs := { x.regs with err := x.regs.err &&& ~~~(BitVec.ofNat 4 v) } }
  else if o = 0xC then s.setUe e { x with regs := { x.regs with gcount := BitVec.ofNat 17 v } }
  else s

-- Security (R482, R486 to R488)

/-- A value that SEC_ALARM_CFG may take: no sensor below its default, level 4 only for sensors 1 to 4 and with RETIRE_EN (R482). -/
def cfgOk (s : State) (v : Nat) : Bool :=
  (List.range 6).all (fun i =>
    let x := bitsAt v (3 * i) 3
    decide (bitsAt 0b010010011010010010 (3 * i) 3 ≤ x) && decide (x ≤ 4) && (x != 4 || (decide (i < 4) && retireEn s)))

def secPut (s : State) (who : Requester) (o v : Nat) : State :=
  if !isLoader who then s
  else if o = 4 then { s with sec := { s.sec with seen := s.sec.seen &&& ~~~(BitVec.ofNat 6 v) } }
  else if o = 8 then (if cfgOk s v then { s with sec := { s.sec with cfg := BitVec.ofNat 18 v } } else s)
  else if o = 0xC then zeroiseWrite s .sec (BitVec.ofNat 3 v)
  else s

-- 32-bit registers

def csrPut32 (s : State) (who : Requester) (off v : Nat) : State :=
  match csrLoc off with
  | .glob o => globPut s who o v
  | .cl c o => clPut s who c o v
  | .mg g o => mgPut s who g o v
  | .port q o => portPut s who q o v
  | .col o => (match engineOf o with | some e => colPut s who e (o % 0x10000) v | none => s)
  | .upd o => (match engineOf o with | some e => updPut s who e (o % 0x10000) v | none => s)
  | .sec o => secPut s who o v
  | .meter _ => s
  | .dbg _ => s
  | .miss => s

-- 64-bit registers (R11)

/-- A 64-bit register whose fields are RW: a write of a half or the whole, as `put` stores it. -/
def put64 (s : State) (off : Nat) (who : Requester) (part : RegPart) (val old : W64) (rw : Bool) (put : State → W64 → State) : State :=
  let r := halfWrite s (csrBase + off) who part val old rw
  match r.2 with
  | none => r.1
  | some v => put r.1 v

def seqPut64 (s : State) (who : Requester) (c : Fin 64) (o off : Nat) (part : RegPart) (val : W64) : State :=
  let g := (s.cl c).sreg
  let set (t : State) (f : SeqRegs → SeqRegs) : State := t.setCl c { t.cl c with sreg := f (t.cl c).sreg }
  if !clOn s c then s
  else if o = 0x408 then rngSeedWrite s who c part val
  else if !seqWriter who c then s
  else if o = 0x118 then put64 s off who part val g.entry true (fun t v => set t (fun r => { r with entry := v }))
  else if o = 0x120 then put64 s off who part val g.vtBase true (fun t v => set t (fun r => { r with vtBase := v &&& 0xFFFFFFFFFFE0 }))
  else if o = 0x128 then put64 s off who part val g.rvBase true (fun t v => set t (fun r => { r with rvBase := v &&& 0xFFFFFFFFFFFF }))
  else s

def colPut64 (s : State) (who : Requester) (e : Fin 4) (o off : Nat) (part : RegPart) (val : W64) : State :=
  let k := s.col e
  if !ueOn s e || !engWriter who || o != 0x10 then s
  else put64 s off who part val (k.count ++ k.base ++ (0 : BitVec 7)) true (fun t v =>
    t.setCol e { t.col e with count := v.extractLsb' 48 16, base := v.extractLsb' 7 41 })

/-- The address field of an UPD_ pointer register: bits [47:0], with the low bits that R316 holds at 0. -/
def ptrField (v : W64) (low : Nat) : BitVec 48 := (v.setWidth 48 >>> low) <<< low

def updPut64 (s : State) (who : Requester) (e : Fin 4) (o off : Nat) (part : RegPart) (val : W64) : State :=
  let k := (s.ue e).regs
  let set (t : State) (f : UeRegs → UeRegs) : State := t.setUe e { t.ue e with regs := f (t.ue e).regs }
  let ptr (old : BitVec 48) (f : UeRegs → W64 → UeRegs) : State :=
    put64 s off who part val (old.setWidth 64) true (fun t v => set t (fun r => f r v))
  if !ueOn s e || !engWriter who then s
  else if o = 0x10 then ptr k.gtab (fun r v => { r with gtab := ptrField v 8 })
  else if o = 0x18 then ptr k.stab (fun r v => { r with stab := ptrField v 4 })
  else if o = 0x20 then ptr k.mw (fun r v => { r with mw := ptrField v 6 })
  else if o = 0x28 then ptr k.rate (fun r v => { r with rate := ptrField v 2 })
  else if o = 0x30 then ptr k.loss (fun r v => { r with loss := ptrField v 2 })
  else if o = 0x38 then ptr k.drec (fun r v => { r with drec := ptrField v 7 })
  else if o = 0x40 then updSeedWrite s who e part val
  else s

def globPut64 (s : State) (who : Requester) (o off : Nat) (part : RegPart) (val : W64) : State :=
  if o = 0x3010 then
    (if isLoader who then put64 s off who part val 0 false (fun t v =>
      { t with sched := { t.sched with clfail := t.sched.clfail &&& ~~~v } }) else s)
  else if o = 0x5008 then
    (if who = .sched ∨ isApp who = true then put64 s off who part val s.meter.win.arg true (fun t v => setWin t { t.meter.win with arg := v }) else s)
  else match slotAt o 0x2000 with
    | some p => if o % 0x20 = 0 then tktBaseWrite s who p part val else s
    | none => s

/-- DBG_DRAIN: a LOG2 outside 9 to 24 leaves that field unchanged (R523). -/
def drainValue (old v : W64) : W64 :=
  let x := bitsAt v.toNat 0 5
  let l := if 9 ≤ x ∧ x ≤ 24 then x else bitsAt old.toNat 0 5
  BitVec.ofNat 64 (bitsAt v.toNat 12 36 * 4096 + bitN (bitAt v.toNat 5) 5 + l)

def dbgPut64 (s : State) (who : Requester) (o off : Nat) (part : RegPart) (val : W64) : State :=
  if !isApp who then s else
  match slotAt o 0x100 with
  | none => s
  | some p =>
    let b := (s.slot p).obs
    let set (t : State) (f : Obs → Obs) : State := t.setSlot p { t.slot p with obs := f (t.slot p).obs }
    if o % 0x20 = 0 then put64 s off who part val b.dumpOut true (fun t v => set t (fun x => { x with dumpOut := v &&& 0xFFFFFFFFF000 }))
    else if o % 0x20 = 8 then put64 s off who part val b.dumpLen true (fun t v => set t (fun x => { x with dumpLen := v }))
    else if o % 0x20 = 0x10 ∧ gateOn s 5 = true then
      put64 s off who part val b.drain true (fun t v => set t (fun x => { x with drain := drainValue x.drain v }))
    else s

def csrPut64 (s : State) (who : Requester) (off : Nat) (part : RegPart) (val : W64) : State :=
  match csrLoc off with
  | .glob o => globPut64 s who o off part val
  | .cl c o => seqPut64 s who c o off part val
  | .mg _ _ => s
  | .port _ _ => s
  | .col o => (match engineOf o with | some e => colPut64 s who e (o % 0x10000) off part val | none => s)
  | .upd o => (match engineOf o with | some e => updPut64 s who e (o % 0x10000) off part val | none => s)
  | .sec _ => s
  | .meter _ => s
  | .dbg o => dbgPut64 s who o off part val
  | .miss => s

/-- A write of `width` bytes at an offset of CSR space (R11): nothing where the access is not performed. -/
def csrStore (s : State) (who : Requester) (off width : Nat) (val : W64) : State :=
  if width = 8 then
    (if off % 8 ≠ 0 then s else match csrReg s off with
      | some (64, _) => csrPut64 s who off .whole val
      | _ => s)
  else if width = 4 then
    (if off % 4 ≠ 0 then s else match csrReg s off with
      | some (64, _) => csrPut64 s who off .lower (val &&& 0xFFFFFFFF)
      | some (_, _) => csrPut32 s who off (val.toNat % 2 ^ 32)
      | none =>
        if off % 8 = 4 then (match csrReg s (off - 4) with
          | some (64, _) => csrPut64 s who (off - 4) .upper (val &&& 0xFFFFFFFF)
          | _ => s) else s)
  else s

end Sys2Proof.Machine
end

