-- ==== Sys2Proof/Machine/Access.lean ====
section
/-! DEFINITION. Accesses to the device address space (R23 to R26, R235, R236, R239, R376, R464): who reaches what, unmapped and denied accesses,
reads and writes of main memory, of the other stores, and of registers. -/

namespace Sys2Proof.Machine

-- Reach (R464)

/-- The partition that a cluster or an engine works for; its addresses are partition addresses (R236). -/
def requesterPart (s : State) : Requester → Option (Fin 8)
  | .cluster c => (claimOf s c).map (fun x => x.1)
  | .upd e | .col e => if (s.ue e).regs.assigned then some (s.ue e).regs.part.toFin else none
  | _ => none

/-- Whether a requester gives partition addresses. -/
def usesPartAddr : Requester → Bool
  | .cluster _ | .upd _ | .col _ => true
  | _ => false

/-- The device physical address that a requester's address names. -/
def deviceAddr (s : State) (who : Requester) (a : Nat) : Nat :=
  match requesterPart s who with
  | some p => partAddr s p a
  | none => a

/-- [a, a + n) lies within [lo, lo + len). -/
def inside (a n lo len : Nat) : Bool := decide (lo ≤ a) && decide (a + n ≤ lo + len)

/-- What a cluster control core reaches of its partition: the owner range, the claimed cluster windows and the spine allocations. -/
def coreReach (s : State) (c : Fin 64) (a n : Nat) : Bool :=
  match claimOf s c with
  | none => false
  | some (p, _) =>
    let g := (s.slot p).asg
    (match s.mem.owners.get (p.castLE (by decide)) with | some o => inside a n o.base o.size && !inHosted s p (a - o.base) n | none => false) ||
      g.cmap.any (fun x => inside a n (winBase + x.val * 0x1000000) 0x1000000) ||
      inside a n (spineBase + g.spine0.1) g.spine0.2 || inside a n (spineBase + spineSize + g.spine1.1) g.spine1.2

/-- The security block of CSR space. -/
def inSec (a : Nat) : Bool := inside a 1 (csrBase + 0x5000000) 0x1000000

/-- Whether a requester reaches every byte of [a, a + n), by its own addresses (R26, R236, R376, R464). -/
def reaches (s : State) (who : Requester) (a n : Nat) : Bool :=
  match who with
  | .app _ => inside a n 0 (reserveBase s) || (inside a n csrBase csrSize && !inSec a)
  | .sec | .loader => true
  | .sched | .pmc => !inSec a
  | .clcore c => inside a n (reserveBase s + 0x380000 + 0x1000 * c.val) 0x1000 || coreReach s c a n ||
      inside a n (csrBase + 0x1000000 + c.val * 0x10000) 0x10000
  | .cluster _ | .upd _ | .col _ => (match requesterPart s who with | some p => partOwns s p a n | none => false)

/-- What an access meets. -/
inductive Hit where
  | miss
  | denied
  | ok (a : Nat)
deriving DecidableEq, Repr

def hitOf (s : State) (who : Requester) (a n : Nat) : Hit :=
  if !usesPartAddr who && unmapped s a then .miss
  else if reaches s who a n then .ok (deviceAddr s who a)
  else .denied

/-- A read that is not carried out returns zeros. -/
def zeroRead (s : State) (isWrite : Bool) : State := if isWrite then s else emit s .read 0 (zeroB 32)

/-- UNMAPPED_ACCESS (R25). -/
def execUnmappedAccess (t : Nat) (who : Requester) (addr : Nat) (isWrite : Bool) (s : State) : Answer :=
  let s1 := tick t s
  match hitOf s1 who addr 1 with
  | .miss => .next (zeroRead (logMiss s1 addr) isWrite)
  | .denied => .next s1
  | .ok _ => .next s1

/-- DENIED_ACCESS (R26, R464). -/
def execDeniedAccess (t : Nat) (who : Requester) (addr : Nat) (isWrite : Bool) (s : State) : Answer :=
  let s1 := tick t s
  match hitOf s1 who addr 1 with
  | .denied => .next (zeroRead (logDenied s1 who addr isWrite) isWrite)
  | .miss => .next s1
  | .ok _ => .next s1

-- Reads and writes

/-- The width at which a register is read: 8 bytes where a 64-bit register starts, else 4. -/
def csrWidth (s : State) (off : Nat) : Nat :=
  match csrReg s off with
  | some (64, _) => 8
  | _ => 4

/-- A read at a device physical address: the 32-byte granule, or a register. The output's destination is its poison flag. -/
def readAt (s : State) (who : Requester) (a : Nat) (ecc : Ecc) : State :=
  match locOf a with
  | .csr o => let w := csrWidth s o; emit s .read 0 (natLe w (csrRead s who o w).toNat)
  | .dram x =>
    let lo := x / 32 * 32
    let s1 := checkAddr s lo ecc
    emit s1 .read (if devPoi s1 lo then 1 else 0) (devRead s1 lo 32)
  | _ =>
    let lo := a / 32 * 32
    let s1 := planksNow s
    emit s1 .read (if devPoiAny s1 lo 32 then 1 else 0) (devRead s1 lo 32)

/-- MEM_READ (R239): an unmapped or denied read is what R25 and R464 say. -/
def execMemRead (t : Nat) (who : Requester) (addr : Nat) (ecc : Ecc) (s : State) : Answer :=
  let s1 := tick t s
  match hitOf s1 who addr 1 with
  | .miss => .next (zeroRead (logMiss s1 addr) false)
  | .denied => .next (zeroRead (logDenied s1 who addr false) false)
  | .ok a => .next (readAt s1 who a ecc)

/-- A write at a device physical address. -/
def writeAt (s : State) (who : Requester) (a : Nat) (data : Bytes) (poison : Bool) (ecc : Ecc) : State :=
  match locOf a with
  | .csr o => csrStore s who o data.length (BitVec.ofNat 64 (leNat data))
  | .dram x => dramWrite s x data poison ecc
  | _ => devWrite (planksNow s) a data poison

/-- MEM_WRITE (R239). -/
def execMemWrite (t : Nat) (who : Requester) (addr : Nat) (data : Bytes) (poison : Bool) (ecc : Ecc) (s : State) : Answer :=
  let s1 := tick t s
  if data.isEmpty then .next s1 else
  match hitOf s1 who addr data.length with
  | .miss => .next (logMiss s1 addr)
  | .denied => .next (logDenied s1 who addr true)
  | .ok a => .next (writeAt s1 who a data poison ecc)

/-- CSR_WRITE (R11): `addr` is a device physical address in CSR space and `width` is in bytes. -/
def execCsrWrite (t : Nat) (who : Requester) (addr : Nat) (width : Nat) (val : W64) (s : State) : Answer :=
  let s1 := tick t s
  match locOf addr with
  | .csr o =>
    (match hitOf s1 who addr 1 with
     | .miss => .next (logMiss s1 addr)
     | .denied => .next (logDenied s1 who addr true)
     | .ok _ => .next (csrStore s1 who o width val))
  | _ => .next s1

end Sys2Proof.Machine
end

