-- ==== Sys2Proof/Machine/Dispatch.lean ====
section
/-! DEFINITION. exec: one arm per constructor of Instr, each a direct call of the command's meaning. -/

namespace Sys2Proof.Machine

/-- The effect of a command on everything but the queue of waiting commands. -/
def exec (i : Instr) (s : State) : Host.Outcome State Fault Refusal :=
  match i with
  | .csrWrite t who addr width val => Sys2Proof.Machine.execCsrWrite t who addr width val s
  | .unmappedAccess t who addr isWrite => Sys2Proof.Machine.execUnmappedAccess t who addr isWrite s
  | .deniedAccess t who addr isWrite => Sys2Proof.Machine.execDeniedAccess t who addr isWrite s
  | .nop t c => Sys2Proof.Machine.execNop t c s
  | .endstep t c => Sys2Proof.Machine.execEndstep t c s
  | .jump t c => Sys2Proof.Machine.execJump t c s
  | .callv t c => Sys2Proof.Machine.execCallv t c s
  | .ret t c => Sys2Proof.Machine.execRet t c s
  | .loop t c => Sys2Proof.Machine.execLoop t c s
  | .trap t c => Sys2Proof.Machine.execTrap t c s
  | .pass t c => Sys2Proof.Machine.execPass t c s
  | .copy t c => Sys2Proof.Machine.execCopy t c s
  | .fill t c => Sys2Proof.Machine.execFill t c s
  | .moveDone t c => Sys2Proof.Machine.execMoveDone t c s
  | .sig t c => Sys2Proof.Machine.execSig t c s
  | .sigDelivery t src tgt seq ackLost => Sys2Proof.Machine.execSigDelivery t src tgt seq ackLost s
  | .sigRepeat t src tgt seq ackLost => Sys2Proof.Machine.execSigRepeat t src tgt seq ackLost s
  | .wait t c => Sys2Proof.Machine.execWait t c s
  | .bar t c => Sys2Proof.Machine.execBar t c s
  | .flush t c => Sys2Proof.Machine.execFlush t c s
  | .trace t c => Sys2Proof.Machine.execTrace t c s
  | .seqCtrlGo t who c => Sys2Proof.Machine.execSeqCtrlGo t who c s
  | .seqCtrlRelease t who c => Sys2Proof.Machine.execSeqCtrlRelease t who c s
  | .seqCtrlTrapDone t who c => Sys2Proof.Machine.execSeqCtrlTrapDone t who c s
  | .seqCtrlClrStop t who c => Sys2Proof.Machine.execSeqCtrlClrStop t who c s
  | .seqCtrlPause t who c => Sys2Proof.Machine.execSeqCtrlPause t who c s
  | .seqCtrlResume t who c => Sys2Proof.Machine.execSeqCtrlResume t who c s
  | .pausePoint t c => Sys2Proof.Machine.execPausePoint t c s
  | .plkCtrlClrFaulted t who c => Sys2Proof.Machine.execPlkCtrlClrFaulted t who c s
  | .passCommit t c => Sys2Proof.Machine.execPassCommit t c s
  | .pounceCheckDone t c => Sys2Proof.Machine.execPounceCheckDone t c s
  | .shadowParity t c seq tile => Sys2Proof.Machine.execShadowParity t c seq tile s
  | .plankResidue t c seq tile => Sys2Proof.Machine.execPlankResidue t c seq tile s
  | .accEcc t c seq tile => Sys2Proof.Machine.execAccEcc t c seq tile s
  | .passReexecute t c => Sys2Proof.Machine.execPassReexecute t c s
  | .freezeRequest t c cause => Sys2Proof.Machine.execFreezeRequest t c cause s
  | .freezeRelease t c cause => Sys2Proof.Machine.execFreezeRelease t c cause s
  | .vecComplete t c => Sys2Proof.Machine.execVecComplete t c s
  | .add t c => Sys2Proof.Machine.execAdd t c s
  | .sub t c => Sys2Proof.Machine.execSub t c s
  | .mul t c => Sys2Proof.Machine.execMul t c s
  | .fma t c => Sys2Proof.Machine.execFma t c s
  | .neg t c => Sys2Proof.Machine.execNeg t c s
  | .abs t c => Sys2Proof.Machine.execAbs t c s
  | .min t c => Sys2Proof.Machine.execMin t c s
  | .max t c => Sys2Proof.Machine.execMax t c s
  | .cmpeq t c => Sys2Proof.Machine.execCmpeq t c s
  | .cmplt t c => Sys2Proof.Machine.execCmplt t c s
  | .cmple t c => Sys2Proof.Machine.execCmple t c s
  | .iadd t c => Sys2Proof.Machine.execIadd t c s
  | .isub t c => Sys2Proof.Machine.execIsub t c s
  | .imul t c => Sys2Proof.Machine.execImul t c s
  | .mulbs t c => Sys2Proof.Machine.execMulbs t c s
  | .and t c => Sys2Proof.Machine.execAnd t c s
  | .or t c => Sys2Proof.Machine.execOr t c s
  | .xor t c => Sys2Proof.Machine.execXor t c s
  | .shl t c => Sys2Proof.Machine.execShl t c s
  | .shr t c => Sys2Proof.Machine.execShr t c s
  | .sra t c => Sys2Proof.Machine.execSra t c s
  | .cvt t c => Sys2Proof.Machine.execCvt t c s
  | .cvtsr t c => Sys2Proof.Machine.execCvtsr t c s
  | .split3 t c => Sys2Proof.Machine.execSplit3 t c s
  | .exp2 t c => Sys2Proof.Machine.execExp2 t c s
  | .log2 t c => Sys2Proof.Machine.execLog2 t c s
  | .rcp t c => Sys2Proof.Machine.execRcp t c s
  | .rsqrt t c => Sys2Proof.Machine.execRsqrt t c s
  | .redsum t c => Sys2Proof.Machine.execRedsum t c s
  | .redprod t c => Sys2Proof.Machine.execRedprod t c s
  | .redmax t c => Sys2Proof.Machine.execRedmax t c s
  | .redmin t c => Sys2Proof.Machine.execRedmin t c s
  | .argmax t c => Sys2Proof.Machine.execArgmax t c s
  | .argmin t c => Sys2Proof.Machine.execArgmin t c s
  | .dropout t c => Sys2Proof.Machine.execDropout t c s
  | .streamsoftmax t c => Sys2Proof.Machine.execStreamsoftmax t c s
  | .turn t c => Sys2Proof.Machine.execTurn t c s
  | .rngSeed t who c part val => Sys2Proof.Machine.execRngSeed t who c part val s
  | .mgTrain t g rate => Sys2Proof.Machine.execMgTrain t g rate s
  | .memRead t who addr ecc => Sys2Proof.Machine.execMemRead t who addr ecc s
  | .memWrite t who addr data poison ecc => Sys2Proof.Machine.execMemWrite t who addr data poison ecc s
  | .scrub t g n off ecc => Sys2Proof.Machine.execScrub t g n off ecc s
  | .rebuildRetry t g m ok => Sys2Proof.Machine.execRebuildRetry t g m ok s
  | .memCtrlRebuildNow0 t who g ok => Sys2Proof.Machine.execMemCtrlRebuildNow0 t who g ok s
  | .memCtrlRebuildNow1 t who g ok => Sys2Proof.Machine.execMemCtrlRebuildNow1 t who g ok s
  | .rebuildDone t g m => Sys2Proof.Machine.execRebuildDone t g m s
  | .periodicRetraining t g n ok => Sys2Proof.Machine.execPeriodicRetraining t g n ok s
  | .hatbandFlit t die addr data poison failures => Sys2Proof.Machine.execHatbandFlit t die addr data poison failures s
  | .sramAccess t store off ecc => Sys2Proof.Machine.execSramAccess t store off ecc s
  | .linkTrain t p lanes reversed => Sys2Proof.Machine.execLinkTrain t p lanes reversed s
  | .trainRetry t p lanes reversed => Sys2Proof.Machine.execTrainRetry t p lanes reversed s
  | .attest t p r => Sys2Proof.Machine.execAttest t p r s
  | .flitReceive t p f crcOk tagOk => Sys2Proof.Machine.execFlitReceive t p f crcOk tagOk s
  | .nak t p ack => Sys2Proof.Machine.execNak t p ack s
  | .retrain t p why lanes => Sys2Proof.Machine.execRetrain t p why lanes s
  | .keyUpdate t p transmit => Sys2Proof.Machine.execKeyUpdate t p transmit s
  | .brmCtrlRetrain t who p => Sys2Proof.Machine.execBrmCtrlRetrain t who p s
  | .brmCtrlFullWidth t who p => Sys2Proof.Machine.execBrmCtrlFullWidth t who p s
  | .time t p peerNs => Sys2Proof.Machine.execTime t p peerNs s
  | .timeExchange t => Sys2Proof.Machine.execTimeExchange t s
  | .colStep t who e val => Sys2Proof.Machine.execColStep t who e val s
  | .colCtrlAbort t who e => Sys2Proof.Machine.execColCtrlAbort t who e s
  | .collectiveStart t e => Sys2Proof.Machine.execCollectiveStart t e s
  | .contribution t p h data poisoned => Sys2Proof.Machine.execContribution t p h data poisoned s
  | .notify t e => Sys2Proof.Machine.execNotify t e s
  | .collTimeout t e => Sys2Proof.Machine.execCollTimeout t e s
  | .battReceive t e => Sys2Proof.Machine.execBattReceive t e s
  | .close t e => Sys2Proof.Machine.execClose t e s
  | .updCtrlClrDiscord t who e => Sys2Proof.Machine.execUpdCtrlClrDiscord t who e s
  | .updSeed t who e part val => Sys2Proof.Machine.execUpdSeed t who e part val s
  | .decide t p => Sys2Proof.Machine.execDecide t p s
  | .stageB5 t p => Sys2Proof.Machine.execStageB5 t p s
  | .ledgerSample t => Sys2Proof.Machine.execLedgerSample t s
  | .run t p buddyCopy => Sys2Proof.Machine.execRun t p buddyCopy s
  | .pause t p => Sys2Proof.Machine.execPause t p s
  | .resume t p => Sys2Proof.Machine.execResume t p s
  | .checkpoint t p => Sys2Proof.Machine.execCheckpoint t p s
  | .dump t p => Sys2Proof.Machine.execDump t p s
  | .selftest t p result => Sys2Proof.Machine.execSelftest t p result s
  | .claim t p => Sys2Proof.Machine.execClaim t p s
  | .detach t p => Sys2Proof.Machine.execDetach t p s
  | .load t p v trained => Sys2Proof.Machine.execLoad t p v trained s
  | .partialReload t p => Sys2Proof.Machine.execPartialReload t p s
  | .tktBase t who p part val => Sys2Proof.Machine.execTktBase t who p part val s
  | .leaseLapsed t p => Sys2Proof.Machine.execLeaseLapsed t p s
  | .status t r => Sys2Proof.Machine.execStatus t r s
  | .logRead t r start count => Sys2Proof.Machine.execLogRead t r start count s
  | .traceSet t r proc mask => Sys2Proof.Machine.execTraceSet t r proc mask s
  | .mgmtSelftest t r test target timeoutMs token allowStep result => Sys2Proof.Machine.execMgmtSelftest t r test target timeoutMs token allowStep result s
  | .fwBegin t r total => Sys2Proof.Machine.execFwBegin t r total s
  | .fwData t r off data => Sys2Proof.Machine.execFwData t r off data s
  | .fwCommit t r v => Sys2Proof.Machine.execFwCommit t r v s
  | .fwAbort t r => Sys2Proof.Machine.execFwAbort t r s
  | .procRestart t r proc savePoisoned => Sys2Proof.Machine.execProcRestart t r proc savePoisoned s
  | .cntRead t r bank first count => Sys2Proof.Machine.execCntRead t r bank first count s
  | .schedulerWatchdog t savePoisoned => Sys2Proof.Machine.execSchedulerWatchdog t savePoisoned s
  | .clusterWatchdog t c savePoisoned => Sys2Proof.Machine.execClusterWatchdog t c savePoisoned s
  | .fwActivate t => Sys2Proof.Machine.execFwActivate t s
  | .clusterKat t c result => Sys2Proof.Machine.execClusterKat t c result s
  | .slack t p entry => Sys2Proof.Machine.execSlack t p entry s
  | .wakeOnPoint t p entry => Sys2Proof.Machine.execWakeOnPoint t p entry s
  | .sleepOnPoint t p entry => Sys2Proof.Machine.execSleepOnPoint t p entry s
  | .hello t port p finger => Sys2Proof.Machine.execHello t port p finger s
  | .digest t port p step value => Sys2Proof.Machine.execDigest t port p step value s
  | .recover t port p reason r gen target => Sys2Proof.Machine.execRecover t port p reason r gen target s
  | .parked t port p => Sys2Proof.Machine.execParked t port p s
  | .fenced t port p => Sys2Proof.Machine.execFenced t port p s
  | .rebuild t port p => Sys2Proof.Machine.execRebuild t port p s
  | .join t port p j => Sys2Proof.Machine.execJoin t port p j s
  | .waitRejoin t p => Sys2Proof.Machine.execWaitRejoin t p s
  | .twinRebuildDone t p shard => Sys2Proof.Machine.execTwinRebuildDone t p shard s
  | .twinSolo t p => Sys2Proof.Machine.execTwinSolo t p s
  | .buddyRequest t port p ev => Sys2Proof.Machine.execBuddyRequest t port p ev s
  | .ckptDone t p => Sys2Proof.Machine.execCkptDone t p s
  | .restore t p buddyCopy => Sys2Proof.Machine.execRestore t p buddyCopy s
  | .clkSelArr t who code => Sys2Proof.Machine.execClkSelArr t who code s
  | .clkSelFab t who code => Sys2Proof.Machine.execClkSelFab t who code s
  | .clkSelCtl t who code => Sys2Proof.Machine.execClkSelCtl t who code s
  | .clkSelApp t who code => Sys2Proof.Machine.execClkSelApp t who code s
  | .clkSwitch t k => Sys2Proof.Machine.execClkSwitch t k s
  | .refLost t r => Sys2Proof.Machine.execRefLost t r s
  | .clkFallbackRetry t => Sys2Proof.Machine.execClkFallbackRetry t s
  | .arrPllStop t die => Sys2Proof.Machine.execArrPllStop t die s
  | .powerUp t dom => Sys2Proof.Machine.execPowerUp t dom s
  | .powerFault t dom => Sys2Proof.Machine.execPowerFault t dom s
  | .powerDecision t p1 dyn => Sys2Proof.Machine.execPowerDecision t p1 dyn s
  | .hwIlimit t => Sys2Proof.Machine.execHwIlimit t s
  | .hwLimitRelease t => Sys2Proof.Machine.execHwLimitRelease t s
  | .thermalRead t readings => Sys2Proof.Machine.execThermalRead t readings s
  | .thermTrip t sensor reading => Sys2Proof.Machine.execThermTrip t sensor reading s
  | .pwrReqApp1On t who on => Sys2Proof.Machine.execPwrReqApp1On t who on s
  | .pwrAppStart t who harts => Sys2Proof.Machine.execPwrAppStart t who harts s
  | .setOwner t role newRecord hssOk => Sys2Proof.Machine.execSetOwner t role newRecord hssOk s
  | .authKey t role keyDigest bitmap => Sys2Proof.Machine.execAuthKey t role keyDigest bitmap s
  | .revokeKey t role keyDigest => Sys2Proof.Machine.execRevokeKey t role keyDigest s
  | .grantSlot t role p keyDigest => Sys2Proof.Machine.execGrantSlot t role p keyDigest s
  | .bindTenant t keyDigest p request qd ct ss1 ss2 pub => Sys2Proof.Machine.execBindTenant t keyDigest p request qd ct ss1 ss2 pub s
  | .raiseFloor t role floor => Sys2Proof.Machine.execRaiseFloor t role floor s
  | .debugOpen t role tok tokDigest sigOk => Sys2Proof.Machine.execDebugOpen t role tok tokDigest sigOk s
  | .tokenLoad t tok tokDigest sigOk => Sys2Proof.Machine.execTokenLoad t tok tokDigest sigOk s
  | .debugClose t => Sys2Proof.Machine.execDebugClose t s
  | .enableRetire t role => Sys2Proof.Machine.execEnableRetire t role s
  | .pqSig t role => Sys2Proof.Machine.execPqSig t role s
  | .spdmMessage t viaPort session r => Sys2Proof.Machine.execSpdmMessage t viaPort session r s
  | .alarm t sensor => Sys2Proof.Machine.execAlarm t sensor s
  | .alarmEnd t => Sys2Proof.Machine.execAlarmEnd t s
  | .secZeroise t who level => Sys2Proof.Machine.execSecZeroise t who level s
  | .coldReset t => Sys2Proof.Machine.execColdReset t s
  | .strapLatch t cool => Sys2Proof.Machine.execStrapLatch t cool s
  | .ctlPllLock t r => Sys2Proof.Machine.execCtlPllLock t r s
  | .mgtLinkUp t => Sys2Proof.Machine.execMgtLinkUp t s
  | .dhcpack t ip server file => Sys2Proof.Machine.execDhcpack t ip server file s
  | .dhcpRetry t => Sys2Proof.Machine.execDhcpRetry t s
  | .tftpData t block data v => Sys2Proof.Machine.execTftpData t block data v s
  | .tftpError t => Sys2Proof.Machine.execTftpError t s
  | .tftpRetransmit t => Sys2Proof.Machine.execTftpRetransmit t s
  | .bootRetry t => Sys2Proof.Machine.execBootRetry t s
  | .bootDone t => Sys2Proof.Machine.execBootDone t s
  | .hostPortSample t => Sys2Proof.Machine.execHostPortSample t s
  | .hostFrameReceive t frame fcsOk => Sys2Proof.Machine.execHostFrameReceive t frame fcsOk s
  | .hostFrameSent t => Sys2Proof.Machine.execHostFrameSent t s
  | .firmwareFrame t f => Sys2Proof.Machine.execFirmwareFrame t f s
  | .dhcpRenew t ip => Sys2Proof.Machine.execDhcpRenew t ip s
  | .mgtLinkLost t => Sys2Proof.Machine.execMgtLinkLost t s
  | .i3cPrivateRead t => Sys2Proof.Machine.execI3cPrivateRead t s
  | .energy t uj peakMw railFault sig => Sys2Proof.Machine.execEnergy t uj peakMw railFault sig s
  | .meterPowerUp t => Sys2Proof.Machine.execMeterPowerUp t s
  | .ident t who => Sys2Proof.Machine.execIdent t who s
  | .setTag t who p => Sys2Proof.Machine.execSetTag t who p s
  | .readStatus t who => Sys2Proof.Machine.execReadStatus t who s
  | .selfCheck t who => Sys2Proof.Machine.execSelfCheck t who s
  | .periodicSelfCheck t => Sys2Proof.Machine.execPeriodicSelfCheck t s
  | .check t result rails => Sys2Proof.Machine.execCheck t result rails s
  | .meterRecord t => Sys2Proof.Machine.execMeterRecord t s
  | .meterSilent t => Sys2Proof.Machine.execMeterSilent t s
  | .traceDrain t c => Sys2Proof.Machine.execTraceDrain t c s
  | .dumpDeliver t p => Sys2Proof.Machine.execDumpDeliver t p s
  | .powerLoss t => Sys2Proof.Machine.execPowerLoss t s
  | .loadAlarmTimeout t p => Sys2Proof.Machine.execLoadAlarmTimeout t p s
  | .selftestTimeout t p => Sys2Proof.Machine.execSelftestTimeout t p s
  | .brmCtrlDisable t who p value => Sys2Proof.Machine.execBrmCtrlDisable t who p value s
  | .pgoodOrResetNLow t pgood resetN => Sys2Proof.Machine.execPgoodOrResetNLow t pgood resetN s

end Sys2Proof.Machine
end

