-- ==== Sys2Proof/Safety.lean ====
section
/-! DEFINITION. What counts as a safe step, and the form in which the block's memories are kept. -/

namespace Sys2Proof.Machine

/-- The step answers a next state. -/
def Completes (s : State) : Prop := ∃ t, step s = .next t

/-- The command answers a next state. -/
def Runs (i : Instr) (s : State) : Prop := ∃ t, exec i s = .next t

/-- The word `w` stands at the position of cluster c's sequencer, is a valid instruction of a class and operation, does not run off
the end of its block, has its WAIT fields met, and nothing keeps the sequencer from issuing (R124, R125, R129). -/
def Issues (s : State) (c : Fin 64) (w : IWord) (cls op : Nat) : Prop :=
  mayIssue s c = true ∧ (s.cl c).seq.word = some w ∧ wordValid w = true ∧ wCls w = cls ∧ wOp w = op ∧ waitsMet (s.cl c) w = true ∧
    ((s.cl c).seq.idx + 1 ≠ (((s.cl c).seq.block.map (fun b => b.words.length)).getD 0) ∨ endsBlock w = true)

/-- A ledger once the accepted ticket k has been answered (R370, R375): no ticket of its number is queued, and its stored entry holds the
reply. -/
def Ledger.answered (l : Ledger) (k : Ticket) (status detail value : Nat) : Ledger :=
  { l with
    queue := l.queue.filter (fun x => x.num != k.num)
    stored := alPut l.stored (k.num % 4096) (some {
      num := k.num, reply := replyBytes k.num k.epoch k.typ status detail value l.step.toNat, crc := fieldU k.raw 60 4, replied := true }) }

/-- A ledger once its ticket number n is being carried out (R373). -/
def Ledger.began (l : Ledger) (n : Nat) : Ledger :=
  { l with queue := l.queue.map (fun x => if x.num = n then { x with begun := true } else x) }

/-- Whether a byte at a device physical address takes what is written to it: covered, keyed and reachable main memory, the stores of a powered
cluster apart from its trace buffer, a powered spine pool, and the control SRAM above the trouble log. -/
def takes (s : State) (x : Nat) : Bool :=
  match locOf x with
  | .dram y => (match dramAt s.mem y with
    | .held _ => true
    | _ => false)
  | .ops c _ | .bankA c _ | .bankB c _ => clOn s c
  | .spine d _ => spOn s d
  | .ctl o => decide (0x200000 ≤ o)
  | .trace _ _ | .hole _ | .csr _ | .unmapped => false

/-- The five stores of a cluster are in their canonical form. -/
def Cluster.stored (k : Cluster) : Prop :=
  k.ops.wf = true ∧ k.bankA.wf = true ∧ k.bankB.wf = true ∧ k.vreg.wf = true ∧ k.trace.wf = true

/-- Main memory, the control SRAM, the spine pools, the clusters' stores and the log slots, each in its canonical form: addresses
strictly rising, and in an SRAM no byte listed that reads as an unlisted one does. -/
def Kept (m : Mem) (ct : Sram) (sp : Vector Sram 2) (cl : Vector Cluster 64) (lg : Log) : Prop :=
  m.wf = true ∧ ct.wf = true ∧ (∀ d : Fin 2, (sp.get d).wf = true) ∧ (∀ c : Fin 64, (cl.get c).stored) ∧ alRises 0 lg.entries = true

/-- Every memory of the block is in its canonical form. -/
def State.stored (s : State) : Prop := Kept s.mem s.ctl s.spines s.clusters s.log

end Sys2Proof.Machine
end

