-- ==== Sys2Proof/Certificates/Slice0/Obligations.lean ====
section
/-! DEFINITION. The statements for the provers. Where a clause says that a command only lets the time pass, because its event cannot arise
in the state, that is the model's choice (log entry 2). -/

open Sys2Proof Sys2Proof.Machine

/-- Tier 1. The command at the front of the queue is taken off it and runs on the state with the queue's rest. -/
def Obligations.StepRunsTheFrontCommand : Prop :=
  ∀ (i : Instr) (rest : List Instr) (s : State), s.pending = i :: rest → step s = exec i { s with pending := rest }

/-- Tier 1. With nothing waiting the block idles: the model's choice (log entry 1). -/
def Obligations.EmptyQueueIdles : Prop :=
  ∀ s : State, s.pending = [] → step s = .next s

/-- Tier 2. A word that advances moves the position one word on (R130): to the first word of the innermost loop body after its last
word while repetitions are left, and past it after the last repetition. NOP has no other effect. Choices of the model that it rests on: log entry 2. -/
def Obligations.NopAdvances : Prop :=
  ∀ (t : Nat) (c : Fin 64) (s : State) (w : IWord), Issues s c w 0 0 →
    exec (.nop t c) s = .next ((tick t s).setCl c (stepWord (s.cl c))) ∧
    (stepWord (s.cl c)).sreg = { (s.cl c).sreg with issued := (s.cl c).sreg.issued + 1 } ∧
    (stepWord (s.cl c)).seq.mode = .run ∧
    ((s.cl c).seq.loops = [] → (stepWord (s.cl c)).seq.idx = (s.cl c).seq.idx + 1 ∧ (stepWord (s.cl c)).seq.loops = []) ∧
    (∀ l r, (s.cl c).seq.loops = l :: r → (s.cl c).seq.idx ≠ l.last →
      (stepWord (s.cl c)).seq.idx = (s.cl c).seq.idx + 1 ∧ (stepWord (s.cl c)).seq.loops = l :: r) ∧
    (∀ l r, (s.cl c).seq.loops = l :: r → (s.cl c).seq.idx = l.last → 0 < l.left →
      (stepWord (s.cl c)).seq.idx = l.first ∧ (stepWord (s.cl c)).seq.loops = { l with left := l.left - 1 } :: r) ∧
    (∀ l, (s.cl c).seq.loops = [l] → (s.cl c).seq.idx = l.last → l.left = 0 →
      (stepWord (s.cl c)).seq.idx = (s.cl c).seq.idx + 1 ∧ (stepWord (s.cl c)).seq.loops = [])

/-- Tier 2. JUMP, CALLV and RET transfer to the block that they name, whose words and targets were read with the block that holds them (R128,
R130, R132); while the control core restarts a valid transfer is HELD instead (R154). An invalid one stops the program, restart or not: a
JUMP or CALLV whose target cannot be read, a CALLV with LADDER 3 or four calls deep, a RET without a call (R131, R151). Nothing else changes. Choices of the model that it rests on: log entries 2, 29. -/
def Obligations.FlowTransfers : Prop :=
  ∀ (t : Nat) (c : Fin 64) (s : State) (w : IWord),
    (let held : State := (tick t s).setCl c { s.cl c with seq := { (s.cl c).seq with mode := .held, released := false } }
     let went (b : Block) (i : Nat) (calls : List RetPoint) : State := (tick t s).setCl c { s.cl c with
       seq := { (s.cl c).seq with mode := .run, block := some b, idx := i, calls := calls, loops := [], released := false }
       sreg := { (s.cl c).sreg with issued := (s.cl c).sreg.issued + 1 } }
     (∀ cur g, (s.cl c).seq.block = some cur → cur.tgts.find? (fun x => x.idx == (s.cl c).seq.idx) = some g →
       (∀ e, g.fail = some e → Issues s c w 0 2 → exec (.jump t c) s = .next (stopHere (tick t s) c e w)) ∧
       (g.fail = none →
         (let b := withTargets (tick t s) c { addr := g.addr, words := g.words, tgts := [] }
          (Issues s c w 0 2 → (s.cl c).seq.coreRst = false → exec (.jump t c) s = .next (went b 0 (s.cl c).seq.calls)) ∧
          (Issues s c w 0 2 → (s.cl c).seq.coreRst = true → exec (.jump t c) s = .next held) ∧
          (Issues s c w 0 3 → bitsAt w.toNat 94 2 ≠ 3 → (s.cl c).seq.calls.length < 4 →
            ((s.cl c).seq.coreRst = false → exec (.callv t c) s = .next (went b 0
              ({ block := cur, idx := (s.cl c).seq.idx + 1, layer := bitsAt w.toNat 96 16, ladder := bitsAt w.toNat 94 2 } ::
                (s.cl c).seq.calls))) ∧
            ((s.cl c).seq.coreRst = true → exec (.callv t c) s = .next held))))) ∧
     (Issues s c w 0 3 → bitsAt w.toNat 94 2 = 3 ∨ 4 ≤ (s.cl c).seq.calls.length →
       exec (.callv t c) s = .next (stopHere (tick t s) c reasonFlow w)) ∧
     (Issues s c w 0 4 → ∀ r rs, (s.cl c).seq.calls = r :: rs →
       ((s.cl c).seq.coreRst = false → exec (.ret t c) s = .next (went r.block r.idx rs)) ∧
       ((s.cl c).seq.coreRst = true → exec (.ret t c) s = .next held)) ∧
     (Issues s c w 0 4 → (s.cl c).seq.calls = [] → exec (.ret t c) s = .next (stopHere (tick t s) c reasonFlow w)))

/-- Tier 1. LOOP opens a frame over the words that follow it where they lie in the block, hold no flow word and nest at most two deep
(R130, R131); otherwise the program stops with FLOW.
TRAP raises its service request once and waits; SEQ_CTRL.TRAP_DONE ends the wait and moves on (R130, R158).
ENDSTEP takes effect once every unit has completed and every SIG is acknowledged: DONE, with SEM_RES set where a semaphore
is left non-zero (R130, R148). Choices of the model that it rests on: log entry 2. -/
def Obligations.LoopsTrapsAndEndsteps : Prop :=
  (∀ (t : Nat) (c : Fin 64) (s : State) (w : IWord) (b : Block), Issues s c w 0 5 → (s.cl c).seq.block = some b →
     (let first := (s.cl c).seq.idx + 1
      let last := first + bitsAt w.toNat 90 6
      let fits := last < b.words.length ∧ ((b.words.drop first).take (last + 1 - first)).any isFlow = false ∧
        ((s.cl c).seq.loops = [] ∨ ∃ l, (s.cl c).seq.loops = [l] ∧ last ≤ l.last)
      (fits → exec (.loop t c) s = .next ((tick t s).setCl c { s.cl c with
         seq := { (s.cl c).seq with
           mode := .run, idx := first, loops := { first := first, last := last, left := bitsAt w.toNat 96 16 } :: (s.cl c).seq.loops }
         sreg := { (s.cl c).sreg with issued := (s.cl c).sreg.issued + 1 } })) ∧
      (¬ fits → exec (.loop t c) s = .next (stopHere (tick t s) c reasonFlow w)))) ∧
  (∀ (t : Nat) (c : Fin 64) (s : State),
     (∀ w, Issues s c w 0 6 → (s.cl c).seq.trap = none →
       exec (.trap t c) s = .next ((tick t s).setCl c { s.cl c with
         seq := { (s.cl c).seq with mode := .wait, trap := some (bitsAt w.toNat 96 16) } })) ∧
     (∀ w n, Issues s c w 0 6 → (s.cl c).seq.trap = some n → exec (.trap t c) s = .next (tick t s)) ∧
     (∀ who n, seqWriter who c = true → clOn s c = true → (s.cl c).seq.trap = some n →
       exec (.seqCtrlTrapDone t who c) s =
         .next ((tick t s).setCl c (stepWord { s.cl c with seq := { (s.cl c).seq with trap := none } })))) ∧
  (∀ (t : Nat) (c : Fin 64) (s : State) (w : IWord), Issues s c w 0 1 →
     idleUnits (s.cl c) = true → (s.cl c).seq.sigOut = [] → (s.cl c).plk.checks = [] →
     ∃ u, exec (.endstep t c) s = .next u ∧
       u.cl c = { s.cl c with
         seq := { (s.cl c).seq with mode := .done }
         sreg := { (s.cl c).sreg with
           issued := (s.cl c).sreg.issued + 1
           semRes := (s.cl c).sreg.semRes || (List.range 32).any (fun i => (s.cl c).seq.sems.toList.getD i 0 != 0) } } ∧
       (∀ d, d ≠ c → u.cl d = s.cl d) ∧ u.mem = s.mem ∧ u.ctl = s.ctl ∧ u.spines = s.spines ∧ u.slots = s.slots ∧
       ((∀ i, i < 32 → (s.cl c).seq.sems.toList.getD i 0 = 0) → u.log = s.log))

/-- Tier 2. A word that is no valid instruction stops the program with reason BAD_WORD, whichever command names the cluster (R124). -/
def Obligations.InvalidWordsStop : Prop :=
  ∀ (t : Nat) (c : Fin 64) (s : State) (w : IWord) (i : Instr),
    i ∈ [.nop t c, .endstep t c, .jump t c, .callv t c, .ret t c, .loop t c, .trap t c, .pass t c, .copy t c, .fill t c, .sig t c,
      .wait t c, .bar t c, .flush t c, .trace t c, .add t c, .fma t c, .cvt t c, .redsum t c, .dropout t c, .streamsoftmax t c, .turn t c] →
    mayIssue s c = true → (s.cl c).seq.word = some w → wordValid w = false →
    exec i s = .next (stopHere (tick t s) c reasonBadWord w)

/-- Tier 1. PASS enters the plank where it has room, the plank is not frozen, its checks pass and, for a sampled pass, the pounce unit is
free (R134, R107, R125); a pass that fails a check stops the program with that reason (R138). The plank's own rows are brought to the present
cycle first (R86). Choices of the model that it rests on: log entries 2, 16. -/
def Obligations.PassEntersThePlank : Prop :=
  ∀ (t : Nat) (c : Fin 64) (s : State) (w : IWord), Issues s c w 1 0 → outP (s.cl c) < 6 → (s.cl c).frozen = false →
    (let s1 := rowsNow (tick t s) c
     (passCheck s1 c w = none → (s.cl c).plk.checks = [] →
       ∃ u q, exec (.pass t c) s = .next u ∧ (u.cl c).plk.passes = (s1.cl c).plk.passes ++ [q] ∧
         q.word = w ∧ q.seqNo = (s.cl c).plk.issued ∧ q.attempt = 0 ∧ q.aband = none ∧ q.step = (s.cl c).sreg.step ∧ q.counted = true ∧
         (u.cl c).plk.issued = (s.cl c).plk.issued + 1 ∧ (u.cl c).plk.brk = false ∧
         (u.cl c).seq.mode = .run ∧ (u.cl c).sreg.issued = (s.cl c).sreg.issued + 1 ∧
         (u.cl c).ops = (s1.cl c).ops ∧ (u.cl c).bankA = (s1.cl c).bankA ∧ (u.cl c).bankB = (s1.cl c).bankB ∧
         (∀ d, d ≠ c → u.cl d = s.cl d) ∧ u.mem = s.mem ∧ u.slots = s.slots ∧ u.log = s.log) ∧
     (∀ r, passCheck s1 c w = some r → exec (.pass t c) s = .next (stopHere s1 c r w)))

/-- Tier 1. COPY and FILL are checked at issue, one that moves nothing completes at once, and the others join the queue of the DMA engine,
which starts them in order (R139 to R143, R125); MOVE_DONE takes the MOVE under way off the queue, counts its bytes, and starts the
next (R126, R506). The plank's own rows are brought to the present cycle first (R86).
The MOVE under way completes: what it has not yet written is written, it leaves the queue, its bytes are counted, and the next MOVE
starts (R126, R141, R506). One that a PAUSE has stopped stays outstanding (R153). Choices of the model that it rests on: log entries 2, 14, 19. -/
def Obligations.MovesRunInOrder : Prop :=
  (∀ (t : Nat) (c : Fin 64) (s : State) (w : IWord), outD (s.cl c) < 6 →
     (let s1 := rowsNow (tick t s) c
      let d := (s1.cl c).ops.read (moveDoff w) 128
      ∀ i op, (i, op) ∈ [(Instr.copy t c, 0), (Instr.fill t c, 1)] → Issues s c w 3 op →
       (∀ r, dmaCheck s1 c w = some r → exec i s = .next (stopHere s1 c r w)) ∧
       (dmaCheck s1 c w = none → moveEmpty d = true → exec i s = .next (s1.setCl c (stepWord (s1.cl c)))) ∧
       (dmaCheck s1 c w = none → moveEmpty d = false →
         exec i s = .next (startMove (s1.setCl c (stepWord { s1.cl c with
           dma := (s1.cl c).dma ++ [.move w d (moveBytes d) none] })) c)))) ∧
  (∀ (t : Nat) (c : Fin 64) (s : State) (w : IWord) (d : Bytes) (b n : Nat), clOn s c = true → frontMove (s.cl c).dma = some (w, d, b, some n) →
     ((s.cl c).seq.paused = true ∨ ((s.cl c).seq.pauseReq = true ∧ n < b) → exec (.moveDone t c) s = .next (tick t s)) ∧
     ((s.cl c).seq.paused = false → (s.cl c).seq.pauseReq = false →
       (let all := ((dmaFields d).rows.map (fun r =>
         if wOp w = 1 then fillRun (movePattern w) r else copyRun (planksNow (tick t s)) (clPart (s.cl c)) r)).flatten
        let u := pCommit (planksNow (tick t s)) (clPart (s.cl c)) ((all.drop n).take (b - n))
        exec (.moveDone t c) s = .next (afterUnit (startMove (countOp (u.setCl c { u.cl c with dma := dropMove (u.cl c).dma })
         (clPart (s.cl c)) 63 b) c) c))))

/-- Tier 2. SIG takes the next sequence number of its pair and stays outstanding until it is acknowledged; a target number that the
partition does not hold, or an increment of 0, stops the program (R147, R148, R151).
A SIG that reaches its powered target for the first time adds its increment to the semaphore, saturating at 0xFFFF with SEM_OVF;
a repeat changes no semaphore. It stays outstanding while its acknowledgement is lost (R148). SIG_REPEAT brings it again.
An acknowledged SIG is no longer outstanding at its source (R148). Choices of the model that it rests on: log entries 2, 18. -/
def Obligations.SignalsArriveOnce : Prop :=
  (∀ (t : Nat) (c : Fin 64) (s : State) (w : IWord), Issues s c w 4 0 →
     (∀ g, physOf s (clPart (s.cl c)) (bitsAt w.toNat 106 6) = some g → bitsAt w.toNat 93 8 ≠ 0 →
       (let n := (alGet (s.cl c).seq.sigNext g.val).getD 0
        exec (.sig t c) s = .next ((tick t s).setCl c (stepWord { s.cl c with seq := { (s.cl c).seq with
         sigNext := alPut (s.cl c).seq.sigNext g.val (some ((n + 1) % 2 ^ 16))
         sigOut := (s.cl c).seq.sigOut ++ [{ tgt := g, seq := n, sem := bitsAt w.toNat 101 5, inc := bitsAt w.toNat 93 8 }] } })))) ∧
     (physOf s (clPart (s.cl c)) (bitsAt w.toNat 106 6) = none ∨ bitsAt w.toNat 93 8 = 0 →
       exec (.sig t c) s = .next (stopHere (tick t s) c reasonSync w))) ∧
  (∀ (t : Nat) (src tgt : Fin 64) (seq : Nat) (s : State) (g : SigOut) (i : Instr),
     i ∈ [.sigDelivery t src tgt seq true, .sigRepeat t src tgt seq true] → clOn s src = true → clOn s tgt = true →
     (s.cl src).seq.sigOut.find? (fun x => x.tgt == tgt && x.seq == seq) = some g →
     (let k : Fin 32 := ⟨g.sem % 32, Nat.mod_lt _ (by decide)⟩
      let v := ((s.cl tgt).seq.sems.get k).toNat + g.inc
      ((s.cl tgt).seq.sigSeen.contains (src.val, g.seq) = false →
       ∃ u, exec i s = .next u ∧ (∀ d, d ≠ tgt → u.cl d = s.cl d) ∧ u.mem = s.mem ∧ u.slots = s.slots ∧ (v ≤ 0xFFFF → u.log = s.log) ∧
         u.cl tgt = { s.cl tgt with
           seq := { (s.cl tgt).seq with
             sems := vset (s.cl tgt).seq.sems k (BitVec.ofNat 16 (Nat.min v 0xFFFF)), sigSeen := (src.val, g.seq) :: (s.cl tgt).seq.sigSeen }
           sreg := { (s.cl tgt).sreg with semOvf := (s.cl tgt).sreg.semOvf || decide (0xFFFF < v) } }) ∧
      ((s.cl tgt).seq.sigSeen.contains (src.val, g.seq) = true →
       ∃ u, exec i s = .next u ∧ (∀ d, u.cl d = s.cl d) ∧ u.mem = s.mem ∧ u.slots = s.slots))) ∧
  (∀ (t : Nat) (src tgt : Fin 64) (seq : Nat) (s : State) (g : SigOut) (i : Instr),
     i ∈ [.sigDelivery t src tgt seq false, .sigRepeat t src tgt seq false] → clOn s src = true → clOn s tgt = true → src ≠ tgt →
     (s.cl src).seq.sigOut.find? (fun x => x.tgt == tgt && x.seq == seq) = some g →
     (s.cl src).seq.stopPend = none → (s.cl src).seq.draining = false →
     ∃ u, exec i s = .next u ∧ u.mem = s.mem ∧ u.slots = s.slots ∧ (∀ d, d ≠ src → d ≠ tgt → u.cl d = s.cl d) ∧
       u.cl src = { s.cl src with seq := { (s.cl src).seq with
         sigOut := (s.cl src).seq.sigOut.filter (fun x => !(x.tgt == tgt && x.seq == seq)) } })

/-- Tier 2. WAIT takes its number off the semaphore once it is there and moves on, and waits until then (R147); a number of 0 stops the
program.
BAR joins the next generation of its barrier and waits; where every member of the barrier has joined that generation, all that
wait at it are released (R149). A cluster that is no member stops. Choices of the model that it rests on: log entry 2. -/
def Obligations.WaitsAndBarriersHold : Prop :=
  (∀ (t : Nat) (c : Fin 64) (s : State) (w : IWord), Issues s c w 4 1 →
     (let n := bitsAt w.toNat 85 16
      let i : Fin 32 := ⟨bitsAt w.toNat 101 5 % 32, Nat.mod_lt _ (by decide)⟩
      let v := (s.cl c).seq.sems.get i
      (n ≠ 0 → n ≤ v.toNat → exec (.wait t c) s = .next ((tick t s).setCl c (stepWord { s.cl c with
         seq := { (s.cl c).seq with sems := vset (s.cl c).seq.sems i (v - BitVec.ofNat 16 n) } }))) ∧
      (v.toNat < n → exec (.wait t c) s = .next ((tick t s).setCl c { s.cl c with seq := { (s.cl c).seq with mode := .wait } })) ∧
      (n = 0 → exec (.wait t c) s = .next (stopHere (tick t s) c reasonSync w)))) ∧
  (∀ (t : Nat) (c : Fin 64) (s : State) (w : IWord), Issues s c w 4 2 →
     (let b := bitsAt w.toNat 108 4
      let m := barrierMask s (clPart (s.cl c)) b
      let n := barCount (s.cl c) b + 1
      let joined : Cluster := { s.cl c with seq := { (s.cl c).seq with
       mode := .wait, barWait := some b, barGen := alPut (s.cl c).seq.barGen b (some n) } }
      (bitAt m (clLcl (s.cl c)) = false → exec (.bar t c) s = .next (stopHere (tick t s) c reasonSync w)) ∧
      (bitAt m (clLcl (s.cl c)) = true → (s.cl c).seq.barWait = none →
       ((∃ l g, l < 64 ∧ bitAt m l = true ∧ physOf s (clPart (s.cl c)) l = some g ∧ g ≠ c ∧ barCount (s.cl g) b < n) →
         exec (.bar t c) s = .next ((tick t s).setCl c joined)) ∧
       ((∀ l, l < 64 → bitAt m l = true → ∃ g, physOf s (clPart (s.cl c)) l = some g ∧ n ≤ barCount (((tick t s).setCl c joined).cl g) b) →
         exec (.bar t c) s = .next (releaseBar ((tick t s).setCl c joined) (clPart (s.cl c)) b)))))

/-- Tier 1. STAT.FLUSH with no earlier pass or check of its layer left writes its carder record at once; with one left, it joins the queue of
the DMA engine. A bad address stops the program (R150, R163, R164). STAT.TRACE writes one trace record and goes on (R150, R510). -/
def Obligations.StatWordsAct : Prop :=
  ∀ (t : Nat) (c : Fin 64) (s : State) (w : IWord),
    (Issues s c w 5 0 → outD (s.cl c) < 6 →
      (let L := bitsAt w.toNat 96 16
       let a := bitsAt w.toNat 0 48
       let mine := (s.cl c).plk.passes.filter (fun q => q.layer == L)
       let f : FlushJob :=
        { layer := L, addr := a, ovf := passDropped (s.cl c)
          slot := ((s.cl c).card.slots.find? (fun x => x.layer == L)).getD (CardSlot.clear L)
          waitP := mine.map (fun q => q.seqNo)
          waitC := (mine.filter (fun q => q.draw.isSome)).map (fun q => q.seqNo) ++
            ((s.cl c).plk.checks.filter (fun h => h.layer == L)).map (fun h => h.seqNo) }
       let taken := (tick t s).setCl c (stepWord { s.cl c with dma := (s.cl c).dma ++ [.flush f] })
       let okay := a % 256 = 0 ∧ a + 768 ≤ dramEnd ∧ partOwns s (clPart (s.cl c)) a 768 = true
       (¬ okay → exec (.flush t c) s = .next (stopHere (tick t s) c reasonDma w)) ∧
       (okay → exec (.flush t c) s = .next (afterUnit taken c)))) ∧
    (Issues s c w 5 1 → ∃ u, exec (.trace t c) s =
        .next (advanceWord (tracePoint u c (bitsAt w.toNat 96 16)) c) ∧
      u.mem = s.mem ∧ u.slots = s.slots ∧ u.log = s.log ∧ (∀ d, d ≠ c → u.cl d = s.cl d) ∧
      (u.cl c).trc.recno = (s.cl c).trc.recno + 1 ∧ (u.cl c).seq = (s.cl c).seq ∧ (u.cl c).ops = (s.cl c).ops ∧
      (u.cl c).trace = (s.cl c).trace.write 32 ((s.cl c).trc.recno.toNat % 512 * 32)
        (natLe 8 (tick t s).clk.time.toNat ++ natLe 4 (s.cl c).sreg.step.toNat ++ natLe 2 (bitsAt w.toNat 96 16) ++ natLe 1 1 ++
          natLe 1 (clLcl (s.cl c)) ++ natLe 8 (bitsAt w.toNat 0 64) ++ natLe 8 (s.cl c).trc.recno.toNat) false)

/-- Tier 2. GO starts an IDLE or DONE sequencer at its entry block with fresh semaphores, signals, loops and calls, and with the carder's
slots empty (R152, R163), the targets of its transfers read with it (R128); an entry block that cannot be read stops it (R151); in every other
mode it changes nothing. A requester that may not write SEQ_CTRL changes nothing (R156). Choices of the model that it rests on: log entry 18. -/
def Obligations.GoStartsTheProgram : Prop :=
  ∀ (t : Nat) (who : Requester) (c : Fin 64) (s : State),
    (seqWriter who c = false → exec (.seqCtrlGo t who c) s = .next (tick t s)) ∧
    (seqWriter who c = true → clOn s c = true → (s.cl c).seq.paused = false → (s.cl c).seq.pauseReq = false →
      (s.cl c).seq.draining = false →
      ((s.cl c).seq.mode ≠ .idle → (s.cl c).seq.mode ≠ .done → exec (.seqCtrlGo t who c) s = .next (tick t s)) ∧
      ((s.cl c).seq.mode = .idle ∨ (s.cl c).seq.mode = .done →
        (let k1 : Cluster := { s.cl c with
           seq := { (s.cl c).seq with
             mode := .run, block := none, idx := 0, calls := [], loops := [], sems := Vector.replicate 32 0, sigNext := [], sigOut := []
             sigSeen := [], barGen := [], passIdx := [], trap := none, barWait := none, released := false, stopPend := none }
           card := { (s.cl c).card with slots := [], ovfCond := false }
           vec := { (s.cl c).vec with index := 0 } }
         let s1 := (tick t s).setCl c k1
         (∀ b, fetchBlock s1 (clPart (s.cl c)) (s.cl c).sreg.entry.toNat = .inl b →
           exec (.seqCtrlGo t who c) s = .next (s1.setCl c { k1 with seq := { k1.seq with block := some (withTargets s1 c b) } })) ∧
         (∀ r, fetchBlock s1 (clPart (s.cl c)) (s.cl c).sreg.entry.toNat = .inr r →
           exec (.seqCtrlGo t who c) s = .next (stopAt s1 c r 0xFF 0xFFFF (ptrAddr (s.cl c).sreg.entry.toNat))))))

/-- Tier 2. The other bits of SEQ_CTRL (R153 to R155, R158): RELEASE makes the held transfer and ends the restart of the control core;
CLR_STOP takes STOPPED to IDLE; PAUSE is noted with its cycle and discards the tiles staged for passes that
have not started (R109), and is entered at once where nothing runs; RESUME leaves PAUSED, restarts
the engines and retimes the passes that have not started.
A pausing cluster whose units have all stopped enters PAUSED (R109, R153); one whose units have not stays as it is. Choices of the model that it rests on: log entries 2, 18. -/
def Obligations.SeqCtrlBitsAct : Prop :=
  (∀ (t : Nat) (who : Requester) (c : Fin 64) (s : State), seqWriter who c = true → clOn s c = true →
     ((s.cl c).seq.mode = .held → (s.cl c).seq.paused = false → (s.cl c).seq.pauseReq = false →
       exec (.seqCtrlRelease t who c) s =
         .next (releaseHeld ((tick t s).setCl c { s.cl c with seq := { (s.cl c).seq with coreRst := false, released := true } }) c)) ∧
     ((s.cl c).seq.mode ≠ .held → exec (.seqCtrlRelease t who c) s =
         .next ((tick t s).setCl c { s.cl c with seq := { (s.cl c).seq with coreRst := false, released := false } })) ∧
     ((s.cl c).seq.mode = .stopped → exec (.seqCtrlClrStop t who c) s =
         .next ((tick t s).setCl c { s.cl c with seq := { (s.cl c).seq with mode := .idle } })) ∧
     ((s.cl c).seq.mode ≠ .stopped → exec (.seqCtrlClrStop t who c) s = .next (tick t s)) ∧
     ((s.cl c).seq.paused = false → (s.cl c).seq.pauseReq = false →
       (let s1 := rowsNow (tick t s) c
        let asked := s1.setCl c { s1.cl c with
          plk := { (s1.cl c).plk with passes := (s1.cl c).plk.passes.map (fun q =>
            if arrCyc (tick t s) c < q.firstC then { q with run := PassRun.idle } else q) }
          seq := { (s1.cl c).seq with pauseReq := true, pauseC := arrCyc (tick t s) c } }
        (∀ w d b n, frontMove (s.cl c).dma = some (w, d, b, some n) → n < b → ∃ u m, exec (.seqCtrlPause t who c) s = .next u ∧ n < m ∧ m ≤ b ∧
         (m % 4096 = 0 ∨ m = b) ∧ frontMove (u.cl c).dma = some (w, d, b, some m)) ∧
        ((∀ w d b n, frontMove (s.cl c).dma ≠ some (w, d, b, some n)) →
         (atPausePoint asked c = false → exec (.seqCtrlPause t who c) s = .next asked) ∧
         (atPausePoint asked c = true → (∀ p, c ∉ (s.slot p).asg.cmap) → exec (.seqCtrlPause t who c) s =
          .next (asked.setCl c { asked.cl c with seq := { (asked.cl c).seq with pauseReq := false, paused := true } }))))) ∧
     ((s.cl c).seq.paused = true → (s.cl c).plk.passes = [] → (s.cl c).vec.jobs = [] → (s.cl c).dma = [] → (s.cl c).seq.mode ≠ .held →
       (s.cl c).seq.stopPend = none → (s.cl c).seq.draining = false → (s.cl c).seq.pauseReq = false →
       ∃ u, exec (.seqCtrlResume t who c) s = .next u ∧ (u.cl c).seq = { (s.cl c).seq with paused := false } ∧ (u.cl c).plk.brk = true ∧
         (u.cl c).plk.passes = [] ∧ (u.cl c).sreg = (s.cl c).sreg ∧ (∀ d, d ≠ c → u.cl d = s.cl d) ∧ u.mem = s.mem ∧ u.slots = s.slots)) ∧
  (∀ (t : Nat) (c : Fin 64) (s : State), clOn s c = true → (s.cl c).seq.pauseReq = true →
     (atPausePoint (tick t s) c = true → (∀ p, c ∉ (s.slot p).asg.cmap) → exec (.pausePoint t c) s =
       .next ((tick t s).setCl c { s.cl c with seq := { (s.cl c).seq with pauseReq := false, paused := true } })) ∧
     (atPausePoint (tick t s) c = false → exec (.pausePoint t c) s = .next (tick t s)))

/-- Tier 2. The oldest pass in flight commits in its commit cycle while its cluster is powered and not frozen (R93, R98, R114): it leaves the
plank, its accumulator blocks change banks, the pass counter counts it (R121), FUSION and SHAPE are its own (R118), and the sequencer, the
vector engine, the other clusters and main memory stay as they are. Before its cycle, and while the plank is frozen, nothing happens.
A pounce check that ends leaves the unit and is counted (R106, R107, R121); with nothing under way nothing happens. Choices of the model that it rests on: log entries 2, 10, 15. -/
def Obligations.PassesAndChecksComplete : Prop :=
  (∀ (t : Nat) (c : Fin 64) (s : State) (q : Pass) (r : List Pass), inFlight (tick t s) c = q :: r →
     (arrCyc (tick t s) c < q.commitC ∨ (s.cl c).frozen = true → exec (.passCommit t c) s = .next (tick t s)) ∧
     (clOn s c = true → (s.cl c).frozen = false → q.commitC ≤ arrCyc (tick t s) c → (s.cl c).dma = [] → (s.cl c).seq.stopPend = none →
       (s.cl c).seq.draining = false →
       (let f := ((s.cl c).plk.passes.find? (fun y => y.seqNo == q.seqNo)).getD q
        ∃ u, exec (.passCommit t c) s = .next u ∧
         (u.cl c).plk.passes = ((rowsNow (tick t s) c).cl c).plk.passes.filter (fun y => y.seqNo != q.seqNo) ∧
         (u.cl c).plk.accSel = flipSel (s.cl c).plk.accSel (passFields f.word).allBlocks ∧
         (u.cl c).plk.fusion = f.fusion ∧ (u.cl c).plk.shape = (passFields f.word).shape ∧
         (u.cl c).cnt.passes = (s.cl c).cnt.passes + 1 ∧ (u.cl c).plk.faulted = (s.cl c).plk.faulted ∧
         (u.cl c).seq = (s.cl c).seq ∧ (u.cl c).sreg = (s.cl c).sreg ∧ (u.cl c).vec = (s.cl c).vec ∧ (u.cl c).vreg = (s.cl c).vreg ∧
         (∀ d, d ≠ c → u.cl d = s.cl d) ∧ u.mem = s.mem ∧ u.ctl = s.ctl ∧ u.spines = s.spines))) ∧
  (∀ (t : Nat) (c : Fin 64) (s : State),
     ((s.cl c).plk.checks = [] → exec (.pounceCheckDone t c) s = .next (tick t s)) ∧
     (∀ h r, (s.cl c).plk.checks = h :: r → clOn s c = true → (s.cl c).frozen = false → (s.cl c).dma = [] → (s.cl c).seq.stopPend = none →
       (s.cl c).seq.draining = false →
       ∃ u, exec (.pounceCheckDone t c) s = .next u ∧ (u.cl c).plk = { (s.cl c).plk with checks := r } ∧
         (u.cl c).cnt = { (s.cl c).cnt with pounce := (s.cl c).cnt.pounce + 1 } ∧ (u.cl c).seq = (s.cl c).seq ∧ (u.cl c).vec = (s.cl c).vec ∧
         (u.cl c).ops = (s.cl c).ops ∧ (u.cl c).bankA = (s.cl c).bankA ∧ (u.cl c).bankB = (s.cl c).bankB ∧
         (∀ d, d ≠ c → u.cl d = s.cl d) ∧ u.mem = s.mem ∧ u.slots = s.slots ∧ u.log = s.log))

/-- Tier 2. A fault found in a pass in flight that may still be tried again sets its PLK_FAULT bit and the pass's number, and abandons the pass
and the later started passes of its chain (R111, R112); after the last attempt the plank enters FAULTED and keeps only the passes before
it (R113). Results already written, the sequencer and main memory stay.
Once no pass is in flight, the abandoned passes are executed again: none stays abandoned, those that had faulted count one more
attempt, and the retry counter counts each (R112, R116, R120).
CLR_FAULTED takes the plank out of FAULTED, forgets the dropped passes, counts none as outstanding and drains the queue; where nothing is left in the other
engines the sequencer is halted at once (R113, R119). Other requesters than the cluster's control core and the scheduler core have no
effect. Choices of the model that it rests on: log entry 17. -/
def Obligations.FaultsAbandonAndRetry : Prop :=
  (∀ (t : Nat) (c : Fin 64) (seq tile : Nat) (s : State) (q : Pass) (i : Instr) (kind : Nat),
     (i, kind) ∈ [(Instr.plankResidue t c seq tile, 0), (Instr.accEcc t c seq tile, 1), (Instr.shadowParity t c seq tile, 2)] →
     (let s1 := rowsNow (tick t s) c
      let act := q.faultC kind
      (s1.cl c).plk.passes.find? (fun x => x.seqNo == seq) = some q → (s.cl c).plk.faulted = false → (s.cl c).frozen = false →
      act ≤ arrCyc (tick t s) c → (inFlight s1 c).any (fun y => y.seqNo == seq) = true → (∀ p, c ∉ (s.slot p).asg.cmap) →
      ∃ u, exec i s = .next u ∧ u.mem = s.mem ∧ u.slots = s.slots ∧ (∀ d, d ≠ c → u.cl d = s.cl d) ∧ (u.cl c).seq = (s.cl c).seq ∧
        (u.cl c).bankA = (s1.cl c).bankA ∧ (u.cl c).bankB = (s1.cl c).bankB ∧ (u.cl c).ops = (s1.cl c).ops ∧
        (u.cl c).plk.fltSeq = BitVec.ofNat 32 seq ∧ (u.cl c).plk.fltRes = ((s.cl c).plk.fltRes || kind == 0) ∧
        (u.cl c).plk.fltEcc = ((s.cl c).plk.fltEcc || kind == 1) ∧ (u.cl c).plk.fltShadow = ((s.cl c).plk.fltShadow || kind == 2) ∧
        (q.attempt < (s.cl c).plk.retryMax.toNat → (u.cl c).plk.faulted = false ∧ (u.cl c).plk.dropped = (s.cl c).plk.dropped ∧
          (u.cl c).plk.passes.map (fun y => (y.seqNo, y.aband)) = (s1.cl c).plk.passes.map (fun y => (y.seqNo,
            if seq ≤ y.seqNo ∧ y.chain = q.chain ∧ y.firstC ≤ act ∧ y.firstC ≤ rowLimit s1 c then some act else y.aband))) ∧
        ((s.cl c).plk.retryMax.toNat ≤ q.attempt → (u.cl c).plk.faulted = true ∧ (u.cl c).plk.fltExh = true ∧
          (u.cl c).plk.passes.map (fun y => y.seqNo) = ((s1.cl c).plk.passes.takeWhile (fun y => y.seqNo != seq)).map (fun y => y.seqNo) ∧
          (u.cl c).plk.dropped.length = (s.cl c).plk.dropped.length + ((s1.cl c).plk.passes.dropWhile (fun y => y.seqNo != seq)).length))) ∧
  (∀ (t : Nat) (c : Fin 64) (s : State), clOn s c = true → (s.cl c).frozen = false → (s.cl c).plk.faulted = false → (s.cl c).seq.pauseReq = false →
     (s.cl c).seq.paused = false → inFlight (tick t s) c = [] → (s.cl c).plk.passes.any (fun q => q.aband.isSome) = true →
     ∃ u, exec (.passReexecute t c) s = .next u ∧ (u.cl c).plk.passes.all (fun q => q.aband.isNone) = true ∧
       (u.cl c).plk.passes.map (fun q => (q.word, q.seqNo, q.attempt)) = (s.cl c).plk.passes.map (fun q => (q.word, q.seqNo,
         if q.aband.isSome ∧ q.kinds ≠ [] then q.attempt + 1 else q.attempt)) ∧
       (u.cl c).plk.retries = Nat.min 0xFFFF ((s.cl c).plk.retries + ((s.cl c).plk.passes.filter (fun q => q.aband.isSome)).length) ∧
       (u.cl c).seq = (s.cl c).seq ∧ (u.cl c).ops = (s.cl c).ops ∧ (u.cl c).bankA = (s.cl c).bankA ∧ (u.cl c).bankB = (s.cl c).bankB ∧
       (∀ d, d ≠ c → u.cl d = s.cl d) ∧ u.mem = s.mem ∧ u.slots = s.slots ∧ u.log = s.log) ∧
  (∀ (t : Nat) (who : Requester) (c : Fin 64) (s : State),
     (plkWriter who c = false → exec (.plkCtrlClrFaulted t who c) s = .next (tick t s)) ∧
     (plkWriter who c = true → clOn s c = true → (s.cl c).plk.faulted = true → (s.cl c).vec.jobs = [] → (s.cl c).dma = [] →
       (s.cl c).seq.paused = false → (s.cl c).seq.pauseReq = false →
       ∃ u, exec (.plkCtrlClrFaulted t who c) s = .next u ∧ (u.cl c).plk.faulted = false ∧ (u.cl c).plk.dropped = [] ∧
         (u.cl c).plk.brk = true ∧ (u.cl c).plk.passes = (s.cl c).plk.passes.map (fun q => { q with counted := false }) ∧ outP (u.cl c) = 0 ∧ (u.cl c).plk.fltSeq = (s.cl c).plk.fltSeq ∧
         (u.cl c).seq.mode = .idle ∧ (∀ d, d ≠ c → u.cl d = s.cl d) ∧ u.mem = s.mem ∧ u.slots = s.slots ∧ u.log = s.log))

/-- Tier 2. A freeze cause holds a powered cluster until it is released: a freeze of the plank and a stall of the engine each begin with the
first cause that holds that unit and end with the last, and the cycles lost are counted (R114, R121, R211, R212, R456). Choices of the model that it rests on: log entry 17. -/
def Obligations.FreezesHoldTheCluster : Prop :=
  ∀ (t : Nat) (c : Fin 64) (why : FreezeCause) (s : State), clOn s c = true →
    (let k := s.cl c
     let k1 : Cluster := { k with frz := why :: k.frz }
     let k2 : Cluster := { k with frz := k.frz.filter (· != why) }
     let n (t0 : Nat) : W64 := BitVec.ofNat 64 (cycIn s (max s.now t) - cycIn s t0)
     (k.frz.contains why = true → exec (.freezeRequest t c why) s = .next (tick t s)) ∧
     (k.frz.contains why = false → ∃ u, exec (.freezeRequest t c why) s = .next u ∧ (u.cl c).frz = why :: k.frz ∧
       (u.cl c).ops = k.ops ∧ (u.cl c).seq = k.seq ∧ (u.cl c).vec = k.vec ∧ (∀ d, d ≠ c → u.cl d = s.cl d) ∧ u.mem = s.mem ∧
       u.slots = s.slots ∧ u.log = s.log ∧
       (k.trc.freeze = false → u = (tick t s).setCl c { k1 with
         frzAt := if k1.frozen = true ∧ k.frozen = false then max s.now t else k.frzAt
         stlAt := if k1.stalled = true ∧ k.stalled = false then max s.now t else k.stlAt
         plk := { k.plk with overridden := false } })) ∧
     (k.frz.contains why = false → exec (.freezeRelease t c why) s = .next (tick t s)) ∧
     (k.frz.contains why = true → ∃ u, exec (.freezeRelease t c why) s = .next u ∧ (u.cl c).frz = k.frz.filter (· != why) ∧
       (∀ d, d ≠ c → u.cl d = s.cl d) ∧ u.mem = s.mem ∧ u.slots = s.slots ∧ u.log = s.log ∧
       (k.trc.freeze = false → (k.stalled = false ∨ k2.stalled = true ∨ k.vec.jobs = []) → u = (tick t s).setCl c { k2 with
         cnt := if k.frozen = true ∧ k2.frozen = false then { k.cnt with frozen := k.cnt.frozen + n k.frzAt } else k.cnt
         vec := if k.stalled = true ∧ k2.stalled = false then { k.vec with stall := k.vec.stall + n k.stlAt } else k.vec })))

/-- Tier 2. Each of the 37 vector operations, at the word that names it, is queued with the descriptor that its word points at, where the
engine has room and its checks pass; the engine then starts it where it is free (R125, R144, R189, R194, R195). A word that fails a check
stops the program with that reason.
CVT.SR and DROPOUT draw under the stream-table entry that their word names (R220, R539): its own tag where the consumer owns the
entry, and a salted tag, which is counted as a reuse, where it does not (R227). Without a valid entry or seed the program stops. Choices of the model that it rests on: log entries 2, 27. -/
def Obligations.VectorWordsAreQueued : Prop :=
  (∀ (t : Nat) (c : Fin 64) (s : State) (w : IWord) (i : Instr) (vop : Nat),
     (i, vop) ∈ [(Instr.add t c, 0x01), (Instr.sub t c, 0x02), (Instr.mul t c, 0x03), (Instr.fma t c, 0x04), (Instr.neg t c, 0x05),
       (Instr.abs t c, 0x06), (Instr.min t c, 0x07), (Instr.max t c, 0x08), (Instr.cmpeq t c, 0x09), (Instr.cmplt t c, 0x0A),
       (Instr.cmple t c, 0x0B), (Instr.iadd t c, 0x10), (Instr.isub t c, 0x11), (Instr.imul t c, 0x12), (Instr.mulbs t c, 0x13),
       (Instr.and t c, 0x14), (Instr.or t c, 0x15), (Instr.xor t c, 0x16), (Instr.shl t c, 0x17), (Instr.shr t c, 0x18), (Instr.sra t c, 0x19),
       (Instr.cvt t c, 0x20), (Instr.split3 t c, 0x22), (Instr.exp2 t c, 0x28), (Instr.log2 t c, 0x29), (Instr.rcp t c, 0x2A),
       (Instr.rsqrt t c, 0x2B), (Instr.redsum t c, 0x30), (Instr.redprod t c, 0x31), (Instr.redmax t c, 0x32), (Instr.redmin t c, 0x33),
       (Instr.argmax t c, 0x34), (Instr.argmin t c, 0x35), (Instr.streamsoftmax t c, 0x40), (Instr.turn t c, 0xF0)] →
     Issues s c w 2 0 → vecVop w = vop → outV (s.cl c) < 6 →
     (let s1 := rowsNow (tick t s) c
      (∀ r, vecIssueCheck (s1.cl c) w = some r → exec i s = .next (stopHere s1 c r w)) ∧
      (vecIssueCheck (s1.cl c) w = none →
       exec i s = .next (startVec (s1.setCl c (stepWord { s1.cl c with vec := { (s1.cl c).vec with
         jobs := (s1.cl c).vec.jobs ++ [{
           word := w, desc := (s1.cl c).ops.read (vecDescOff w) (if vop = 0x40 ∨ vop = 0xF0 then 64 else 128), tag := 0
           step := (s.cl c).sreg.step, start := none }] } })) c)))) ∧
  (∀ (t : Nat) (c : Fin 64) (s : State) (w : IWord) (i : Instr) (vop : Nat),
     (i, vop) ∈ [(Instr.cvtsr t c, 0x21), (Instr.dropout t c, 0x38)] → Issues s c w 2 0 → vecVop w = vop → outV (s.cl c) < 6 →
     (let s1 := rowsNow (tick t s) c
      vecIssueCheck (s1.cl c) w = none →
      (drawTag s c w = none → exec i s = .next (stopHere s1 c reasonBadVec w)) ∧
      (∀ tag, drawTag s c w = some (tag, false) → exec i s = .next (queueVec s1 c w tag)) ∧
      (∀ tag, drawTag s c w = some (tag, true) → exec i s = .next (queueVec (noteReuse s1 c (vecTag w)) c w tag) ∧
       ((noteReuse s1 c (vecTag w)).cl c).rng.reuses = (s.cl c).rng.reuses + 1 ∧
       ((noteReuse s1 c (vecTag w)).cl c).rng.reuse = true)))

/-- Tier 2. The executing vector instruction completes on a powered cluster whose engine is not stalled: its completion record, with the engine's
INDEX, is written in the operand store, VEC_STATUS names its VOP, and the counters count it (R200, R201, R214, R215). Choices of the model that it rests on: log entries 10, 15. -/
def Obligations.VectorInstructionCompletes : Prop :=
  ∀ (t : Nat) (c : Fin 64) (s : State) (j : VecJob) (rec0 : Bytes) (active sat nan : Nat), clOn s c = true → (s.cl c).stalled = false →
    (s.cl c).vec.jobs = [j] → j.start = some (rec0, active, sat, nan) → (s.cl c).dma = [] → (s.cl c).seq.stopPend = none →
    (s.cl c).seq.draining = false →
    (let s1 := rowsNow (tick t s) c
     ∃ u, exec (.vecComplete t c) s = .next u ∧
      (u.cl c).vec = { (s.cl c).vec with
        vop := BitVec.ofNat 8 (vecVop j.word), jobs := [], index := (s.cl c).vec.index + 1, done := (s.cl c).vec.done + 1, sat := (s.cl c).vec.sat + BitVec.ofNat 64 sat
        nan := (s.cl c).vec.nan + BitVec.ofNat 64 nan } ∧
      (u.cl c).ops = (s1.cl c).ops.write 32 (compAddr j.word j.desc) (patchB rec0 8 (natLe 8 (s.cl c).vec.index.toNat)) false ∧
      (u.cl c).vreg = (s.cl c).vreg ∧ (u.cl c).bankA = (s1.cl c).bankA ∧ (u.cl c).bankB = (s1.cl c).bankB ∧ (u.cl c).seq = (s.cl c).seq ∧
      (u.cl c).plk = (s1.cl c).plk ∧ (∀ d, d ≠ c → u.cl d = s.cl d) ∧ u.mem = s.mem ∧ u.log = s.log)

/-- Tier 1. A seed is written whole, or by its halves: the lower half is held for its requester, and the upper half takes effect with it and
sets SEED_VALID (R11, R229, R231, R314). A requester that may not write it changes nothing. Choices of the model that it rests on: log entry 21. -/
def Obligations.SeedsAreWrittenByHalves : Prop :=
  ∀ (t : Nat) (who : Requester) (c : Fin 64) (e : Fin 4) (val : W64) (s : State),
    (rngWriter who = false → ∀ part, exec (.rngSeed t who c part val) s = .next (tick t s)) ∧
    (rngWriter who = true → clOn s c = true →
      (∃ u, exec (.rngSeed t who c .whole val) s = .next u ∧ (u.cl c).rng = { (s.cl c).rng with seed := val, valid := true } ∧
        (∀ d, d ≠ c → u.cl d = s.cl d) ∧ u.mem = s.mem) ∧
      (∃ u, exec (.rngSeed t who c .lower val) s = .next u ∧ u.clusters = s.clusters ∧
        { addr := csrBase + 0x1000000 + c.val * 0x10000 + 0x408, who := who, val := val.setWidth 32 } ∈ u.low) ∧
      (∀ lo, s.low.find? (fun x => x.addr == csrBase + 0x1000000 + c.val * 0x10000 + 0x408 && x.who == who) = some lo →
        ∃ u, exec (.rngSeed t who c .upper val) s = .next u ∧
          (u.cl c).rng = { (s.cl c).rng with seed := (val.setWidth 32 : W32) ++ lo.val, valid := true })) ∧
    (engWriter who = true → ueOn s e = true →
      (∃ u, exec (.updSeed t who e .whole val) s = .next u ∧
        (u.ue e).regs = { (s.ue e).regs with seed := val, seedValid := true } ∧ (∀ f, f ≠ e → u.ue f = s.ue f) ∧ u.clusters = s.clusters) ∧
      (∃ u, exec (.updSeed t who e .lower val) s = .next u ∧ u.ues = s.ues))

/-- Tier 3. Device memory is memory (R17, R18, R25, R239, R243, R247, R519): after a write of bytes b at address a, every address of the
device address space reads the byte written where it lies in the written range and a region that takes it, and what it read before
everywhere else. Choices of the model that it rests on: log entry 5. -/
def Obligations.DeviceWritesChangeTheirBytes : Prop :=
  ∀ (s : State) (a : Nat) (b : Bytes) (p : Bool) (x : Nat), s.stored →
    devGet (devWrite s a b p) x = if a ≤ x ∧ x < a + b.length ∧ takes s x = true then b.getD (x - a) 0 else devGet s x

/-- Tier 2. The poison of main memory after a write (R239, R240): a granule written whole takes the poison of the write, one written in part
keeps its flag as well, and one that the write does not touch keeps its flag. -/
def Obligations.WritesCarryTheirPoison : Prop :=
  ∀ (m : Mem) (a : Nat) (b : Bytes) (p : Bool) (g : Nat), m.wf = true →
    (∀ x, a ≤ x → x < a + b.length → ∃ k, dramAt m x = .held k) → (∃ k, dramAt m (32 * g) = .held k) →
    (let m' := m.commit (wbytes a b p)
     (a ≤ 32 * g → 32 * g + 32 ≤ a + b.length → dramPoi m' (32 * g) = p) ∧
     (a + b.length ≤ 32 * g ∨ 32 * g + 32 ≤ a → dramPoi m' (32 * g) = dramPoi m (32 * g)) ∧
     (b ≠ [] → (32 * g < a ∨ a + b.length < 32 * g + 32) → a < 32 * g + 32 → 32 * g < a + b.length →
      dramPoi m' (32 * g) = (dramPoi m (32 * g) || p)))

/-- Tier 2. Reserved bytes of a cluster window (R18) read zero, and writing one changes no byte of the address space. -/
def Obligations.ReservedBytesReadZero : Prop :=
  ∀ (s : State) (c : Fin 64) (o : Nat), 0xC04000 ≤ o → o ≤ 0xFFFFFF →
    devGet s (0x400000000000 + c.val * 0x1000000 + o) = 0 ∧
    ∀ b p, s.stored → ∀ x, devGet (devWrite s (0x400000000000 + c.val * 0x1000000 + o) [b] p) x = devGet s x

/-- Tier 2. Accesses at the edge of the map (R25, R26, R464): one to an address that nothing covers is a DECODE_MISS, one that its requester may
not make is denied; either is logged, a read of it returns zeros, and nothing else changes.
MEM_READ of a granule of main memory that its requester reaches, in an ACTIVE channel, returns the stored bytes and the poison flag,
and a clean read changes no memory; MEM_WRITE of a whole granule reads nothing first and stores its bytes (R236, R239).
CSR_WRITE acts on the register at its address where its requester reaches it (R11, R464): a narrow or misaligned access, and a 64-bit
access that does not start at a 64-bit register, change nothing. Choices of the model that it rests on: log entries 8, 20. -/
def Obligations.AccessesReachTheirTarget : Prop :=
  (∀ (t : Nat) (who : Requester) (addr : Nat) (isWrite : Bool) (s : State),
     (let zeros : List Out := if isWrite then [] else [{ kind := .read, dest := 0, data := zeroB 32 }]
      (hitOf (tick t s) who addr 1 = .miss → exec (.unmappedAccess t who addr isWrite) s = .next { logMiss (tick t s) addr with out := zeros }) ∧
      (hitOf (tick t s) who addr 1 = .denied →
       exec (.deniedAccess t who addr isWrite) s = .next { logDenied (tick t s) who addr isWrite with out := zeros }))) ∧
  (∀ (t : Nat) (who : Requester) (addr x : Nat) (s : State), locOf x = .dram x → x % 32 = 0 →
     (hitOf (tick t s) who addr 1 = .ok x →
       (∀ i o g n, ownerOf s.mem x = some (i, o) → chanAt (locate o.chans (x - o.base)).1 = some (g, n) → ((s.mg g).chans.get n).state = 1) →
       exec (.memRead t who addr .clean) s = .next { tick t s with
         out := [{ kind := .read, dest := if dramPoi s.mem x then 1 else 0, data := (span x 32).map (devGet s) }] }) ∧
     (∀ data poison ecc, data.length = 32 → hitOf (tick t s) who addr 32 = .ok x →
       exec (.memWrite t who addr data poison ecc) s = .next (devWrite (tick t s) x data poison))) ∧
  (∀ (t : Nat) (who : Requester) (addr width o a : Nat) (val : W64) (s : State), locOf addr = .csr o → hitOf (tick t s) who addr 1 = .ok a →
     exec (.csrWrite t who addr width val) s = .next (csrStore (tick t s) who o width val) ∧
     (width ≠ 4 → width ≠ 8 → exec (.csrWrite t who addr width val) s = .next (tick t s)) ∧
     (o % 4 ≠ 0 → exec (.csrWrite t who addr width val) s = .next (tick t s)) ∧
     (width = 8 → (∀ r, csrReg (tick t s) o ≠ some (64, r)) → exec (.csrWrite t who addr width val) s = .next (tick t s)))

/-- Tier 2. The scrub pass reads the granules of a group in order, while SCRUB_EN is 1 or a MEM_SCRUB self-test waits for a pass (R241, R391): the
read that is next moves the pass on, and no other changes anything. A correctable granule is counted once, and one that no parity covers counts
MEM_UE, latches its address and poisons the granule (R239, R253).
A hatband flit writes its granules at its address with their poison, or is a DECODE_MISS where nothing covers the address (R25); after
eight failed retries it is delivered with every granule poisoned (R251). A clean read of an on-die store changes nothing, a corrected one is
counted, and an uncorrectable one leaves its unit poisoned with meaningless bytes (R248). Choices of the model that it rests on: log entries 5, 22, 50. -/
def Obligations.MemoryErrorsAreHandled : Prop :=
  (∀ (t : Nat) (g : Fin 8) (n : Fin 24) (off : Nat) (s : State), mgOn s g = true → (s.mg g).trained = true →
     ((s.mg g).scrubEn = true ∨ (s.mg g).tests ≠ []) → ((s.mg g).chans.get n).state = 1 →
     (scrubNext (s.mg g) n off = false → ∀ e, exec (.scrub t g n off e) s = .next (tick t s)) ∧
     (scrubNext (s.mg g) n off = true →
       exec (.scrub t g n off .clean) s =
         .next (scrubTests ((tick t s).setMg g { s.mg g with scrubAt := ((s.mg g).scrubAt + 1) % passGranules }) g) ∧
       ((s.mg g).tests = [] →
         (∃ u, exec (.scrub t g n off .correctable) s = .next u ∧ (u.mg g).ce = (s.mg g).ce + 1 ∧ (u.mg g).ue = (s.mg g).ue ∧
           (u.mg g).scrubAt = ((s.mg g).scrubAt + 1) % passGranules ∧
             u.mem.cells = s.mem.cells ∧ u.mem.poison = s.mem.poison ∧ u.mem.owners = s.mem.owners ∧ (∀ h, h ≠ g → u.mg h = s.mg h) ∧
           u.clusters = s.clusters) ∧
         (((s.mg g).pgrps.get (chanPgrp n)).enabled = false → ((s.mg g).chans.get n).ueAt = [] →
           ∃ u, exec (.scrub t g n off .uncorrectable) s = .next u ∧ (u.mg g).ue = (s.mg g).ue + 1 ∧ (u.mg g).ce = (s.mg g).ce ∧
             (u.mg g).ueChan = BitVec.ofNat 8 (24 * g.val + n.val) ∧ (u.mg g).ueOff = BitVec.ofNat 35 off ∧
             (u.mg g).ueOwner = ((s.mg g).chans.get n).owner ∧ (u.mg g).scrubAt = ((s.mg g).scrubAt + 1) % passGranules ∧
             (∀ a, chanAddr (tick t s) g n off = some a → ∃ b, b.length = 32 ∧
               u.mem.cells = (s.mem.commit (wbytes (a / 32 * 32) b true)).cells ∧ u.mem.poison = (s.mem.commit (wbytes (a / 32 * 32) b true)).poison) ∧
             (chanAddr (tick t s) g n off = none → u.mem.cells = s.mem.cells ∧ u.mem.poison = s.mem.poison ∧ u.mem.owners = s.mem.owners) ∧
             (∀ h, h ≠ g → u.mg h = s.mg h) ∧ u.clusters = s.clusters)))) ∧
  (∀ (t : Nat) (die : Fin 2) (addr : Nat) (data : Bytes) (poison : BitVec 8) (failures : Nat) (store : Store) (off : Nat) (s : State),
     (addr % 32 = 0 → data.length ≤ 256 → unmapped s addr = false → failures < 8 → exec (.hatbandFlit t die addr data poison failures) s =
       .next (devCommit (planksNow (tick t s)) (data.zipIdx.map (fun (x : Byte × Nat) =>
         ({ addr := addr + x.2, byte := x.1, poi := poison.getLsbD (x.2 / 32) } : WByte))))) ∧
     (addr % 32 = 0 → data.length ≤ 256 → unmapped s addr = true → failures < 8 →
       exec (.hatbandFlit t die addr data poison failures) s = .next (logMiss (tick t s) addr)) ∧
     (addr % 32 = 0 → data.length ≤ 256 → unmapped s addr = false → 8 ≤ failures →
       (let w := devWrite (planksNow (tick t s)) addr data true
        ∃ u, exec (.hatbandFlit t die addr data poison failures) s = .next u ∧
         u.clusters = w.clusters ∧ u.spines = w.spines ∧ u.ctl = w.ctl ∧ u.mem.cells = w.mem.cells ∧ u.mem.poison = w.mem.poison)) ∧
     (exec (.sramAccess t store off .clean) s = .next (tick t s)) ∧
     (storeOn s store = true → off < (storeSize store).1 →
       (∃ u n, exec (.sramAccess t store off .correctable) s = .next u ∧ n.val = storeNum store ∧
         u.mem.sramCe = vset s.mem.sramCe n (s.mem.sramCe.get n + 1) ∧ u.mem.cells = s.mem.cells ∧ u.mem.poison = s.mem.poison ∧
         u.clusters = s.clusters ∧ u.spines = s.spines) ∧
       (∃ u b, exec (.sramAccess t store off .uncorrectable) s = .next u ∧ b.length = (storeSize store).2 ∧
         (let w := mapStore (planksNow (tick t s)) store
            (fun m => m.write (storeSize store).2 (off / (storeSize store).2 * (storeSize store).2) b true)
          u.clusters = w.clusters ∧ u.spines = w.spines ∧ u.mem = s.mem))))

/-- Tier 2. Training decides a group (R234, R243): with a rate its channels are ACTIVE at that rate, but for those that could not be trained at it,
which have failed; without a rate the group has failed. A periodic retraining that fails is a failure of its channel: FAILED, MEM_ERR.CHAN_FAIL,
and the first failure of a protected group makes it DEGRADED (R243).
A failed channel rebuilds where training it succeeds (R244): a retry of a DEGRADED group, by REBUILD_RETRY while REBUILD_AUTO is 1,
fewer than three were made and 100 ms have passed, or by REBUILD_NOW, puts the channel and the group into REBUILD, which starts at unit 0;
REBUILD_DONE, once 4 GB/s have reached every unit, makes the channel ACTIVE and the group PROTECTED. Stored bytes stay. Choices of the model that it rests on: log entry 22. -/
def Obligations.TrainingDecidesChannels : Prop :=
  (∀ (t : Nat) (g : Fin 8) (n : Fin 24) (s : State), mgOn s g = true →
     ((s.mg g).trained = false → (s.mg g).failed = false → s.boot.stage ≠ 6 →
       (∀ r bad, bad = 0 ∨ ((∀ i : Fin 9, s.mem.owners.get i = none) ∧ ∀ m : Fin 2, ((s.mg g).pgrps.get m).enabled = false) →
         ∃ u, exec (.mgTrain t g (some (r, bad))) s = .next u ∧ (u.mg g).trained = true ∧ (u.mg g).failed = false ∧
         (u.mg g).rate = BitVec.ofNat 2 (rateCode r) ∧
         (∀ j, ((u.mg g).chans.get j).state = if bad.getLsbD j.val then 3 else 1) ∧
         (bad ≠ 0 → (u.mg g).err &&& 4 = 4) ∧ u.clusters = s.clusters) ∧
       (∃ u, exec (.mgTrain t g none) s = .next u ∧ (u.mg g).trained = false ∧ (u.mg g).failed = true ∧ (∀ h, h ≠ g → u.mg h = s.mg h) ∧
         u.clusters = s.clusters)) ∧
     (((s.mg g).chans.get n).state = 1 → exec (.periodicRetraining t g n true) s = .next (tick t s) ∧
       (((s.mg g).pgrps.get (chanPgrp n)).enabled = true → ((s.mg g).pgrps.get (chanPgrp n)).state = 0 →
         ∃ u, exec (.periodicRetraining t g n false) s = .next u ∧ ((u.mg g).chans.get n).state = 3 ∧
           ((u.mg g).pgrps.get (chanPgrp n)).state = 1 ∧ ((u.mg g).pgrps.get (chanPgrp n)).failed = BitVec.ofNat 4 (chanIdx n) ∧
           (u.mg g).err = (s.mg g).err ||| 4 ∧ (∀ h, h ≠ g → u.mg h = s.mg h) ∧
             u.mem.cells = s.mem.cells ∧ u.mem.poison = s.mem.poison ∧ u.mem.owners = s.mem.owners ∧ u.clusters = s.clusters))) ∧
  (∀ (t : Nat) (g : Fin 8) (m : Fin 2) (n : Fin 24) (s : State), mgOn s g = true → failedChan ((s.mg g).pgrps.get m) m = some n →
     (((s.mg g).pgrps.get m).enabled = true → ((s.mg g).pgrps.get m).state = 1 →
       ∀ i, (i = .rebuildRetry t g m true ∧ (s.mg g).rebuild = true ∧ ((s.mg g).pgrps.get m).retries < 3 ∧
           ((s.mg g).pgrps.get m).retryAt + 100000000 ≤ max s.now t) ∨
         (i = .memCtrlRebuildNow0 t .sched g true ∧ m = 0) ∨ (i = .memCtrlRebuildNow1 t .sched g true ∧ m = 1) →
       ∃ u, exec i s = .next u ∧ ((u.mg g).pgrps.get m).state = 2 ∧ ((u.mg g).pgrps.get m).progress u.now = 0 ∧
         ((u.mg g).pgrps.get m).since = max s.now t ∧
         ((u.mg g).pgrps.get m).failed = ((s.mg g).pgrps.get m).failed ∧ (u.mg g).chans.get n = { (s.mg g).chans.get n with state := 4 } ∧
         (∀ j, j ≠ n → (u.mg g).chans.get j = (s.mg g).chans.get j) ∧ (∀ h, h ≠ g → u.mg h = s.mg h) ∧
           u.mem.cells = s.mem.cells ∧ u.mem.poison = s.mem.poison ∧ u.mem.owners = s.mem.owners ∧
         u.clusters = s.clusters) ∧
     (((s.mg g).pgrps.get m).state = 2 → ((s.mg g).pgrps.get m).since + rebuildNs ≤ max s.now t →
       ∃ u, exec (.rebuildDone t g m) s = .next u ∧ ((u.mg g).pgrps.get m).state = 0 ∧
       ((u.mg g).pgrps.get m).retries = 0 ∧ (u.mg g).chans.get n = { (s.mg g).chans.get n with state := 1 } ∧
       (∀ h, h ≠ g → u.mg h = s.mg h) ∧
         u.mem.cells = s.mem.cells ∧ u.mem.poison = s.mem.poison ∧ u.mem.owners = s.mem.owners ∧ u.clusters = s.clusters))

/-- Tier 2. A port that its image declares trains, and enters ATTEST at the width that its good lanes allow, where its SPDM exchange begins (R269),
unless an alarm stops it, or counts a failure and is FAILED at the third (R261, R267, R268); TRAIN_RETRY tries again 100 ms after a failure. Other
ports and all memories stay. Choices of the model that it rests on: log entries 2, 23, 51. -/
def Obligations.PortsTrain : Prop :=
  ∀ (t : Nat) (p : Fin 16) (lanes : BitVec 8) (rev : Bool) (s : State) (i : Instr),
    (i = .linkTrain t p lanes rev ∧ lgOn s p = true ∧ (portDecl s p).isSome = true ∧ (s.port p).disable = false ∧ (s.port p).state = 0) ∨
    (i = .linkTrain t p lanes rev ∧ (s.port p).state = 1 ∧ (s.port p).fails = 0) ∨
    (i = .trainRetry t p lanes rev ∧ (s.port p).state = 1 ∧ 0 < (s.port p).fails ∧ (s.port p).failAt + 100000000 ≤ max s.now t) →
    ∃ u, exec i s = .next u ∧ (∀ q, q ≠ p → u.port q = s.port q ∧ u.link q = s.link q) ∧ u.clusters = s.clusters ∧ u.mem = s.mem ∧
      u.log = s.log ∧
      (laneWidth lanes ≠ 0 → (u.port p).state = 2 ∧ (u.port p).width = BitVec.ofNat 2 (laneWidth lanes) ∧ (u.port p).laneOk = lanes ∧
        (u.port p).reversed = rev ∧ (u.port p).fails = 0 ∧
        (alarmLevel s = 0 → s.link p = LinkL.reset → ∃ b, b.length = 256 ∧ u.out = [{ kind := .flit, dest := p.val, data := b }] ∧
          (u.link p).txSeq = 1 ∧ (u.link p).replay = [{ seq := 0, bytes := b }] ∧ (b.getD 6 0).toNat % 64 = 2) ∧
        (alarmLevel s ≠ 0 → u.links = s.links)) ∧
      (laneWidth lanes = 0 → (u.port p).width = 0 ∧ u.links = s.links ∧
        (u.port p).state = (if (s.port p).state = 1 ∧ 2 ≤ (s.port p).fails then 6 else 1))

/-- Tier 2. Authentication decides a port in ATTEST (R269, R270, R272, R474): the peer that the image declares brings it UP with fresh sequence
numbers and a key and salt for each direction; a failed authentication or an attestation that differs puts it into DENIED. The link bit of a
package field is no part of the ID. Choices of the model that it rests on: log entries 4, 9, 23. -/
def Obligations.AttestationDecidesThePort : Prop :=
  ∀ (t : Nat) (p : Fin 16) (r : AttestResult) (s : State) (o : Fin 8) (link : Bytes), (s.port p).state = 2 → alarmLevel (tick t s) = 0 →
    portDecl (tick t s) p = some (o, link) →
    (r.authOk = false → ∃ u, exec (.attest t p r) s = .next (authFailure u) ∧ (u.port p).state = 5 ∧ (∀ q, q ≠ p → u.port q = s.port q) ∧
      u.mem = s.mem ∧ u.clusters = s.clusters) ∧
    (r.authOk = true → (r.sameOwner = false ∨ r.domain.toNat ≠ fieldU link 8 8 ∨ pkgId r.peerPkg.toNat ≠ pkgId (fieldU link 2 2) ∨
        r.peerPort.toNat ≠ fieldU link 4 1) →
      ∃ u, exec (.attest t p r) s = .next u ∧ (u.port p).state = 5 ∧ (u.port p).peerPkg = r.peerPkg ∧ (∀ q, q ≠ p → u.port q = s.port q) ∧
        u.mem = s.mem ∧ u.clusters = s.clusters) ∧
    (r.authOk = true → r.sameOwner = true → r.domain.toNat = fieldU link 8 8 → pkgId r.peerPkg.toNat = pkgId (fieldU link 2 2) →
      r.peerPort.toNat = fieldU link 4 1 → roleOf (tick t s) o p ≠ 2 →
      ∃ u a b, exec (.attest t p r) s = .next u ∧ (u.port p).state = 3 ∧ (u.port p).peerPkg = r.peerPkg ∧ (u.port p).peerPort = r.peerPort ∧
        (u.port p).keyTx = false ∧ (u.port p).keyRx = false ∧
        u.link p = { LinkL.reset with keyAt := max s.now t, rxKeyAt := max s.now t, txKey := a, rxKey := b } ∧
        a.key.length = 32 ∧ a.salt.length = 4 ∧ b.key.length = 32 ∧ b.salt.length = 4 ∧
        (∀ q, q ≠ p → u.port q = s.port q ∧ u.link q = s.link q) ∧ u.mem = s.mem ∧ u.clusters = s.clusters ∧ u.log = s.log)

/-- Tier 2. A received flit is checked in order CRC, TYPE, tag (R266): one that fails sets its error bit and is not delivered; the flit with the
expected sequence number is counted and advances it; a repeat is only counted. Clusters and main memory never change.
A NAK makes every flit from its ACK onward leave again, in order, and drops the acknowledged ones from the replay buffer (R266, R288);
with nothing waiting for credit nothing else leaves. Choices of the model that it rests on: log entries 24, 51. -/
def Obligations.FlitsAreTakenInOrder : Prop :=
  (∀ (t : Nat) (p : Fin 16) (f : Flit) (crcOk tagOk : Bool) (s : State),
     ((s.port p).state = 2 ∨ ((s.port p).state = 3 ∧ tagOk = true) →
       ∃ u, exec (.flitReceive t p f crcOk tagOk) s = .next u ∧ u.clusters = s.clusters ∧ u.mem = s.mem ∧ u.slots = s.slots ∧
         (∀ q, q ≠ p → u.port q = s.port q ∧ u.link q = s.link q) ∧
         (crcOk = false ∨ 7 ≤ f.typ.toNat → (u.port p).err = (s.port p).err ||| 1 ∧ (u.link p).rxSeq = (s.link p).rxSeq ∧
           (u.port p).rxFlits = (s.port p).rxFlits) ∧
         (crcOk = true → f.typ.toNat < 7 →
           (f.seq % 2 ^ 48 = (s.link p).rxSeq → (u.port p).rxFlits = (s.port p).rxFlits + 1 ∧ (u.port p).keyRx = f.key ∧
             (u.link p).rxSeq = ((s.link p).rxSeq + 1) % 2 ^ 48) ∧
           (f.seq % 2 ^ 48 ≠ (s.link p).rxSeq → seqBelow f.seq (s.link p).rxSeq = true → (u.port p).dups = (s.port p).dups + 1 ∧
             u.links = s.links) ∧
           (f.seq % 2 ^ 48 ≠ (s.link p).rxSeq → seqBelow f.seq (s.link p).rxSeq = false → (u.link p).rxSeq = (s.link p).rxSeq ∧
             (u.link p).nakFor = some (s.link p).rxSeq ∧ (u.port p).rxFlits = (s.port p).rxFlits ∧ (u.port p).err = (s.port p).err))) ∧
     ((s.port p).state = 3 → crcOk = true → f.typ.toNat < 7 → tagOk = false → (s.link p).tagFails = [] →
       ∃ u, exec (.flitReceive t p f crcOk tagOk) s = .next u ∧ (u.port p).err = (s.port p).err ||| 2 ∧ (u.port p).state = 3 ∧
         (u.link p).rxSeq = (s.link p).rxSeq ∧ (u.port p).rxFlits = (s.port p).rxFlits ∧ u.clusters = s.clusters ∧ u.mem = s.mem ∧
         u.slots = s.slots)) ∧
  (∀ (t : Nat) (p : Fin 16) (ack : Nat) (s : State), (s.port p).state = 2 ∨ (s.port p).state = 3 → (s.link p).waiting = [] →
     (let again := (s.link p).replay.filter (fun x => !seqBelow x.seq ack)
      ∃ u, exec (.nak t p ack) s = .next u ∧ u.out = again.map (fun x => { kind := .flit, dest := p.val, data := x.bytes }) ∧
       (u.link p).replay = again ∧ (u.link p).txSeq = (s.link p).txSeq ∧ (u.port p).replays = (s.port p).replays + 1 ∧
       (u.port p).txFlits = (s.port p).txFlits + BitVec.ofNat 64 again.length ∧ (∀ q, q ≠ p → u.port q = s.port q ∧ u.link q = s.link q) ∧
       u.clusters = s.clusters ∧ u.mem = s.mem ∧ u.slots = s.slots))

/-- Tier 2. A retrain takes an UP port through its lanes (R267): it ends UP at a width no greater than before, or FAILED where no lanes are left.
BRM_CTRL.RETRAIN and FULL_WIDTH begin one, and RETRAIN brings a denied or failed port back to TRAIN; DISABLE holds a port OFF (R268, R287).
The transmitter of an UP port takes a new key and salt after 2^40 flits or 24 hours, toggles KEY, and keeps the old key until an ACK
covers what it sealed; the receiver's change takes a new key as well (R271). Keys are free values of the model (log entry 4). A TIME message of the
primary clock peer sets what CLK_TIME slews by, and a TIME flit goes out to that peer (R441); its bytes are free values as well. Choices of the model that it rests on: log entries 4, 23, 24. -/
def Obligations.PortsRetrainAndRekey : Prop :=
  (∀ (t : Nat) (p : Fin 16) (lanes : BitVec 8) (who : Requester) (s : State),
     ((s.port p).state = 3 → (s.port p).allLanes = false → ∃ u, exec (.retrain t p .blockLock lanes) s = .next u ∧
       (u.port p).width = BitVec.ofNat 2 (Nat.min (laneWidth lanes) (s.port p).width.toNat) ∧ (u.port p).laneOk = lanes ∧
       (Nat.min (laneWidth lanes) (s.port p).width.toNat = 0 → (u.port p).state = 6 ∧ (u.link p).replay = []) ∧
       (Nat.min (laneWidth lanes) (s.port p).width.toNat ≠ 0 → (u.port p).state = 3) ∧
       (∀ q, q ≠ p → u.port q = s.port q ∧ u.link q = s.link q) ∧ u.clusters = s.clusters ∧ u.mem = s.mem) ∧
     (brmWriter who = true → lgOn s p = true →
       ((s.port p).state = 3 →
         exec (.brmCtrlRetrain t who p) s = .next ((tick t s).setPort p { s.port p with state := 4, allLanes := false, leftUp := max s.now t }) ∧
         exec (.brmCtrlFullWidth t who p) s = .next ((tick t s).setPort p { s.port p with state := 4, allLanes := true, leftUp := max s.now t })) ∧
       ((s.port p).state = 5 ∨ (s.port p).state = 6 → ∃ u, exec (.brmCtrlRetrain t who p) s = .next u ∧ (u.port p).state = 1 ∧
         (u.port p).fails = 0 ∧ u.link p = LinkL.reset ∧ (∀ q, q ≠ p → u.port q = s.port q ∧ u.link q = s.link q) ∧ u.mem = s.mem) ∧
       (∃ u, exec (.brmCtrlDisable t who p true) s = .next u ∧ (u.port p).state = 0 ∧ (u.port p).disable = true ∧ (u.port p).width = 0 ∧
         u.link p = LinkL.reset ∧ (∀ q, q ≠ p → u.port q = s.port q ∧ u.link q = s.link q) ∧ u.mem = s.mem ∧ u.clusters = s.clusters) ∧
       (portDecl s p = none → exec (.brmCtrlDisable t who p false) s = .next ((tick t s).setPort p { s.port p with disable := false }))) ∧
     (brmWriter who = false → exec (.brmCtrlRetrain t who p) s = .next (tick t s) ∧ exec (.brmCtrlFullWidth t who p) s = .next (tick t s) ∧
       ∀ v, exec (.brmCtrlDisable t who p v) s = .next (tick t s))) ∧
  (∀ (t : Nat) (p : Fin 16) (ns : Nat) (s : State), (s.port p).state = 3 →
     (2 ^ 40 ≤ (s.link p).keyFlits ∨ (s.link p).keyAt + 86400000000000 ≤ max s.now t →
       ∃ u k, exec (.keyUpdate t p true) s = .next u ∧ k.key.length = 32 ∧ k.salt.length = 4 ∧
         u.port p = { s.port p with keyTx := !(s.port p).keyTx } ∧
         u.link p = { s.link p with
           keyFlits := 0, keyAt := max s.now t, txKey := k, oldTx := (s.link p).oldTx ++ [((s.link p).txKey, (s.link p).txSeq)] } ∧
         (∀ q, q ≠ p → u.port q = s.port q ∧ u.link q = s.link q) ∧ u.out = [] ∧ u.clusters = s.clusters ∧ u.mem = s.mem) ∧
     ((s.link p).keyFlits < 2 ^ 40 → max s.now t < (s.link p).keyAt + 86400000000000 →
       exec (.keyUpdate t p true) s = .next (tick t s)) ∧
     (∃ u k, exec (.keyUpdate t p false) s = .next u ∧ k.key.length = 32 ∧ k.salt.length = 4 ∧ u.ports = s.ports ∧
       u.link p = { s.link p with rxKeyAt := max s.now t, rxKey := k } ∧ (∀ q, q ≠ p → u.link q = s.link q) ∧ u.out = [] ∧
       u.clusters = s.clusters ∧ u.mem = s.mem) ∧
     (primaryPort s = some p →
       exec (.time t p ns) s = .next { tick t s with clk := { (tick t s).clk with slew := (ns : Int) - (tick t s).clk.time.toNat } } ∧
       ∃ u data, exec (.timeExchange t) s = .next (sendFlit u p { typ := 3, vc := 0, poison := 0, data := data }) ∧ data.length = 224 ∧
         u.links = s.links ∧ u.ports = s.ports ∧ u.clusters = s.clusters ∧ u.mem = s.mem))

/-- Tier 2. A write of COL_STEP starts the walk of an idle engine: the step, an empty flight, and the update engine of the same number in RUN
unless it is parked (R274, R290); COL_CTRL.ABORT ends the walk and keeps the contributions held. Other requesters change nothing. Choices of the model that it rests on: log entry 25. -/
def Obligations.WalksStartAndAbort : Prop :=
  ∀ (t : Nat) (who : Requester) (e : Fin 4) (val : W32) (s : State),
    (engWriter who = false → exec (.colStep t who e val) s = .next (tick t s) ∧ exec (.colCtrlAbort t who e) s = .next (tick t s) ∧
      exec (.updCtrlClrDiscord t who e) s = .next (tick t s)) ∧
    (engWriter who = true → ueOn s e = true →
      ((s.col e).state ≠ 0 → exec (.colStep t who e val) s = .next (tick t s)) ∧
      ((s.col e).state = 0 → (s.col e).held = [] → ∃ u, exec (.colStep t who e val) s = .next u ∧
        u.col e = { s.col e with
          step := val, next := 0, fly := [], past := [], dupLog := [], held := [], state := if (s.col e).count = 0 then 0 else 1 } ∧
        ((s.ue e).regs.state ≠ 3 → (u.ue e).regs = { (s.ue e).regs with state := 1 } ∧ (u.ue e).st.inbox = (s.ue e).st.inbox) ∧
        ((s.ue e).regs.state = 3 → u.ue e = s.ue e) ∧
        (∀ f, f ≠ e → u.col f = s.col f ∧ u.ue f = s.ue f) ∧ u.clusters = s.clusters ∧ u.mem = s.mem ∧ u.slots = s.slots) ∧
      exec (.colCtrlAbort t who e) s = .next ((tick t s).setCol e { s.col e with state := 0, fly := [], next := 0 }) ∧
      ((s.ue e).regs.state = 3 → exec (.updCtrlClrDiscord t who e) s = .next ((tick t s).setUe e { s.ue e with
        regs := { (s.ue e).regs with state := 0, parkStep := 0, parkGroup := 0, parkWhy := 0 } })) ∧
      ((s.ue e).regs.state ≠ 3 → exec (.updCtrlClrDiscord t who e) s = .next (tick t s)))

/-- Tier 2. The next collective of the list starts once its ready words hold the step and fewer than two are in flight (R274, R275): it joins the
flight with its own input, and, where nothing was held for it, the engine pumps what it can send.
A contribution that arrives on an UP port goes to the engine of the port's partition (R280, R282): a collective that the schedule does
not name makes it a stray, which is counted and logged; one that has not started holds it; after an abort one of the same step is dropped. Choices of the model that it rests on: log entries 25, 52. -/
def Obligations.CollectivesTakeTheirInput : Prop :=
  (∀ (t : Nat) (e : Fin 4) (s : State) (p : Fin 8) (i : Img), ueOn s e = true → (s.col e).state = 1 ∨ (s.col e).state = 2 →
     (s.col e).fly.length < 2 → (s.col e).next < (s.col e).count.toNat → enginePart s e = some (p, i) → (s.col e).held = [] →
     (let d := schedDesc s p e (s.col e).next
      readyWords s p d (s.col e).step = true →
      ∃ c, exec (.collectiveStart t e) s = .next (pumpAll ((tick t s).setCol e { s.col e with
         state := 2, next := (s.col e).next + 1, fly := (s.col e).fly ++ [c], held := [] }) p i e) ∧
       c.entry = (s.col e).next ∧ c.desc = d ∧ c.since = max s.now t ∧ c.got = [] ∧ c.sent = [] ∧ c.given = [] ∧
       c.inp = collInput (tick t s) p (geoOf i d) d)) ∧
  (∀ (t : Nat) (q : Fin 16) (h : ContribHdr) (data : Bytes) (poi : List Nat) (s : State) (o : Fin 8) (link : Bytes) (i : Img) (e : Fin 4),
     (s.port q).state = 3 → portDecl s q = some (o, link) → (s.slot o).img = some i →
     contribEngine s o i q h.collId.toNat = some e →
     ((schedIds s o e).idxOf? h.collId.toNat = none → ∃ u, exec (.contribution t q h data poi) s = .next u ∧
       u.col e = { s.col e with strays := (s.col e).strays + 1, err := (s.col e).err ||| 2 } ∧ (∀ f, f ≠ e → u.col f = s.col f) ∧
       u.mem = s.mem ∧ u.clusters = s.clusters ∧ u.ues = s.ues) ∧
     (∀ n, (schedIds s o e).idxOf? h.collId.toNat = some n →
       ((s.col e).state = 3 → h.step = (s.col e).step → exec (.contribution t q h data poi) s = .next (tick t s)) ∧
       ((s.col e).state = 3 → h.step ≠ (s.col e).step → exec (.contribution t q h data poi) s =
         .next ((tick t s).setCol e { s.col e with held := (s.col e).held ++ [{ port := q, hdr := h, data := data, poi := poi }] })) ∧
       ((s.col e).state = 1 ∨ (s.col e).state = 2 → (s.col e).fly.find? (fun x => x.entry == n) = none → (s.col e).next ≤ n →
         exec (.contribution t q h data poi) s =
           .next ((tick t s).setCol e { s.col e with held := (s.col e).held ++ [{ port := q, hdr := h, data := data, poi := poi }] })) ∧
       (∀ k, (s.col e).state = 1 ∨ (s.col e).state = 2 → (s.col e).fly.find? (fun x => x.entry == n) = some k →
         exec (.contribution t q h data poi) s = .next (pumpAll (takeContrib (tick t s) i e k q h data poi) o i e))))

/-- Tier 2. The oldest complete collective adds 1 to each semaphore that it names, where their clusters are on, and ends: counted, out of flight
(R275, R294). One that lacks contributions past its timeout aborts the walk: nothing stays in flight, COL_ERR.TIMEOUT is set (R282), and
recovery follows. Choices of the model that it rests on: log entry 25. -/
def Obligations.CollectivesEnd : Prop :=
  ∀ (t : Nat) (e : Fin 4) (s : State) (p : Fin 8) (i : Img), enginePart s e = some (p, i) →
    (∀ k, (s.col e).fly.find? (fun k => k.complete (geoOf i k.desc) (tick t s) e) = some k →
      (notifyTargets s p k.desc = [] → fieldU k.desc 9 1 % 16 ≠ 1 → ∃ u, exec (.notify t e) s = .next u ∧
        (u.col e).done = (s.col e).done + 1 ∧ (u.col e).fly = (s.col e).fly.filter (fun x => x.entry != k.entry) ∧
        (u.col e).next = (s.col e).next ∧ u.ues = s.ues ∧ u.clusters = s.clusters ∧ u.mem = s.mem ∧ u.log = s.log) ∧
      (∀ c n, notifyTargets s p k.desc = [(c, n)] → clOn s c = true → n < 32 → ∃ u, exec (.notify t e) s = .next u ∧
        (u.cl c).seq.sems = vset (s.cl c).seq.sems ⟨n % 32, Nat.mod_lt _ (by decide)⟩
          (BitVec.ofNat 16 (Nat.min (((s.cl c).seq.sems.get ⟨n % 32, Nat.mod_lt _ (by decide)⟩).toNat + 1) 0xFFFF)) ∧
        (∀ d, d ≠ c → u.cl d = s.cl d) ∧ (u.col e).done = (s.col e).done + 1 ∧ u.mem = s.mem)) ∧
    (∀ x y r, (s.col e).fly = y :: r → (s.col e).fly.find? (fun z => elapsed (tick t s).now z.since ((s.col e).timeout.toNat * 1000) &&
        (expectedKeys (geoOf i z.desc)).any (fun q => (z.msg q.1 q.2.1 q.2.2.1 q.2.2.2).isNone)) = some x →
      ∃ u, (u.col e).state = 3 ∧ (u.col e).fly = [] ∧ (u.col e).aborted = y.entry ∧ (u.col e).err = (s.col e).err ||| 8 ∧ u.mem = s.mem ∧
        u.clusters = s.clusters ∧
        (((s.slot p).twin.timedOut = false ∨ twinned s p = false) →
          exec (.collTimeout t e) s = .next (raiseRecovery (setTwin u p { (u.slot p).twin with timedOut := true }) p 3 (stepNow u p))) ∧
        ((s.slot p).twin.timedOut = true → twinned s p = true → exec (.collTimeout t e) s = .next (waitRejoin u p)))

/-- Tier 2. An update engine takes the batts of a chunk one at a time (R294 to R301): a parked engine discards the chunk and counts it, a chunk marked
DISCORD parks the engine, and otherwise the first batt is applied.
CLOSE ends the step in an engine in RUN whose collectives have all completed: its groups are closed and it is DONE; the last engine of the
partition closes the step (R308 to R310). Before that nothing happens. Choices of the model that it rests on: log entry 26. -/
def Obligations.BattsAreAppliedAndStepsClosed : Prop :=
  (∀ (t : Nat) (e : Fin 4) (s : State) (p : Fin 8) (i : Img) (c : UChunk) (r : List UChunk), enginePart s e = some (p, i) →
     (s.ue e).st.inbox = c :: r →
     ((s.ue e).regs.state = 3 → exec (.battReceive t e) s =
       .next (dropChunk ((tick t s).setUe e { s.ue e with cnt := { (s.ue e).cnt with discards := (s.ue e).cnt.discards + 1 } }) e c)) ∧
     ((s.ue e).regs.state ≠ 3 → c.checked = true → ∀ b rest, c.batts = b :: rest →
       exec (.battReceive t e) s = .next (takeBatt (tick t s) p i e c b rest)) ∧
     ((s.ue e).regs.state ≠ 3 → c.checked = false → c.discord = true → ∀ gi g, groupOf (tick t s) p e c.batt = some (gi, g) →
       exec (.battReceive t e) s = .next (parkChunk (tick t s) p e c gi 1 (fieldU (stateEntry (tick t s) p e gi) 0 4))) ∧
     ((s.ue e).regs.state ≠ 3 → c.checked = false → c.discord = false → counterFault (tick t s) p e c = none → ∀ b rest, c.batts = b :: rest →
       exec (.battReceive t e) s = .next (takeBatt (tick t s) p i e c b rest)) ∧
     ((s.ue e).regs.state ≠ 3 → c.checked = false → c.discord = false → ∀ y, counterFault (tick t s) p e c = some y →
       exec (.battReceive t e) s = .next (parkChunk (tick t s) p e c y.1 2 y.2))) ∧
  (∀ (t : Nat) (e : Fin 4) (s : State) (p : Fin 8) (i : Img), enginePart s e = some (p, i) →
     (let ready := (s.ue e).regs.state = 1 ∧ (closers (tick t s) p i e).all (fun c => (s.ue e).st.dones.contains c) = true
      (¬ ready → exec (.close t e) s = .next (tick t s)) ∧
      (ready → ∃ u v, u = closeGroups (tick t s) p e (s.col e).step ∧
         v = u.setUe e { u.ue e with regs := { (u.ue e).regs with state := 2 } } ∧ (v.ue e).regs.state = 2 ∧
         ((∀ f, f ∈ imgUes i → (v.ue f).regs.state = 2) → exec (.close t e) s = .next (closeStep v p i e (s.col e).step)) ∧
         ((∃ f, f ∈ imgUes i ∧ (v.ue f).regs.state ≠ 2) → exec (.close t e) s = .next v))))

/-- Tier 2. An accepted PAUSE, RESUME, DETACH or SELFTEST whose turn has come acts by the state of its partition (R369, R373, R380, R391): what
it answers is stored with its reply, and no other partition changes. Choices of the model that it rests on: log entries 33, 34, 35. -/
def Obligations.TicketsActOnTheirPartition : Prop :=
  ∀ (t : Nat) (p : Fin 8) (s : State) (k : Ticket) (res : Nat), serving s = true →
    (turnOf s p 2 = some k →
      ((s.slot p).st = .empty ∨ (s.slot p).st = .idle → ∃ u, exec (.pause t p) s = .next u ∧
        u.slot p = { s.slot p with led := (s.slot p).led.answered k stState 0 0 } ∧ ∀ q, q ≠ p → u.slot q = s.slot q) ∧
      (∀ r, (s.slot p).st = .paused → (s.slot p).run = some r → ∃ u, exec (.pause t p) s = .next u ∧
        u.slot p = { s.slot p with
          led := (s.slot p).led.answered k stDone 0 (if r.stage = .atB5 then lastStep s p else r.step) } ∧
        ∀ q, q ≠ p → u.slot q = s.slot q) ∧
      (∀ r, (s.slot p).st = .running → (s.slot p).run = some r → (s.slot p).pauseNum = none →
        (r.stage = .atB5 → ∃ u, exec (.pause t p) s = .next u ∧
          u.slot p = { s.slot p with st := .paused, led := (s.slot p).led.answered k stDone 0 (lastStep s p) } ∧ ∀ q, q ≠ p → u.slot q = s.slot q) ∧
        (let asked := (tick t s).setSlot p { s.slot p with pauseNum := some k.num, led := (s.slot p).led.began k.num }
         (r.stage = .atB3 → exec (.pause t p) s = .next asked) ∧
         (r.stage = .inStep → exec (.pause t p) s = .next (pauseDone ((s.slot p).asg.cmap.foldl pauseCluster asked) p))))) ∧
    (turnOf s p 3 = some k →
      ((s.slot p).st = .running → ∃ u, exec (.resume t p) s = .next u ∧
        u.slot p = { s.slot p with led := (s.slot p).led.answered k stDone 0 0 } ∧ ∀ q, q ≠ p → u.slot q = s.slot q) ∧
      (∀ r, (s.slot p).st = .paused → (s.slot p).run = some r →
        (r.stage = .inStep → exec (.resume t p) s = .next ((s.slot p).asg.cmap.foldl resumeCluster
          (setPState (answer (tick t s) p k stDone 0 0) p .running))) ∧
        (r.stage ≠ .inStep → ((s.slot p).led.queue.any (fun x => x.num == r.num && x.num != k.num)) = true →
          ∃ u, exec (.resume t p) s = .next u ∧ u.slot p = { s.slot p with
            st := .running, run := some { r with dueAt := max s.now t }, led := (s.slot p).led.answered k stDone 0 0 } ∧
          ∀ q, q ≠ p → u.slot q = s.slot q))) ∧
    (turnOf s p 8 = some k → (s.slot p).st = .idle ∨ (s.slot p).st = .paused → (s.slot p).parking = false →
      ∃ u, exec (.detach t p) s = .next u ∧ (u.slot p).st = .empty ∧ (u.slot p).img = none ∧ (u.slot p).asg = Assign.none ∧
        (u.slot p).run = none ∧ (u.slot p).led.high = (s.slot p).led.high ∧ (u.slot p).led.epoch = (s.slot p).led.epoch ∧
        u.sec.tenants.get p = none ∧ ∀ q, q ≠ p → u.slot q = s.slot q) ∧
    (turnOf s p 6 = some k → (s.slot p).st = .idle ∨ (s.slot p).st = .running → fieldU k.raw 16 1 = 2 →
      (let own := (pkgGroups (claimPkgs (slotPart s p))).find? (fun g => g.val == fieldU k.raw 17 1)
       (own = none → ∃ u, exec (.selftest t p res) s = .next u ∧ (∀ q, q ≠ p → u.slot q = s.slot q) ∧
         u.slot p = { s.slot p with led := (s.slot p).led.answered k stDenied 0 0 }) ∧
       (∀ g, own = some g →
         (mgOn s g = true → (s.mg g).trained = true → exec (.selftest t p res) s =
           .next (((tick t s).setSlot p { s.slot p with led := (s.slot p).led.began k.num }).setMg g { s.mg g with
             tests := (s.mg g).tests ++ [{ slot := p, ticket := some k.num, mgmt := none, result := res, left := passGranules }] })) ∧
         (mgOn s g = false → ∃ u, exec (.selftest t p res) s = .next u ∧ (∀ q, q ≠ p → u.slot q = s.slot q) ∧ u.slot p = { s.slot p with
           led := (s.slot p).led.answered k (katStatus res).1 (katStatus res).2 res }))))

/-- Tier 2. RUN starts an IDLE partition whose twin half may run (R369, R380): from step 0 where FROM is 0 and no handle is given, else from FROM or
the step after the last; its ticket has begun and B5 is due. CHECKPOINT opens a checkpoint of the last step, with the shard state as it
stands (R407). DUMP is armed where its AUTH is right and its tensor fits (R479, R513), and denied where its AUTH is not. Choices of the model that it rests on: log entries 34, 36, 46. -/
def Obligations.RunsCheckpointsAndDumpsBegin : Prop :=
  ∀ (t : Nat) (p : Fin 8) (s : State) (k : Ticket) (i : Img) (buddy : Option Marked), serving s = true → (s.slot p).img = some i →
    (turnOf s p 1 = some k → (s.slot p).st = .idle → s.sched.job = none → (s.slot p).twin.st = .unpaired ∨ (s.slot p).twin.st = .paired ∨
        (s.slot p).twin.st = .solo → fieldU k.raw 24 8 = 0 → noneRuns s p = true →
      (let r (step : Nat) (fresh : Bool) : Run :=
        { num := k.num, left := fieldU k.raw 16 4, step := step % 2 ^ 32, stage := .atB5, fresh := fresh, started := false
          dueAt := max s.now t, applied := false }
       let from0 := fieldU k.raw 20 4
       ∃ u, exec (.run t p buddy) s = .next u ∧ (∀ q, q ≠ p → u.slot q = s.slot q) ∧ u.slot p = { s.slot p with
        st := .running, led := (s.slot p).led.began k.num
        run := some (if from0 = 0 then r 0 true else r (if from0 = 0xFFFFFFFF then lastStep s p + 1 else from0) false) })) ∧
    (turnOf s p 1 = some k → (s.slot p).st = .idle → (s.slot p).twin.st = .fenced → ∃ u, exec (.run t p buddy) s = .next u ∧
      u.slot p = { s.slot p with led := (s.slot p).led.answered k stFailed 0x0303 (lastStep s p) } ∧ ∀ q, q ≠ p → u.slot q = s.slot q) ∧
    (turnOf s p 4 = some k → (s.slot p).st = .idle → (s.slot p).ck.stream = none → fieldU k.raw 16 1 = 1 → fieldU k.raw 24 8 < dramEnd →
      partOwns s p (fieldU k.raw 24 8) (4096 + shardSize i) = true →
      ∃ u, exec (.checkpoint t p) s = .next u ∧ (u.slot p).led = (s.slot p).led.began k.num ∧ (u.slot p).st = .idle ∧
        (u.slot p).ck.stream = some {
          ticket := some k.num, memory := some (fieldU k.raw 24 8), slot := nextSlot (s.slot p).ck, step := lastStep s p
          shard := readShard (tick t s) p i } ∧ (u.slot p).ck.slots = (s.slot p).ck.slots ∧ (∀ q, q ≠ p → u.slot q = s.slot q) ∧
        u.clusters = s.clusters ∧ u.mem = s.mem) ∧
    (turnOf s p 5 = some k →
      (sliceB k.raw 40 16 ≠ dumpAuth s p k.raw → ∃ u, exec (.dump t p) s = .next u ∧
        u.slot p = { s.slot p with led := (s.slot p).led.answered k stDenied 0 0 } ∧ ∀ q, q ≠ p → u.slot q = s.slot q) ∧
      (∀ e, sliceB k.raw 40 16 = dumpAuth s p k.raw → symEntry i (fieldU k.raw 16 8) = some e →
        fieldU k.raw 32 8 + symSize e ≤ partSize s p → partOwns s p (fieldU k.raw 32 8) (symSize e) = true →
        dumpLen s p (symSize e) ≤ (s.slot p).obs.dumpLen.toNat → (s.slot p).led.step.toNat < fieldU k.raw 24 4 → (s.slot p).obs.dump = none →
        exec (.dump t p) s = .next ((tick t s).setSlot p { s.slot p with
          led := (s.slot p).led.began k.num
          obs := { (s.slot p).obs with dump := some {
            num := k.num, entry := e, step := fieldU k.raw 24 4, dest := fieldU k.raw 32 8, taken := none } } })))

/-- Tier 2. TRACE_DRAIN copies the pending records of a cluster whose partition drains to the ring in the host range, and notes how far it has
come (R511). DUMP_DELIVER writes the container of a captured dump at DBG_DUMPOUT, answers its ticket with the container's length, and
disarms it (R515). Choices of the model that it rests on: log entry 46. -/
def Obligations.DrainsAndDumpsReachTheHost : Prop :=
  ∀ (t : Nat) (p : Fin 8) (c : Fin 64) (l : Nat) (s : State) (i : Img), (s.slot p).img = some i →
    (claimOf s c = some (p, l) → bitAt (s.slot p).obs.drain.toNat 5 = true → gateOn s 5 = true → clOn s c = true →
      (s.cl c).trc.recno.toNat = (s.cl c).trc.drained → exec (.traceDrain t c) s = .next (tick t s)) ∧
    (claimOf s c = some (p, l) → bitAt (s.slot p).obs.drain.toNat 5 = true → gateOn s 5 = true → clOn s c = true →
      (s.cl c).trc.recno.toNat = (s.cl c).trc.drained + 1 →
      ∃ u, exec (.traceDrain t c) s = .next u ∧ (u.slot p).obs.drainHd = (s.slot p).obs.drainHd + 1 ∧ (∀ q, q ≠ p → u.slot q = s.slot q) ∧
        (u.cl c).trc.drained = (s.cl c).trc.recno.toNat ∧
        u.mem = (hostWrite (tick t s) (bitsAt (s.slot p).obs.drain.toNat 12 36 * 4096 +
          32 * ((s.slot p).obs.drainHd.toNat % 2 ^ ((s.slot p).obs.drain.toNat % 32)))
          ((s.cl c).trace.read ((s.cl c).trc.drained % 512 * 32) 32)).mem) ∧
    (bitAt (s.slot p).obs.drain.toNat 5 = false → claimOf s c = some (p, l) → exec (.traceDrain t c) s = .next (tick t s)) ∧
    (∀ j data bad k, (s.slot p).obs.dump = some j → j.taken = some (data, bad) → findTicket s p j.num = some k → schedUp (tick t s) = true →
      (let b := dumpContainer s p i j data bad
       ∃ u, exec (.dumpDeliver t p) s = .next u ∧ (∀ q, q ≠ p → u.slot q = s.slot q) ∧
        u.slot p = { s.slot p with
          obs := { (s.slot p).obs with dump := none }, led := (s.slot p).led.answered k stDone 0 b.length } ∧ u.ports = s.ports ∧ u.log = s.log))

/-- Tier 2. Sampling (R366 to R379): a new ticket of the current epoch is accepted, in its number's order; one of an older epoch is rejected and
counted. CLAIM at the head of a ledger takes the new epoch at once, restarts the lease and ends PARKED. TKT_BASE_p moves a ledger that is not
claimed. A lease without a change for 200 ms lapses: the partition parks, after its step where one is in progress. Choices of the model that it rests on: log entries 33, 54. -/
def Obligations.LedgersAndLeases : Prop :=
  ∀ (t : Nat) (p : Fin 8) (s : State), (let l := (s.slot p).led; let b := ticketSlot s p l.head
    (serving s = true → (∀ q, q ≠ p → (s.slot q).led.en = false) → l.en = true → leNat (devRead s l.addr 8) = l.head + 1 →
      fieldU b 60 4 = crc32 (b.take 60) → l.queue.length < 4096 →
      l.lease = BitVec.ofNat 64 (leNat (devRead s (l.addr + 24) 8)) →
      (tkEpoch b = l.epoch.toNat → l.high.toNat < tkNum b → tkType b ≠ 7 → badArgs b = false → lapsed s p = false →
        ∃ u, exec (.ledgerSample t) s = .next u ∧ (∀ q, q ≠ p → u.slot q = s.slot q) ∧ u.slot p = { s.slot p with led := { l with
          head := l.head + 1, badReads := 0, high := BitVec.ofNat 64 (tkNum b)
          queue := l.queue ++ [{ num := tkNum b, ord := s.sched.accepted, epoch := tkEpoch b, typ := tkType b, raw := b, begun := false }]
          stored := alPut l.stored (tkNum b % 4096) (some { num := tkNum b, reply := zeroB 32, crc := fieldU b 60 4, replied := false }) } }) ∧
      (tkEpoch b < l.epoch.toNat → ∃ u, exec (.ledgerSample t) s = .next u ∧ (∀ q, q ≠ p → u.slot q = s.slot q) ∧
        u.slot p = { s.slot p with led := { l with head := l.head + 1, badReads := 0, rejects := satInc l.rejects } })) ∧
    (serving (tick t s) = false → exec (.ledgerSample t) s = .next (tick t s) ∧ exec (.claim t p) s = .next (tick t s)) ∧
    (serving s = true → l.en = true → l.head < leNat (devRead s l.addr 8) → tkType b = 7 → fieldU b 60 4 = crc32 (b.take 60) →
      l.epoch.toNat < tkEpoch b → l.high.toNat < tkNum b →
      ∃ u, exec (.claim t p) s = .next u ∧ (∀ q, q ≠ p → u.slot q = s.slot q) ∧ (u.slot p).led.epoch = BitVec.ofNat 32 (tkEpoch b) ∧
        (u.slot p).led.claimed = true ∧ (u.slot p).led.high = BitVec.ofNat 64 (tkNum b) ∧ (u.slot p).led.head = l.head + 1 ∧
        (u.slot p).led.leaseAt = max s.now t ∧ (u.slot p).parking = false ∧ (u.slot p).run = (s.slot p).run ∧
        (u.slot p).img = (s.slot p).img ∧ (u.slot p).led.queue.all (fun x => x.num != tkNum b) = true ∧
        (u.slot p).st = (if (s.slot p).st = .parked then (match (s.slot p).parkFrom with | .empty => .empty | .paused => .paused | _ => .idle)
          else (s.slot p).st)) ∧
    (∀ who val, (∀ h, who ≠ .app h) → ∀ part, exec (.tktBase t who p part val) s = .next (tick t s)) ∧
    (∀ h val, (l.claimed = true → lapsed s p = false → ∃ u, exec (.tktBase t (.app h) p .whole val) s = .next u ∧ u.slots = s.slots) ∧
      (l.claimed = false → val.getLsbD 63 = false → ∃ u, exec (.tktBase t (.app h) p .whole val) s = .next u ∧
        u.slot p = { s.slot p with led := { l with base := val &&& 0x8000FFFFFFFFF000, badReads := 0 } } ∧ ∀ q, q ≠ p → u.slot q = s.slot q)) ∧
    (serving s = true → l.en = true → l.claimed = true → lapsed s p = false → l.leaseAt + 200000000 ≤ max s.now t →
      ((s.slot p).st = .recovering → ∃ u, exec (.leaseLapsed t p) s = .next u ∧
        u.slot p = { s.slot p with parking := true, led := { l with live := false } } ∧ ∀ q, q ≠ p → u.slot q = s.slot q) ∧
      ((s.slot p).st = .idle ∨ (s.slot p).st = .empty → ∃ u, exec (.leaseLapsed t p) s = .next u ∧ (u.slot p).st = .parked ∧
        (u.slot p).parkFrom = (s.slot p).st ∧ (u.slot p).parking = false ∧ (u.slot p).run = none ∧ (u.slot p).led.live = false ∧
        (u.slot p).led.queue.all (fun x => x.begun && (x.typ == 6 || x.typ == 9)) = true ∧ ∀ q, q ≠ p → u.slot q = s.slot q)) ∧
    (l.claimed = false ∨ max s.now t < l.leaseAt + 200000000 → exec (.leaseLapsed t p) s = .next (tick t s)))

/-- Tier 2. The step boundary (R28, R380, R402, R410): DECIDE at the end of a step writes the step into LED, counts it off the RUN, and goes on to B3
and B4, to parking, to recovery, or ends a RUN whose ticket has been answered. STAGE_B5 starts the next step once the verified bound
allows it and every claimed cluster is on; with a cluster off or the bound not reached nothing starts. Choices of the model that it rests on: log entry 34. -/
def Obligations.StepsEndAndStart : Prop :=
  ∀ (t : Nat) (p : Fin 8) (s : State) (r : Run) (i : Img), (s.slot p).run = some r → (s.slot p).img = some i → schedUp (tick t s) = true →
    (r.stage ≠ .inStep → exec (.decide t p) s = .next (tick t s)) ∧
    (stepDone (tick t s) p i = false → exec (.decide t p) s = .next (tick t s)) ∧
    (r.stage = .inStep → (s.slot p).st = .running ∨ (s.slot p).st = .recovering → stepDone (tick t s) p i = true →
      ∃ u, (∀ q, q ≠ p → u.slot q = s.slot q) ∧ u.slot p = { s.slot p with
          led := { (s.slot p).led with step := BitVec.ofNat 32 r.step }, twin := { (s.slot p).twin with timedOut := false }
          run := some { r with left := r.left - 1, step := (r.step + 1) % 2 ^ 32, stage := .atB3 } } ∧
        ((s.slot p).twin.recov = true → exec (.decide t p) s = .next (setTwin u p { (u.slot p).twin with stopped := true })) ∧
        ((s.slot p).twin.recov = false → (s.slot p).parking = true → exec (.decide t p) s = .next (park u p)) ∧
        ((s.slot p).twin.recov = false → (s.slot p).parking = false → findTicket s p r.num = none →
          exec (.decide t p) s = .next (endRun u p stDone 0 .idle)) ∧
        ((s.slot p).twin.recov = false → (s.slot p).parking = false → findTicket s p r.num ≠ none →
          exec (.decide t p) s = .next (stageB3 u p r.step))) ∧
    (r.stage ≠ .atB5 ∨ (s.slot p).twin.recov = true ∨ twinLets (s.slot p).twin r.step = false →
      exec (.stageB5 t p) s = .next (tick t s)) ∧
    (r.stage = .atB5 → (s.slot p).st = .running → (s.slot p).parking = false → (s.slot p).twin.recov = false →
      twinLets (s.slot p).twin r.step = true → (s.slot p).kat.any (fun x => x.ready) = false → (s.slot p).twin.st ≠ .rebuild →
      ((∀ c, c ∈ (s.slot p).asg.cmap → clOn s c = true) →
        exec (.stageB5 t p) s = .next (startStep (wakeAtGo (tick t s) p i r.step) p i r)) ∧
      ((∃ c, c ∈ (s.slot p).asg.cmap ∧ clOn s c = false) → ∃ u, exec (.stageB5 t p) s = .next u ∧ u.clusters = s.clusters ∧
        u.slots = s.slots ∧ u.mem = s.mem ∧ u.pwr.on = s.pwr.on ∧
        ∀ c, c ∈ (s.slot p).asg.cmap → clOn s c = false → claimOf s c ≠ none → u.pwr.want.getLsbD c.val = true))

/-- Tier 2. Loads (R351 to R363): a LOAD whose turn has come, and before which no other may be carried out, is read, checked in the order of R353 and
carried out; an image without a sound header is answered FAILED with reason 1. PARTIAL_RELOAD programs the waiting image once its partition is
quiet and no alarm is on; one that an alarm has held for 1 s is answered FAILED with reason ALARM. Choices of the model that it rests on: log entries 9, 31, 32, 55. -/
def Obligations.LoadsAreCarriedOut : Prop :=
  ∀ (t : Nat) (p : Fin 8) (s : State) (k : Ticket) (v : SigVerdict) (tr : List Training),
    (loadMay (tick t s) p = false → exec (.load t p v tr) s = .next (tick t s)) ∧
    (loadMay (tick t s) p = true → turnOf s p 9 = some k → loadFirst (tick t s) p k = false →
      exec (.load t p v tr) s = .next (tick t s)) ∧
    (loadMay (tick t s) p = true → turnOf s p 9 = some k → loadFirst (tick t s) p k = true →
      exec (.load t p v tr) s = .next (afterLoad (loadTicket (tick t s) p k v tr) p) ∧
      (let b := (readImage (tick t s) (fieldU k.raw 16 8)).bytes
       (s.slot p).run = none → headerOk b = false →
        ∃ u, exec (.load t p v tr) s = .next u ∧ (∀ q, q ≠ p → u.slot q = s.slot q) ∧ u.sched.job = none ∧ u.slot p = { s.slot p with
          led := ((s.slot p).led.began k.num).answered k stFailed 0x0201 (imgIdent b) })) ∧
    (∀ j i, s.sched.job = some j → j.slot = p → j.full = false → findTicket s p j.num = some k → (s.slot p).img = some i →
      schedUp (tick t s) = true →
      ((s.slot p).st = .idle → (s.slot p).run = none → quiesced s p i = true → alarmLevel s = 0 →
        exec (.partialReload t p) s = .next (programImage (tick t s) p k j.marked)) ∧
      ((s.slot p).st = .idle → quiesced s p i = true → alarmLevel s ≠ 0 → j.waitFrom = none →
        exec (.partialReload t p) s = .next { tick t s with
          sched := { s.sched with job := some { j with waitFrom := some (max s.now t) } } }) ∧
      (∀ x, j.waitFrom = some x → alarmLevel s ≠ 0 → x + 1000000000 ≤ max s.now t → (s.slot p).run = none →
        ∃ u, exec (.loadAlarmTimeout t p) s = .next u ∧ (∀ q, q ≠ p → u.slot q = s.slot q) ∧ u.sched.job = none ∧
          u.slot p = { s.slot p with led := (s.slot p).led.answered k stFailed 0x020D (imgIdent j.image) })) ∧
    (s.sched.job = none → exec (.partialReload t p) s = .next (tick t s) ∧ exec (.loadAlarmTimeout t p) s = .next (tick t s))

/-- Tier 2. Management requests (R381 to R384, R388, R391, R507): one outside a live owner session, or while the scheduler core does not serve, has no
effect; a repeated one is answered from the cache, to its own source, or as STALE, and has no other effect; a new one is noted as its session's
highest and carried out. Choices of the model that it rests on: log entries 2, 35, 54. -/
def Obligations.RequestsAreServedOnce : Prop :=
  ∀ (t : Nat) (r : MgmtReq) (s : State) (a b c : Nat) (m : BitVec 256) (w : W64) (f : Bool) (v : SigVerdict) (d : Bytes) (i : Instr),
    i ∈ [.status t r, .logRead t r a b, .traceSet t r a m, .mgmtSelftest t r a b c w f 0, .fwBegin t r a, .fwData t r a d, .fwCommit t r v,
      .fwAbort t r, .procRestart t r a f, .cntRead t r a b c] →
    (s.sched.failed = true ∨ s.sched.sampling = false ∨ ownerSession s r.session = false → exec i s = .next (tick t s)) ∧
    (s.sched.failed = false → s.sched.sampling = true → ownerSession s r.session = true →
     (let dest := r.session * 2 ^ 48 + r.addr.toNat * 2 ^ 16 + r.port.toNat
      ∀ h, alGet s.sched.highest r.session = some h → r.reqId ≤ h →
      (∀ x, s.sched.cache.find? (fun y => y.session == r.session && y.reqId == r.reqId) = some x →
        exec i s = .next { tick t s with out := [{ kind := .mgmt, dest := dest, data := x.bytes }] }) ∧
      (s.sched.cache.find? (fun y => y.session == r.session && y.reqId == r.reqId) = none → ∃ u op, exec i s = .next u ∧
        u.out = [{ kind := .mgmt, dest := dest, data := mgmtBytes r.reqId op 9 0 [] }] ∧ u.sched = s.sched ∧ u.slots = s.slots ∧
        u.clusters = s.clusters ∧ u.mem = s.mem)) ∧
     ((∀ h, alGet s.sched.highest r.session = some h → h < r.reqId) →
      (let u : State := { tick t s with sched := { s.sched with highest := alPut s.sched.highest r.session (some r.reqId) } }
       (i = .status t r → exec i s = .next (mgmtAnswer u r 0x0001 stDone 0 (statusData u))) ∧
       (i = .logRead t r a b → 1 ≤ b → b ≤ 40 → exec i s = .next (mgmtAnswer u r 0x0002 stDone 0 (logFrom u a b))) ∧
       (∀ (k : Fin 3), i = .traceSet t r a m → a = 0x0700 + k.val → exec i s = .next (mgmtAnswer
        { u with sched := { u.sched with masks := vset u.sched.masks k m } } r 0x0003 stDone 0 [])) ∧
       (∀ (e : Fin 64), i = .traceSet t r a m → a = 0x0780 + e.val → clOn s e = true → exec i s = .next (mgmtAnswer
        (u.setCl e { u.cl e with core := { (u.cl e).core with mask := m } }) r 0x0003 stDone 0 [])) ∧
       (∀ (p : Fin 8), i = .cntRead t r a b c → a = p.val → 1 ≤ c → b + c ≤ 96 → exec i s = .next (mgmtAnswer u r 0x0030 stDone 0
        ((((s.slot p).obs.live.toList.drop b).take c).flatMap (fun x => natLe 8 x.toNat)))) ∧
       (i = .cntRead t r a b c → a = 8 → 1 ≤ c → b + c ≤ 96 → exec i s = .next (mgmtAnswer u r 0x0030 stDone 0
        (((s.gbank.toList.drop b).take c).flatMap (fun x => natLe 8 x.toNat)))) ∧
       (∀ (g : Fin 8), i = .mgmtSelftest t r a b c w f 0 → a = 2 → b = g.val → 1 ≤ c → c ≤ 65535 →
        (mgOn s g = true → (s.mg g).trained = true → exec i s = .next (u.setMg g { s.mg g with
          tests := (s.mg g).tests ++ [{ slot := 0, ticket := none, mgmt := some r, result := 0, left := passGranules }] })) ∧
        (mgOn s g = false → exec i s = .next (mgmtAnswer u r 0x0004 stDone 0 (natLe 8 0)))) ∧
       (∀ (e : Fin 64) p l, i = .mgmtSelftest t r a b c w f 0 → a = 1 → b = e.val → 1 ≤ c → c ≤ 65535 → claimOf s e = some (p, l) →
        (s.slot p).st = .running → ∃ x, exec i s = .next x ∧ (∀ q, q ≠ p → x.slot q = s.slot q) ∧ x.slot p = { s.slot p with
          kat := (s.slot p).kat ++ [{
            ticket := none, mgmt := some r, target := b, cluster := e, deadline := max s.now t + c * 1000000, allow := f
            token := tokenWindow w.toNat 1 b (stepNow s p), ready := false }] }) ∧
       (i = .fwBegin t r a → s.sched.fwTotal = none → a ≤ 0x400000 → exec i s = .next (mgmtAnswer { clearStage u with
        sched := { u.sched with fwTotal := some a, fwCommit := false } } r 0x0010 stDone 0 [])) ∧
       (∀ n, i = .fwData t r a d → s.sched.fwTotal = some n → s.sched.fwCommit = false → d.length ≤ 1024 → a + d.length ≤ n →
        exec i s = .next (mgmtAnswer { u with ctl := u.ctl.write 32 (0x400000 + a) d false } r 0x0011 stDone 0 [])) ∧
       (∀ n, i = .fwCommit t r v → s.sched.fwTotal = some n → s.sched.fwCommit = false →
        (bundleCheck (staged s n) v (fwFloor s) = 0 → exec i s = .next (mgmtAnswer (commitBundle u (staged s n)) r 0x0012 stDone 0 [])) ∧
        (bundleCheck (staged s n) v (fwFloor s) ≠ 0 →
          (let y := mgmtAnswer u r 0x0012 stFailed (0x0600 + bundleCheck (staged s n) v (fwFloor s)) []
           ∃ x, exec i s = .next x ∧ x.sched.fwTotal = none ∧ x.out = y.out ∧ x.slots = y.slots ∧ x.clusters = y.clusters ∧ x.mem = y.mem ∧
            x.sec = s.sec))) ∧
       (∀ n, i = .fwAbort t r → s.sched.fwTotal = some n → s.sched.fwCommit = false → exec i s = .next (mgmtAnswer { clearStage u with
        sched := { u.sched with fwTotal := none } } r 0x0013 stDone 0 [])) ∧
       (∀ (e : Fin 64), i = .procRestart t r a f → a = 0x0780 + e.val → exec i s =
        .next (mgmtAnswer (coreWatchdog u e f) r 0x0020 stDone 0 [])) ∧
       (i = .procRestart t r a f → a = 0x0702 → (restartSched u f).sched.failed = false → exec i s =
        .next (mgmtAnswer (restartSched u f) r 0x0020 stDone 0 [])))))

/-- Tier 2. Restarts (R154, R378, R385, R386, R389): a watchdog restarts its processor with its resident code and counts it; the third restart within 1 s,
or a lost save area, makes the processor fail. A restarted scheduler core measures every lease afresh from the end of the restart; a restarted
control core leaves its cluster HELD at its next transfer. FW_ACTIVATE makes the staged scheduler firmware resident and restarts the core. Choices of the model that it rests on: log entries 48, 54. -/
def Obligations.ProcessorsRestart : Prop :=
  ∀ (t : Nat) (bad : Bool) (c : Fin 64) (s : State),
    (s.sched.failed = true → exec (.schedulerWatchdog t bad) s = .next (tick t s)) ∧
    (s.sched.failed = false →
      (let l := recentRestarts (tick t s) s.sched.schAt
       (l.length < 3 → bad = false → ∃ u, exec (.schedulerWatchdog t bad) s = .next u ∧
        u.sched = { s.sched with
          restarts := s.sched.restarts + 1, schAt := l, schCount := s.sched.schCount + 1, restartAt := some (max s.now t)
          code := residentCode s 0x300000 } ∧ schedUp u = false ∧
        (∀ p, u.slot p = { s.slot p with led := { (s.slot p).led with leaseAt := max s.now t + 200000 } }) ∧ u.clusters = s.clusters ∧
        u.mem = s.mem) ∧
       (3 ≤ l.length ∨ bad = true → ∃ u, exec (.schedulerWatchdog t bad) s = .next u ∧ u.sched.failed = true ∧
        u.sched.restarts = s.sched.restarts + 1 ∧ u.slots = s.slots ∧ u.clusters = s.clusters ∧ u.mem = s.mem))) ∧
    ((s.cl c).core.failed = false → clOn s c = true → s.sched.fwCommit = false →
      (let l := recentRestarts (tick t s) (s.cl c).core.restarts
       let off := decide (3 ≤ l.length) || bad
       (off = false ∨ claimOf s c = none) → ∃ u, exec (.clusterWatchdog t c bad) s = .next u ∧ (∀ d, d ≠ c → u.cl d = s.cl d) ∧
        u.cl c = { s.cl c with
          seq := { (s.cl c).seq with coreRst := true }
          core := { (s.cl c).core with
            restarts := l, count := (s.cl c).core.count + 1, failed := off, code := residentCode s 0x380000 } } ∧
        u.sched.restarts = s.sched.restarts + 1 ∧ u.sched.clfail = (if off then s.sched.clfail ||| (1#64 <<< c.val) else s.sched.clfail) ∧
        u.sched.pendCl = s.sched.pendCl.filter (fun x => x != c) ∧ u.slots = s.slots ∧ u.mem = s.mem)) ∧
    ((s.cl c).core.failed = true ∨ clOn s c = false → exec (.clusterWatchdog t c bad) s = .next (tick t s)) ∧
    (s.sched.pendSch = false → exec (.fwActivate t) s = .next (tick t s)) ∧
    (s.sched.pendSch = true → s.sched.job = none → schedUp (tick t s) = true → (∀ p, (s.slot p).run = none) → s.sched.pendCl = [] →
      (recentRestarts (tick t s) s.sched.schAt).length < 3 →
      (let w := copyResident (tick t s) 0x300000 (bundleData (staged s (s.sched.fwTotal.getD 0)) 3)
       ∃ u, exec (.fwActivate t) s = .next u ∧ u.sched.pendSch = false ∧ u.sched.fwCommit = false ∧ u.sched.restarts = s.sched.restarts + 1 ∧
        (s.sched.fwCommit = true → u.sched.fwTotal = none) ∧ u.ctl = w.ctl ∧ u.sched.code = residentCode w 0x300000))

/-- Tier 2. Deferred known-answer tests and wake hints (R391, R392, R447, R448): a test whose window has opened ends with its answer; one whose time has
passed is answered BUSY with a token; SLACK opens its window for the clusters it names; WAKE_ON_POINT asks for its targets' power, and
SLEEP_ON_POINT takes the power of targets at rest. Choices of the model that it rests on: log entries 35, 54. -/
def Obligations.TestsAndHintsAct : Prop :=
  ∀ (t : Nat) (p : Fin 8) (c : Fin 64) (l n : Nat) (s : State) (e : Bytes) (i : Img),
    (∀ w m k, schedUp (tick t s) = true → claimOf s c = some (p, l) → (s.slot p).kat.find? (fun x => x.ready && x.cluster == c) = some w → (s.slot p).twin.kats = none →
      w.ticket = some m → findTicket s p m = some k → ∃ u, exec (.clusterKat t c 0) s = .next u ∧ (∀ q, q ≠ p → u.slot q = s.slot q) ∧
        u.slot p = { s.slot p with
          kat := (s.slot p).kat.filter (fun x => x != w), led := (s.slot p).led.answered k stDone 0 0 } ∧
        ((s.cl c).core.mask = 0 → u.log = s.log)) ∧
    (claimOf s c = none → exec (.clusterKat t c 0) s = .next (tick t s)) ∧
    (∀ w m k, serving s = true → (s.slot p).kat.find? (fun x => !x.ready && x.token.isNone && decide (x.deadline < max s.now t)) = some w →
      w.ticket = some m → findTicket s p m = some k → claimOf s w.cluster = some (p, l) →
      ∃ u, exec (.selftestTimeout t p) s = .next u ∧ (∀ q, q ≠ p → u.slot q = s.slot q) ∧ u.slot p = { s.slot p with
        kat := (s.slot p).kat.filter (fun x => x != w)
        led := (s.slot p).led.answered k stBusy 0 (katToken (s.slot p).img (stepNow s p) l 1 w.target) }) ∧
    (hintDue s p n 4 = some e → (s.slot p).img = some i → (s.slot p).kat = [] → ∃ u, exec (.slack t p n) s = .next u ∧
      (∀ q, q ≠ p → u.slot q = s.slot q) ∧ u.clusters = s.clusters ∧ u.pwr = s.pwr ∧
      u.slot p = { s.slot p with
        hints := (s.slot p).hints.filter (fun x => x != n)
        slack := ((List.range 64).filter (fun k => bitAt (fieldU e 8 8) k)).map (fun k => (k, max s.now t + fieldU e 4 4 * 1000)) ++
          (s.slot p).slack.filter (fun x => !((List.range 64).filter (fun k => bitAt (fieldU e 8 8) k)).contains x.1) }) ∧
    (hintDue s p n 2 = some e → ∃ u, exec (.wakeOnPoint t p n) s = .next u ∧ u.clusters = s.clusters ∧ u.pwr.on = s.pwr.on ∧
      (∀ d, d ∈ wakeTargets s p e → clOn s d = false → u.pwr.want.getLsbD d.val = true) ∧
      u.slot p = { s.slot p with hints := (s.slot p).hints.filter (fun x => x != n) } ∧ ∀ q, q ≠ p → u.slot q = s.slot q) ∧
    (hintDue s p n 3 = some e → (∀ d, d ∈ wakeTargets s p e → clOn s d = true →
        ((s.cl d).seq.mode = .done ∨ (s.cl d).seq.mode = .idle) ∧ idleUnits (s.cl d) = true ∧ (s.cl d).seq.sigOut = []) →
      ∃ u, exec (.sleepOnPoint t p n) s = .next u ∧ (∀ d, d ∈ wakeTargets s p e → clOn u d = false) ∧
        (∀ d, d ∈ wakeTargets s p e → clOn s d = true → u.cl d = Cluster.reset) ∧ (∀ d, d ∉ wakeTargets s p e → u.cl d = s.cl d) ∧
        u.slot p = { s.slot p with hints := (s.slot p).hints.filter (fun x => x != n) } ∧ ∀ q, q ≠ p → u.slot q = s.slot q) ∧
    (hintDue s p n 2 = none → exec (.wakeOnPoint t p n) s = .next (tick t s)) ∧
    (hintDue s p n 3 = none → exec (.sleepOnPoint t p n) s = .next (tick t s)) ∧
    (hintDue s p n 4 = none → exec (.slack t p n) s = .next (tick t s))

/-- Tier 2. Messages of the twin that arrive on an UP port of their role (R399 to R403, R410, R415, R416): HELLO with the same fingerprint pairs; the
first DIGEST of a step is kept, and compared once both are known; PARKED and FENCED of the partner make a paired half SOLO; REBUILD starts
the rebuild with J sixteen steps ahead; JOIN adopts the smallest J; RECOVER of a higher generation is adopted. Choices of the model that it rests on: log entry 37. -/
def Obligations.TwinMessagesAct : Prop :=
  ∀ (t : Nat) (q : Fin 16) (p : Fin 8) (s : State) (i : Img), (s.slot p).img = some i →
    (let w := (s.slot p).twin
     (onTwin s q p = false → ∀ f n v, exec (.hello t q p f) s = .next (tick t s) ∧ exec (.digest t q p n v) s = .next (tick t s) ∧
      exec (.parked t q p) s = .next (tick t s) ∧ exec (.fenced t q p) s = .next (tick t s) ∧ exec (.rebuild t q p) s = .next (tick t s)) ∧
     (onTwin s q p = true →
      (w.st = .unpaired →
        exec (.hello t q p i.finger) s = .next (logTwin ((tick t s).setSlot p { s.slot p with
          twin := { w with st := .paired, pairStep := none } }) p 0xB001 (payload [])) ∧
        ∀ f, f ≠ i.finger → exec (.hello t q p f) s = .next (logTwin (tick t s) p 0xB002 (payload []))) ∧
      (w.st = .paired → ∀ n v,
        ((digestOf w.theirs n).isSome = true → exec (.digest t q p n v) s = .next (tick t s)) ∧
        (digestOf w.theirs n = none →
          (let kept := (tick t s).setSlot p { s.slot p with twin := { w with theirs := ((n, v) :: w.theirs).take 8 } }
           (digestOf w.own n = none → exec (.digest t q p n v) s = .next kept) ∧
           (∀ d, digestOf w.own n = some d → d ≠ v → exec (.digest t q p n v) s = .next (mismatch kept p n d v)) ∧
           (digestOf w.own n = some v → w.pairStep ≠ none → exec (.digest t q p n v) s =
            .next (agreeCkpts (setTwin kept p { (kept.slot p).twin with v := advanceV w.own (((n, v) :: w.theirs).take 8) 8 w.v }) p))))) ∧
      (w.st = .paired → ∀ j, j = .parked t q p ∨ j = .fenced t q p → exec j s =
        .next (logTwin ((tick t s).setSlot p { s.slot p with twin := { w with st := .solo } }) p 0xB004 (payload []))) ∧
      (∀ r, w.st = .solo → (s.slot p).run = some r → standingJ s p = none → ∃ u, exec (.rebuild t q p) s = .next u ∧
        u.slot p = { s.slot p with twin := { w with st := .rebuild, j := some (r.step + 16) } } ∧ ∀ o, o ≠ p → u.slot o = s.slot o)) ∧
     (heardOn s q p (fun r => r == 1 || r == 4) = true → ∀ n,
      ((∃ x, standingJ s p = some x ∧ x ≤ n) → exec (.join t q p n) s = .next (tick t s)) ∧
      ((∀ x, standingJ s p = some x → n < x) → ∃ u, exec (.join t q p n) s = .next u ∧ u.slot p = { s.slot p with twin := { w with j := some n } } ∧
        ∀ o, o ≠ p → u.slot o = s.slot o)) ∧
     (heardOn s q p (fun r => r != 0) = true → ∀ why r gen tgt,
      (gen < w.gen → exec (.recover t q p why r gen tgt) s = .next (tick t s)) ∧
      (w.gen < gen → (s.slot p).run = none → ∃ u, exec (.recover t q p why r gen tgt) s = .next u ∧
        u.slot p = { s.slot p with twin := { w with gen := gen } } ∧ ∀ o, o ≠ p → u.slot o = s.slot o) ∧
      (∀ x n, w.gen < gen → (s.slot p).run = some x → x.stage = .inStep → newestBelow s p r = some n →
        ∃ u, exec (.recover t q p why r gen tgt) s = .next u ∧ (∀ o, o ≠ p → u.slot o = s.slot o) ∧ u.slot p = { s.slot p with
          st := .recovering, ck := { (s.slot p).ck with stream := none }
          twin := { w with
            recov := true, cause := BitVec.ofNat 4 why, r := r, gen := gen, target := some (Nat.min tgt n), changed := max s.now t } }) ∧
      (∀ x, gen = w.gen → w.recov = true → w.target = some x → tgt < x → ∃ u, exec (.recover t q p why r gen tgt) s = .next u ∧
        u.slot p = { s.slot p with twin := { w with target := some tgt, changed := max s.now t } } ∧ ∀ o, o ≠ p → u.slot o = s.slot o)))

/-- Tier 2. Leaving and rejoining (R403, R415, R416): TWIN_SOLO after the silence time makes a paired half SOLO; an idle fenced or new half waits to
rejoin, and asks with REBUILD while its ring ports are UP; after step J both halves are paired again, and a RUN that could not advance goes on. Choices of the model that it rests on: log entry 37. -/
def Obligations.TwinsPartAndRejoin : Prop :=
  ∀ (t : Nat) (p : Fin 8) (s : State) (i : Img), (s.slot p).img = some i →
    (let w := (s.slot p).twin
     let ns := w.silence.toNat * 1000000
     (w.st ≠ .paired → exec (.twinSolo t p) s = .next (tick t s)) ∧
     (∀ r, w.st = .paired → schedUp (tick t s) = true → (s.slot p).run = some r → r.stage = .atB5 → twinLets w r.step = false →
      r.dueAt + ns ≤ max s.now t → exec (.twinSolo t p) s =
        .next (logTwin ((tick t s).setSlot p { s.slot p with twin := { w with st := .solo } }) p 0xB004 (payload []))) ∧
     (twinned s p = true → schedUp (tick t s) = true → (s.slot p).run = none → w.st = .fenced ∨ w.st = .unpaired →
      ((ringPorts s p).any (fun q => (s.port q).state != 3) = true → exec (.waitRejoin t p) s =
        .next ((tick t s).setSlot p { s.slot p with twin := { w with st := .waitRejoin, rebuiltAt := none } })) ∧
      ((ringPorts s p).all (fun q => (s.port q).state == 3) = true → ∃ u, exec (.waitRejoin t p) s = .next u ∧
        u.slot p = { s.slot p with twin := { w with st := .waitRejoin, rebuiltAt := some (max s.now t) } } ∧
        ∀ o, o ≠ p → u.slot o = s.slot o)) ∧
     (∀ r j b, w.st = .rebuild → schedUp (tick t s) = true → (s.slot p).run = some r → w.j = some j → r.stage = .atB5 → r.step = j + 1 →
      ∃ u, exec (.twinRebuildDone t p b) s = .next u ∧ (∀ o, o ≠ p → u.slot o = s.slot o) ∧ u.slot p = { s.slot p with
        twin := { w with st := .paired, pairStep := some (j + 1), v := j, j := none, own := [], theirs := [], first := none } }) ∧
     (∀ b : Marked, w.st = .waitRejoin → schedUp (tick t s) = true → (s.slot p).run = none → fieldU b.bytes 0 4 = 0x4B43594B →
      fieldU b.bytes 16 8 = shardSize i → 4096 + shardSize i ≤ b.bytes.length → noneRuns s p = true →
      exec (.twinRebuildDone t p (some b)) s = .next (rejoin (restoreCkpt (tick t s) p i b) p (fieldU b.bytes 8 4))) ∧
     (∀ (r : Run) (b : Marked), w.st = .waitRejoin → schedUp (tick t s) = true → (s.slot p).run = some r → fieldU b.bytes 0 4 = 0x4B43594B →
      fieldU b.bytes 16 8 = shardSize i → 4096 + shardSize i ≤ b.bytes.length →
      (let j := fieldU b.bytes 8 4
       exec (.twinRebuildDone t p (some b)) s = .next (runOn (rejoin (restoreCkpt (haltClusters (tick t s) p) p i b) p j) p i r j))))

/-- Tier 2. Checkpoints of other packages and recovery (R406 to R412): the peer's answer says whether it hosts the two slots; a request of a peer is hosted
at the top of the owner range where nothing of the partition lies there; CKPT_DONE completes a stream and answers its ticket with the handle;
RESTORE waits for the stop and 10 ms of quiet, then restores the target checkpoint, or fails the RUN where it cannot be read. Choices of the model that it rests on: log entries 36, 37. -/
def Obligations.CheckpointsCloseAndRestore : Prop :=
  ∀ (t : Nat) (p : Fin 8) (q : Fin 16) (s : State) (i : Img), (s.slot p).img = some i →
    ((s.port q).state = 3 → roleOf s p q ≠ 0 → s.sched.failed = false →
      (∀ ok, buddyPort s p = some q → (s.slot p).ck.asked = false → ∃ u, exec (.buddyRequest t q p (.answered ok)) s = .next u ∧
        u.slot p = { s.slot p with ck := { (s.slot p).ck with asked := true, hosted := ok } } ∧ (∀ o, o ≠ p → u.slot o = s.slot o) ∧
        (ok = true → u.log = s.log)) ∧
      (∀ n, (let size := 2 * roundMiB n
        regionRefused s p i (partSize s p - size) size = false → exec (.buddyRequest t q p (.received n)) s =
          .next (emit ((tick t s).setSlot p { s.slot p with
            ck := { (s.slot p).ck with hosts := (s.slot p).ck.hosts ++ [(q.val, partSize s p - size, size)] } }) .bulk q.val [1])) ∧
        (regionRefused s p i (partSize s p - 2 * roundMiB n) (2 * roundMiB n) = true →
          exec (.buddyRequest t q p (.received n)) s = .next (emit (tick t s) .bulk q.val [0])))) ∧
    (∀ x a n k, schedUp (tick t s) = true → (s.slot p).ck.stream = some x → x.memory = some a → x.ticket = some n → findTicket s p n = some k →
      (s.slot p).twin.st = .unpaired → ∃ u, exec (.ckptDone t p) s = .next u ∧ (∀ o, o ≠ p → u.slot o = s.slot o) ∧
        (u.slot p).led = (s.slot p).led.answered k stDone 0 (memHandle a) ∧ (u.slot p).ck.stream = none ∧
        (u.slot p).ck.mems = (a, x.step, true) :: (s.slot p).ck.mems.filter (fun m => m.1 != a) ∧
        (u.slot p).ck.slots = (s.slot p).ck.slots) ∧
    ((s.slot p).ck.stream = none → exec (.ckptDone t p) s = .next (tick t s)) ∧
    (∀ r tgt buddy, (s.slot p).run = some r → (s.slot p).twin.target = some tgt →
      ((s.slot p).twin.recov = false ∨ max s.now t < (s.slot p).twin.changed + 10000000 → exec (.restore t p buddy) s = .next (tick t s)) ∧
      ((s.slot p).twin.recov = true → schedUp (tick t s) = true → (s.slot p).twin.stopped = true →
        (s.slot p).twin.changed + 10000000 ≤ max s.now t → lostGroups s i = [] →
        (pkgGroups (claimPkgs i.part)).all (fun g => mgOn s g && (s.mg g).trained) = true →
        (targetBytes s p i tgt buddy = none → exec (.restore t p buddy) s =
          .next (noCheckpoint (tick t s) p 2 (s.slot p).twin.r (some tgt))) ∧
        (∀ b, targetBytes s p i tgt buddy = some b → exec (.restore t p buddy) s = .next (restoreTo (tick t s) p i r tgt b))))

/-- Tier 2. Without a usable checkpoint (R412): where no checkpoint exists, or the target is not usable when read, NO_CHECKPOINT is logged, the RUN is
answered FAILED with source 3, code 1, and the partition is IDLE. -/
def Obligations.NoCheckpointFailsTheRun : Prop :=
  ∀ (t : Nat) (p : Fin 8) (s : State) (i : Img) (r : Run) (k : Ticket) (q : Fin 16) (why from0 gen tgt : Nat) (buddy : Option Marked),
    (s.slot p).img = some i → (s.slot p).run = some r → findTicket s p r.num = some k → s.boot.stage ≠ 0 →
    (let failed (j : Instr) : Prop := ∃ u b, exec j s = .next u ∧ (u.slot p).st = .idle ∧ (u.slot p).run = none ∧
      (u.slot p).led = (s.slot p).led.answered k stFailed 0x0301 (lastStep s p) ∧ (u.slot p).twin.recov = false ∧
      u.log = (logEv (tick t s) 0x0702 0xB00E p.val b).log ∧ ∀ o, o ≠ p → u.slot o = s.slot o
     (heardOn s q p (fun x => x != 0) = true → (s.slot p).twin.gen < gen → newestBelow s p from0 = none →
      (s.slot p).twin.recov = false → failed (.recover t q p why from0 gen tgt)) ∧
     (∀ x, (s.slot p).twin.target = some x → (s.slot p).twin.recov = true → schedUp (tick t s) = true → (s.slot p).twin.stopped = true →
      (s.slot p).twin.changed + 10000000 ≤ max s.now t → lostGroups s i = [] →
      (pkgGroups (claimPkgs i.part)).all (fun g => mgOn s g && (s.mg g).trained) = true → targetBytes s p i x buddy = none →
      failed (.restore t p buddy)))

/-- Tier 2. Clock switches (R434, R437 to R440, R457): a write of CLK_SEL that names the current reference does nothing, one that names a ready other one
begins a switch, and any other is refused; CLK_SWITCH completes it, at the cost that R439 gives; a reference that is lost puts its clocks into
holdover; with AUTO the first clock in holdover falls back. Choices of the model that it rests on: log entry 39. -/
def Obligations.ClocksSwitch : Prop :=
  ∀ (t : Nat) (who : Requester) (code : BitVec 2) (k : Clock) (die : Fin 2) (s : State) (i : Instr),
    (i, k) ∈ [(Instr.clkSelArr t who code, Clock.arr), (Instr.clkSelFab t who code, Clock.fab), (Instr.clkSelCtl t who code, Clock.ctl),
      (Instr.clkSelApp t who code, Clock.app)] →
    (clkWriter who = false ∨ s.clk.src.get (clockIdx k) = code → exec i s = .next (tick t s)) ∧
    (clkWriter who = true → s.clk.src.get (clockIdx k) ≠ code →
      (s.clk.switching = none → refReady s code = true →
        exec i s = .next { tick t s with clk := { (tick t s).clk with switching := some (k, code) } }) ∧
      (s.clk.switching ≠ none ∨ refReady s code = false → ∃ u, exec i s = .next u ∧ u.clk = { (tick t s).clk with refused := true } ∧
        u.pwr = s.pwr ∧ u.slots = s.slots ∧ u.clusters = s.clusters)) ∧
    (s.clk.switching = some (k, code) → refReady s code = true → s.clk.auto = false → ∃ u, exec (.clkSwitch t k) s = .next u ∧
      u.clk = { (tick t s).clk with
        switching := none, src := vset s.clk.src (clockIdx k) code, holdover := vset s.clk.holdover (clockIdx k) false
        switches := s.clk.switches + 1 } ∧ u.mem = s.mem ∧
      (k ≠ .arr → u.clusters = s.clusters) ∧ (k ≠ .ctl → u.slots = s.slots) ∧
      (k = .arr → ∀ c, clOn s c = true → (s.cl c).frz = [] → (u.cl c).cnt.frozen = (s.cl c).cnt.frozen + 48 ∧
        (u.cl c).vec.stall = (s.cl c).vec.stall + 48)) ∧
    ((∀ x, s.clk.switching = some x → x.1 ≠ k) → exec (.clkSwitch t k) s = .next (tick t s)) ∧
    (s.clk.readyP = false → exec (.refLost t .recP) s = .next (tick t s)) ∧
    (s.clk.readyP = true → s.clk.auto = false → s.clk.switching = none → ∃ u, exec (.refLost t .recP) s = .next u ∧
      u.clk.readyP = false ∧ u.clk.readyL = s.clk.readyL ∧ u.clk.readyA = s.clk.readyA ∧ u.clk.src = s.clk.src ∧
      (∀ x, u.clk.holdover.get x = (s.clk.holdover.get x || s.clk.src.get x == 1)) ∧
      u.clk.lost = (s.clk.lost || s.clk.src.toList.any (fun c => c == 1)) ∧ u.clusters = s.clusters ∧ u.slots = s.slots) ∧
    (s.clk.auto = false ∨ s.clk.switching ≠ none → exec (.clkFallbackRetry t) s = .next (tick t s)) ∧
    (s.clk.auto = true → s.clk.switching = none → s.clk.holdover.get 2 = true → s.clk.src.get 2 = 1 → refReady s 2 = true →
      exec (.clkFallbackRetry t) s = .next { tick t s with clk := { (tick t s).clk with switching := some (.ctl, 2) } }) ∧
    (∀ x, s.pwr.idleAt.get die = some x →
      (dieBusy s die = true ∨ max s.now t < x + 1000000 → exec (.arrPllStop t die) s = .next (tick t s)) ∧
      (dieBusy s die = false → x + 1000000 ≤ max s.now t → exec (.arrPllStop t die) s = .next { tick t s with
        clk := { (tick t s).clk with run := vset s.clk.run (arrRun die) false }
        pwr := { s.pwr with idleAt := vset s.pwr.idleAt die none } }))

/-- Tier 2. Power domains (R22, R331, R443 to R445, R461): a domain that is asked for comes up with its after-wake state, at most eight limited ones
within 2 µs and none of them with an invalid class; one that fails stays off and is noted; PWR_REQ asks for APP_1 or takes it down, and
PWR_APP releases harts whose domain is on. Choices of the model that it rests on: log entry 42. -/
def Obligations.DomainsPowerUpAndDown : Prop :=
  ∀ (t : Nat) (c : Fin 64) (dom : Fin 96) (who : Requester) (on : Bool) (harts : BitVec 16) (s : State),
    (domOn s dom.val = true ∨ s.pwr.want.getLsbD dom.val = false → exec (.powerUp t dom) s = .next (tick t s) ∧
      exec (.powerFault t dom) s = .next (tick t s)) ∧
    (limitedDom dom.val = true → s.clk.cool = some 3 ∨ 8 ≤ (recentStarts (tick t s)).length → exec (.powerUp t dom) s = .next (tick t s)) ∧
    (dom.val = c.val → spOn s (clDie c) = false → exec (.powerUp t dom) s = .next (tick t s)) ∧
    (dom.val = c.val → clOn s c = false → s.pwr.want.getLsbD c.val = true → s.clk.cool ≠ some 3 → (recentStarts (tick t s)).length < 8 →
      spOn s (clDie c) = true → claimOf s c = none → ∃ u, exec (.powerUp t dom) s = .next u ∧ clOn u c = true ∧
        u.cl c = { Cluster.reset with
          frz := bornFrozen s c, frzAt := max s.now t, stlAt := max s.now t
          core := { Cluster.reset.core with code := residentCode s 0x380000 } } ∧ (∀ d, d ≠ c → u.cl d = s.cl d) ∧
        u.pwr.want.getLsbD c.val = false ∧ u.mem = s.mem ∧ u.slots = s.slots) ∧
    (88 ≤ dom.val → domOn s dom.val = false → s.pwr.want.getLsbD dom.val = true →
      (∃ u, exec (.powerUp t dom) s = .next u ∧ domOn u dom.val = true ∧ u.clusters = s.clusters ∧ u.mem = s.mem ∧ u.slots = s.slots) ∧
      (∃ u, exec (.powerFault t dom) s = .next u ∧ u.pwr = { s.pwr with want := setDom s.pwr.want dom.val false, pfault := true } ∧
        u.clusters = s.clusters ∧ u.mem = s.mem ∧ u.slots = s.slots)) ∧
    (clkWriter who = false → exec (.pwrReqApp1On t who on) s = .next (tick t s)) ∧
    (clkWriter who = true →
      (domOn s 89 = false → exec (.pwrReqApp1On t who true) s = .next { tick t s with
        pwr := { s.pwr with app1 := true, want := setDom s.pwr.want 89 true } }) ∧
      (domOn s 89 = true → ∃ u, exec (.pwrReqApp1On t who false) s = .next u ∧ u.pwr.app1 = false ∧ domOn u 89 = false ∧
        u.boot.running = s.boot.running &&& 0xFF ∧ u.boot.stage = s.boot.stage ∧ u.clusters = s.clusters ∧ u.slots = s.slots)) ∧
    (∀ h, who = .app h → (let go := harts &&& ((if domOn s 88 then 0x00FE else 0) ||| (if domOn s 89 then 0xFF00 else 0))
      ∃ v, exec (.pwrAppStart t who harts) s = .next { tick t s with boot := { s.boot with running := s.boot.running ||| go, harts := v } } ∧
        ∀ n : Fin 16, v.get n = if go.getLsbD n.val = true ∧ s.boot.running.getLsbD n.val = false then
          some { pc := s.boot.load, a0 := n.val, a1 := 0, machine := true } else s.boot.harts.get n)) ∧
    (who = .pmc → exec (.pwrAppStart t who harts) s = .next (tick t s))

/-- Tier 2. Power and heat (R444, R450 to R456): each decision takes the estimate and fills or drains the bucket, and below the target it freezes nothing;
the hardware limit freezes every powered cluster and releases them in ascending number, sixteen at a time; a trip freezes the clusters of its
scope; readings are kept and change no memory. Choices of the model that it rests on: log entries 40, 41, 54. -/
def Obligations.PowerAndHeatFreezeClusters : Prop :=
  ∀ (t : Nat) (p1 : Nat) (dyn : List (Fin 64 × Nat)) (rs : List (Sensor × Int)) (x : Sensor) (v : Int) (s : State),
    (s.pwr.held = [] → s.pwr.hot = [] → p1 ≤ capMw s → ∃ u, exec (.powerDecision t p1 dyn) s = .next u ∧ u.pwr.p1 = p1 ∧
      u.pwr.bucket = Nat.min (fullBucket s) (s.pwr.bucket + capMw s - p1) ∧ u.clusters = s.clusters ∧ u.mem = s.mem ∧ u.slots = s.slots) ∧
    (∃ u, exec (.hwIlimit t) s = .next u ∧ u.pwr = { s.pwr with hwActive := true, hwLim := true } ∧ u.mem = s.mem ∧ u.slots = s.slots ∧
      (∀ c, clOn s c = true → (u.cl c).frz.contains .hwLimit = true) ∧ (∀ c, clOn s c = false → u.cl c = s.cl c)) ∧
    (((List.finRange 64).filter (fun c => clOn s c && (s.cl c).frz.contains .hwLimit)).length ≤ 16 →
      ∃ u, exec (.hwLimitRelease t) s = .next u ∧ u.pwr = { s.pwr with hwActive := false } ∧ u.slots = s.slots ∧
        (∀ c, clOn s c = true → (u.cl c).frz.contains .hwLimit = false)) ∧
    (∃ u, exec (.thermalRead t rs) s = .next u ∧ u.mem = s.mem ∧ u.slots = s.slots ∧
      u.pwr.sensors = rs.foldl (fun l y => y :: l.filter (fun z => z.1 != y.1)) s.pwr.sensors) ∧
    (v < 864 ∨ s.pwr.scopes.contains (sensorScope x) = true → exec (.thermTrip t x v) s = .next (tick t s)) ∧
    (864 ≤ v → s.pwr.scopes.contains (sensorScope x) = false → ∃ u, exec (.thermTrip t x v) s = .next u ∧
      u.pwr.scopes = sensorScope x :: s.pwr.scopes ∧ u.pwr.trip = true ∧ u.mem = s.mem ∧ u.slots = s.slots ∧
      (∀ c, clOn s c = true → tripHolds [sensorScope x] c = true → (u.cl c).frz.contains .trip = true) ∧
      (∀ c, tripHolds [sensorScope x] c = false → u.cl c = s.cl c))

/-- Tier 1. PWR_APP (R344): RUNNING reads in bits 16 to 31, all zero after reset; a START bit n from 1 to 15 releases hart n where its domain is on,
and changes nothing else; no hart is held again by it. -/
def Obligations.PwrAppReleasesHarts : Prop :=
  ∀ (t : Nat) (who : Requester) (h n : Fin 16) (v : W64) (s : State),
    (csrRead s who 0x104 4).getLsbD (16 + n.val) = s.boot.running.getLsbD n.val ∧ (csrRead s who 0x104 4).getLsbD n.val = false ∧
    csrRead State.reset who 0x104 4 = 0 ∧
    (let on : Bool := domOn s (if n.val < 8 then 88 else 89)
     let want : Bool := s.boot.running.getLsbD n.val || (v.getLsbD n.val && n.val != 0 && on)
     (∃ u, exec (.pwrAppStart t (.app h) (v.setWidth 16)) s = .next u ∧ u.boot.running.getLsbD n.val = want ∧ u.pwr = s.pwr ∧
      u.clusters = s.clusters ∧ u.mem = s.mem ∧ u.slots = s.slots) ∧
     (csrStore s (.app h) 0x104 4 v).boot.running.getLsbD n.val = want)

/-- Tier 2. Owner commands (R475 to R479): outside a live session of the role nothing happens; under an alarm a command is refused as Busy, and one that
the role may not give is refused; else SET_OWNER, AUTH_KEY, REVOKE_KEY, RAISE_FLOOR and ENABLE_RETIRE write the owner record to both copies
under the next version, and GRANT_SLOT grants an EMPTY slot. A refusal changes no record, key or grant. Choices of the model that it rests on: log entries 43, 57. -/
def Obligations.OwnerCommandsWriteTheRecord : Prop :=
  ∀ (t : Nat) (role : Role) (s : State) (b key : Bytes) (m : BitVec 8) (p : Fin 8) (n : Nat) (ok : Bool) (i : Instr) (code : Nat),
    (i, code) ∈ [(Instr.setOwner t role b ok, 1), (Instr.authKey t role key m, 2), (Instr.revokeKey t role key, 3), (Instr.grantSlot t role p key, 4),
      (Instr.raiseFloor t role n, 6), (Instr.enableRetire t role, 8)] →
    (secServes s = false ∨ hasSession s role = false → exec i s = .next (tick t s)) ∧
    (secServes s = true → hasSession s role = true → alarmLevel s ≠ 0 → exec i s = .next (refuseCmd (tick t s) code 1)) ∧
    (secServes s = true → hasSession s role = true → alarmLevel s = 0 → role ≠ .owner → (code ≠ 1 ∨ s.sec.owner ≠ none) →
      exec i s = .next (refuseCmd (tick t s) code 3)) ∧
    (secServes s = true → hasSession s role = true → alarmLevel s = 0 →
      (code = 1 → s.sec.owner = none → ownerOk b = true → exec i s = .next (cmdReply (writeOwner (tick t s) b) 1 0 [])) ∧
      (code = 1 → role = .owner → s.sec.owner ≠ none → ownerOk b = true → ok = true →
        exec i s = .next (cmdReply (writeOwner (tick t s) b) 1 0 [])) ∧
      (∀ r, role = .owner → s.sec.owner = some r →
        (∀ e, keyEntry r key = some e →
          (code = 2 → exec i s = .next (cmdReply (writeOwner (tick t s) (patchB r (176 + 64 * e) (keyBytes key m))) 2 0 [])) ∧
          (code = 3 → ∃ u, exec i s = .next u ∧ u.sec.flash.rpmc1 = s.sec.flash.rpmc1 + 1 ∧
            u.sec.flash.ownerA = u.sec.owner.map ownerRecord ∧ u.sec.flash.ownerB = u.sec.flash.ownerA ∧ u.mem = s.mem ∧ u.clusters = s.clusters ∧ u.slots = s.slots)) ∧
        (keyEntry r key = none → code = 3 → exec i s = .next (cmdReply (tick t s) 3 0 [])) ∧
        (keyEntry r key = none → code = 2 → fieldU r 13 1 < 32 → exec i s = .next (cmdReply (writeOwner (tick t s)
          (patchB (patchB r (176 + 64 * fieldU r 13 1) (keyBytes key m)) 13 (natLe 1 (fieldU r 13 1 + 1)))) 2 0 [])) ∧
        (code = 6 → fieldU r 8 4 < n → n < 2 ^ 32 → exec i s = .next (cmdReply (writeOwner (tick t s) (patchB r 8 (natLe 4 n))) 6 0 [])) ∧
        (code = 6 → n ≤ fieldU r 8 4 → exec i s = .next (refuseCmd (tick t s) 6 3)) ∧
        (code = 8 → bitAt (fieldU r 12 1) 1 = false → exec i s =
          .next (cmdReply (writeOwner (tick t s) (patchB r 12 (natLe 1 (fieldU r 12 1 + 2)))) 8 0 []))) ∧
      (code = 4 → role = .owner → (s.slot p).st = .empty → exec i s = .next (cmdReply { tick t s with
        sec := { s.sec with grants := vset s.sec.grants p (some (sliceB key 0 48)) } } 4 0 []))) ∧
    (let r := patchB b 4 (natLe 4 (s.sec.flash.rpmc1 + 1).toNat)
     (writeOwner (tick t s) b).sec.owner = some r ∧ (writeOwner (tick t s) b).sec.flash.ownerA = some (ownerRecord r)) ∧
    (writeOwner (tick t s) b).sec.flash.ownerB = (writeOwner (tick t s) b).sec.flash.ownerA ∧
    (writeOwner (tick t s) b).sec.flash.rpmc1 = s.sec.flash.rpmc1 + 1

/-- Tier 1. The key of an image (R477): the loader's check passes only where an entry of the accepted owner record holds the image's key digest with the
bit of the partition set; a key whose entries are all without bits passes for no partition. -/
def Obligations.KeysAreAuthorisedPerPartition : Prop :=
  ∀ (s : State) (p : Fin 8) (key : Bytes),
    (keyAuthorised s p key = true → ∃ r i, s.sec.owner = some r ∧ i < fieldU r 13 1 ∧ i < 32 ∧ sliceB r (176 + 64 * i) 48 = key ∧
      bitAt (fieldU r (176 + 64 * i + 48) 1) p.val = true) ∧
    (∀ r, s.sec.owner = some r → (∀ i, i < fieldU r 13 1 → sliceB r (176 + 64 * i) 48 = key → fieldU r (176 + 64 * i + 48) 1 = 0) →
      keyAuthorised s p key = false)

/-- Tier 2. Tenants, tokens and sessions (R468 to R474, R478, R480, R481): BIND_TENANT binds a granted EMPTY slot to the keys of the exchange; an
accepted token opens debug for its life under a new nonce, any other is an authentication failure; a token whose life has ended closes; PQ_SIG
signs once, for the signed response before it; the SPDM requests answer, open or end sessions, and GET_CERTIFICATE reads the chain of slot 0.
Signatures and nonces are free values of the model (log entry 4). Choices of the model that it rests on: log entries 4, 9, 43, 54, 56. -/
def Obligations.SessionsAndTokens : Prop :=
  ∀ (t : Nat) (s : State) (p : Fin 8) (role : Role) (k : Token) (dg key req qd ct s1 s2 pub : Bytes) (ok : Bool), secServes s = true →
    (s.sec.sessions ≠ [] → alarmLevel s = 0 → s.sec.grants.get p = some (sliceB key 0 48) → (s.slot p).st = .empty → s.sec.bak = true →
      s.sec.bakUsed < bakLimit → ∃ u sig, exec (.bindTenant t key p req qd ct s1 s2 pub) s = .next u ∧
        u.sec.tenants = vset s.sec.tenants p (some (tenantOf key req qd ct s1 s2 pub)) ∧ u.sec.bakUsed = s.sec.bakUsed + 1 ∧
        u.out = [{ kind := .spdm, dest := 0, data := natLe 1 5 ++ (qd ++ ct ++ sig) }] ∧ sig.length = 96 ∧
        u.sec.flash = s.sec.flash ∧ u.sec.sessions = s.sec.sessions ∧ u.slots = s.slots ∧ u.mem = s.mem) ∧
    (s.sec.sessions ≠ [] → alarmLevel s = 0 → s.sec.grants.get p ≠ some (sliceB key 0 48) →
      exec (.bindTenant t key p req qd ct s1 s2 pub) s = .next (refuseCmd (tick t s) 5 3)) ∧
    (alarmLevel s = 0 → tokenOk s k ok = true →
      (let opened (u : State) : Prop := u.sec.dbg = s.sec.dbg ++ [{
          slot := if k.issuer = 2 then tokenSlot k else none, scope := k.scope.setWidth 4, endAt := max s.now t + k.life * 1000000000 }] ∧
        u.sec.meas14 = extend s.sec.meas14 (sliceB dg 0 48) ∧ u.clk.en = s.clk.en ||| 0x40 ∧
        u.sec.nonce = (newNonce (tick t s)).sec.nonce ∧ u.sec.flash = s.sec.flash ∧
        u.slots = s.slots ∧ u.mem = s.mem ∧ u.clusters = s.clusters
       (∃ u, exec (.tokenLoad t k dg ok) s = .next u ∧ opened u) ∧
       (hasSession s role = true → role ≠ .relying → ∃ u, exec (.debugOpen t role k dg ok) s = .next u ∧ opened u))) ∧
    (alarmLevel s = 0 → tokenOk s k ok = false →
      (let failed := authFailure (logEv (tick t s) 0x0700 0x900A 15 (payload []))
       exec (.tokenLoad t k dg ok) s = .next failed ∧
       (hasSession s role = true → role ≠ .relying → exec (.debugOpen t role k dg ok) s = .next (cmdReply failed 7 3 [])))) ∧
    (alarmLevel s ≠ 0 → exec (.tokenLoad t k dg ok) s = .next (tick t s)) ∧
    (∃ u, exec (.debugClose t) s = .next u ∧ u.sec.dbg = s.sec.dbg.filter (fun d => !decide (d.endAt ≤ max s.now t)) ∧
      u.sec.flash = s.sec.flash ∧ u.slots = s.slots ∧ u.mem = s.mem) ∧
    (∀ x, s.sec.sessions.find? (fun y => y.role == role && y.signed) = some x → alarmLevel s = 0 → ∃ u f, exec (.pqSig t role) s = .next u ∧
      u.sec.sessions = s.sec.sessions.map (fun y => if y.id = x.id then { y with signed := false } else y) ∧
      u.out = [{ kind := .spdm, dest := 0, data := natLe 1 9 ++ (List.range 96).map (Config.responseByte f) }] ∧ u.slots = s.slots) ∧
    (∀ via, spdmReaches s via = false → ∀ n m, exec (.spdmMessage t via n m) s = .next (tick t s)) ∧
    (∀ via, spdmReaches s via = true →
      (∀ n m, s.sec.sessions.any (fun x => x.id == n) = false →
        exec (.spdmMessage t via (some n) m) s = .next (authFailure (spdmHeard (tick t s) (some n)))) ∧
      (∀ n, s.sec.sessions.any (fun x => x.id == n) = true →
        (∃ u, exec (.spdmMessage t via (some n) .endSession) s = .next u ∧ u.sec.sessions = s.sec.sessions.filter (fun x => x.id != n) ∧
          u.slots = s.slots ∧ u.mem = s.mem) ∧
        (alarmLevel s = 0 → s.sec.bak = true → s.sec.bakUsed < bakLimit → ∃ u, exec (.spdmMessage t via (some n) .challenge) s = .next u ∧
          u.sec.bakUsed = s.sec.bakUsed + 1 ∧
          u.sec.sessions = s.sec.sessions.map (fun y => if y.id = n then { y with signed := true } else y) ∧ u.slots = s.slots ∧ u.mem = s.mem) ∧
        (∃ u, exec (.spdmMessage t via (some n) .other) s = .next u ∧
          u.sec.sessions = s.sec.sessions.map (fun y => if y.id = n then { y with signed := false } else y) ∧ u.slots = s.slots ∧
          u.mem = s.mem)) ∧
      (s.sec.sessions.length < 16 → alarmLevel s = 0 → s.sec.bak = true → s.sec.bakUsed < bakLimit → ∀ want,
        ∃ u kt kr, exec (.spdmMessage t via none (.keyExchange want true true)) s = .next u ∧ u.sec.nextSess = s.sec.nextSess + 1 ∧
          u.sec.sessions = s.sec.sessions ++
            [{ id := s.sec.nextSess, role := roleFor s want, port := via, signed := true, txKey := kt, rxKey := kr }] ∧
          kt.key.length = 32 ∧ kt.salt.length = 4 ∧ kr.key.length = 32 ∧ kr.salt.length = 4 ∧
          u.sec.bakUsed = s.sec.bakUsed + 1 ∧ u.slots = s.slots ∧ u.mem = s.mem) ∧
      (∀ off len, exec (.spdmMessage t via none (.getCertificate 0 off len)) s =
        .next (spdmSend (spdmHeard (tick t s) none) via (chainPortion s off len))) ∧
      (∀ m, mayMeasure .relying m = false → exec (.spdmMessage t via none (.getMeasurements m)) s =
        .next (spdmError (spdmHeard (tick t s) none) via 5)) ∧
      (∀ m, mayMeasure .relying m = true → alarmLevel s = 0 → s.sec.bak = true → s.sec.bakUsed < bakLimit →
        ∃ u, exec (.spdmMessage t via none (.getMeasurements m)) s = .next u ∧ u.sec.bakUsed = s.sec.bakUsed + 1 ∧
          u.sec.sessions = s.sec.sessions ∧ u.slots = s.slots ∧ u.mem = s.mem))

/-- Tier 2. Alarms and resets (R26, R318, R341, R482, R483, R488, R520): a sensor raises an alarm at its level; a level-1 alarm erases nothing and
ends after its time; SEC_ZEROISE is the security core's, and a denied access of any other requester; level 3 zeroises every owner range and
stops sampling. A cold reset, a reset input and a loss of power leave every register at its reset value and keep the flash; the meter die keeps
its state but for a loss of power. Choices of the model that it rests on: log entries 41, 44. -/
def Obligations.AlarmsAndResets : Prop :=
  ∀ (t : Nat) (x : Fin 6) (who : Requester) (l : BitVec 3) (a b : Bool) (s : State),
    (domOn s 92 = true → tripLevel (tick t s) (x.val + 1) ≠ 0 →
      exec (.alarm t x) s = .next (raiseAlarm (tick t s) (x.val + 1) (tripLevel (tick t s) (x.val + 1)))) ∧
    (domOn s 92 = false ∨ tripLevel (tick t s) (x.val + 1) = 0 → exec (.alarm t x) s = .next (tick t s)) ∧
    (x.val ≠ 4 → domOn s 92 = true → cfgLevel s (x.val + 1) = 1 → ∃ u, exec (.alarm t x) s = .next u ∧
      u.sec.alarms = { sensor := x.val + 1, level := 1, since := max s.now t } :: s.sec.alarms ∧ u.sec.dbg = [] ∧
      u.sec.highest = Nat.max s.sec.highest 1 ∧ u.sec.sessions = s.sec.sessions ∧ u.slots = s.slots ∧ u.mem = s.mem ∧ u.clusters = s.clusters) ∧
    (who = .sec ∨ who = .loader →
      (l.toNat = 0 ∨ 3 < l.toNat → exec (.secZeroise t who l) s = .next (tick t s)) ∧
      (1 ≤ l.toNat → l.toNat ≤ 3 → exec (.secZeroise t who l) s = .next (raiseAlarm (tick t s) 0 l.toNat))) ∧
    (who ≠ .sec → who ≠ .loader → exec (.secZeroise t who l) s = .next (logDenied (tick t s) who 0x7F000500000C true)) ∧
    (∃ u, exec (.secZeroise t .sec 3) s = .next u ∧ u.sec.sessions = [] ∧ u.sec.grants = Vector.replicate 8 none ∧
      u.sec.tenants = Vector.replicate 8 none ∧ u.sec.bak = false ∧ u.sec.zdone = true ∧ u.sched.sampling = false ∧ u.sec.flash = s.sec.flash ∧
      (s.sched.job = none → ∀ o w, u.mem.owners.get o = some w → w.key = none) ∧
      (s.sched.pendCl = [] → s.sched.job = none → ∀ p, (u.slot p).img = none ∧
        (u.slot p).st = (if (s.slot p).parking = true ∨ (s.slot p).st = .parked then .parked else .empty)) ∧
      (s.sched.pendCl = [] → s.sched.job = none → ∀ c, clOn s c = true → (u.cl c).vreg = Sram.empty ∧ (u.cl c).seq.mode = .idle)) ∧
    (s.sec.alarms ≠ [] → s.sec.alarms.all (fun a => a.level == 1 && a.sensor != 3 && decide (a.since + 1000000000 ≤ max s.now t)) = true →
      s.sec.authAt = [] → s.boot.stage ≠ 2 → s.boot.stage ≠ 6 → s.sched.job = none →
      exec (.alarmEnd t) s = .next { tick t s with sec := { s.sec with alarms := [] } }) ∧
    (s.sec.alarms = [] → exec (.alarmEnd t) s = .next (tick t s)) ∧
    (∃ u, exec (.coldReset t) s = .next u ∧ u.now = 0 ∧ u.pending = s.pending ∧ u.sec = Sec.reset s.sec.flash ∧ u.mem = Mem.reset ∧
      u.boot = Boot.reset ∧ u.pwr = Pwr.reset ∧ u.clk = Clk.reset ∧ u.sched = Sched.reset ∧ u.log = Log.reset ∧ u.low = [] ∧
      (∀ c, u.cl c = Cluster.reset) ∧ (∀ p, u.slot p = Slot.reset) ∧ (∀ q, u.port q = Port.reset ∧ u.link q = LinkL.reset) ∧
      (∀ e, u.col e = Col.reset ∧ u.ue e = Ue.reset) ∧ u.meter.win = MeterWin.reset ∧ u.meter.die.seq = s.meter.die.seq ∧
      u.meter.die.powered = s.meter.die.powered) ∧
    ((a && b) = false → ∃ u, exec (.pgoodOrResetNLow t a b) s = .next u ∧ u.boot = { Boot.reset with pgood := a, resetN := b } ∧
      u.now = max s.now t ∧ u.sec = Sec.reset s.sec.flash ∧ u.mem = Mem.reset ∧ u.pwr = Pwr.reset ∧ (∀ c, u.cl c = Cluster.reset) ∧
      u.meter.die = { s.meter.die with sent := [] }) ∧
    (exec (.pgoodOrResetNLow t true true) s = .next (tick t s)) ∧
    (∃ u, exec (.powerLoss t) s = .next u ∧ u.boot = { Boot.reset with pgood := false, resetN := false } ∧ u.sec = Sec.reset s.sec.flash ∧
      u.mem = Mem.reset ∧ (∀ c, u.cl c = Cluster.reset) ∧ u.meter.die = { MeterDie.made with seq := s.meter.die.seq })

/-- Tier 2. Start-up (R319 to R324, R331, R339 to R341, R361, R476): the straps are latched once; the identity is checked and stage 3 begins, or the
boot fails with its code; DHCP and TFTP fetch the bundle block by block, with a retry after each failure; BOOT_DONE releases hart 0. Choices of the model that it rests on: log entries 9, 47, 53. -/
def Obligations.StartUpFetchesTheBundle : Prop :=
  ∀ (t : Nat) (cool : BitVec 2) (r : IdentResult) (s : State) (ip : BitVec 32) (server : DhcpServer) (file data : Bytes) (n : Nat) (v : SigVerdict),
    (s.boot.stage ≠ 0 ∨ s.boot.pgood = false ∨ s.boot.resetN = false → exec (.strapLatch t cool) s = .next (tick t s)) ∧
    (s.boot.stage = 0 → s.boot.pgood = true → s.boot.resetN = true → ∃ u, exec (.strapLatch t cool) s = .next u ∧ u.boot.stage = 1 ∧
      u.boot.cool = cool ∧ u.clk.cool = some cool ∧ u.pwr.bucket = bucketCap cool ∧ domOn u 92 = true ∧ domOn u 94 = true ∧
      u.mem = s.mem ∧ u.clusters = s.clusters ∧ u.slots = s.slots ∧ u.sec = s.sec) ∧
    (s.boot.stage ≠ 1 → exec (.ctlPllLock t r) s = .next (tick t s)) ∧
    (s.boot.stage = 1 →
      (r.flashOk = false → ∃ u, exec (.ctlPllLock t r) s = .next u ∧ u.boot.stage = 15 ∧ u.boot.fail = 1 ∧ u.sec = s.sec ∧
        u.clk.readyL = true) ∧
      (r = ⟨true, true, true, true, true, true⟩ → s.sec.flash.marker = true → s.sec.flash.helperA = true → s.sec.flash.rpmc0.toNat < 32768 →
        partOk s.sec.flash.part true true = true → s.sec.alarms = [] → ∃ u, exec (.ctlPllLock t r) s = .next u ∧ u.boot.stage = 3 ∧
          domOn u 91 = true ∧ u.sec.bootC = s.sec.flash.rpmc0.setWidth 16 ∧ u.sec.flash.rpmc0 = s.sec.flash.rpmc0 + 1 ∧ u.sec.bak = true ∧
          u.sec.bakCert = some (bootCert s.sec.flash.rpmc0.toNat) ∧
          u.clk.readyL = true ∧ u.mem = s.mem ∧ u.clusters = s.clusters)) ∧
    (exec (.mgtLinkLost t) s = .next { tick t s with net := { s.net with link := false } }) ∧
    (s.net.link = true ∨ domOn s 91 = false → exec (.mgtLinkUp t) s = .next (tick t s)) ∧
    (s.net.link = false → domOn s 91 = true → s.boot.stage ≠ 3 →
      exec (.mgtLinkUp t) s = .next { tick t s with net := { s.net with link := true } }) ∧
    (s.boot.stage = 3 → s.sec.alarms = [] →
      (s.net.link = true → ∃ u, exec (.dhcpack t ip server file) s = .next u ∧ u.boot.stage = 4 ∧
        u.boot.lease = some (ip, (match server.opt66 with | some x => x | none => server.siaddr), file) ∧
        u.boot.next = 1 ∧ u.boot.got = 0 ∧ u.mem = s.mem ∧ u.slots = s.slots) ∧
      (s.net.link = false → exec (.dhcpack t ip server file) s = .next (tick t s)) ∧
      (max s.now t < s.boot.askedAt + dhcpWait s.boot.discover → exec (.dhcpRetry t) s = .next (tick t s)) ∧
      (s.boot.askedAt + dhcpWait s.boot.discover ≤ max s.now t → ∃ u, exec (.dhcpRetry t) s = .next u ∧ u.boot.fail = 4 ∧ u.boot.stage = 3 ∧
        u.boot.discover = s.boot.discover + 1 ∧ u.boot.askedAt = max s.now t ∧ u.mem = s.mem)) ∧
    (s.boot.stage = 4 → s.boot.retryAt = none → s.net.link = true → s.sec.alarms = [] →
      (n = s.boot.next → n ≠ 0 → s.boot.blk = 8192 → data.length = 8192 → s.boot.got + 8192 ≤ 0x400000 →
        ∃ u, exec (.tftpData t n data v) s = .next u ∧ u.boot.next = n + 1 ∧ u.boot.got = s.boot.got + 8192 ∧ u.boot.stage = 4 ∧
          u.ctl = (devWrite s (0x700000400000 + s.boot.got) data false).ctl ∧ u.mem = s.mem ∧
          (n % 16 ≠ 0 → u.out = []) ∧ (n % 16 = 0 → u.out = [{ kind := .udp, dest := 69, data := [0, 4] ++ natBe 2 n }])) ∧
      (s.boot.next < n → n ≠ 0 → s.boot.blk = 8192 → data.length ≤ 8192 → ∃ u, exec (.tftpData t n data v) s = .next u ∧
        u.boot = { s.boot with ackAt := max s.now t } ∧ u.out = [{ kind := .udp, dest := 69, data := [0, 4] ++ natBe 2 (s.boot.next - 1) }] ∧
        u.ctl = s.ctl ∧ u.mem = s.mem) ∧
      (∃ u, exec (.tftpError t) s = .next u ∧ u.boot.fail = 5 ∧ u.boot.failed = s.boot.failed + 1 ∧
        u.boot.retryAt = some (max s.now t + 2000000000) ∧ u.mem = s.mem ∧ u.ctl = s.ctl) ∧
      (s.boot.ackAt + 1000000000 ≤ max s.now t →
        (s.boot.resends < 5 → 1 < s.boot.next → ∃ u, exec (.tftpRetransmit t) s = .next u ∧ u.boot.resends = s.boot.resends + 1 ∧
          u.out = [{ kind := .udp, dest := 69, data := [0, 4] ++ natBe 2 (s.boot.next - 1) }] ∧ u.mem = s.mem) ∧
        (5 ≤ s.boot.resends → ∃ u, exec (.tftpRetransmit t) s = .next u ∧ u.boot.failed = s.boot.failed + 1 ∧ u.mem = s.mem))) ∧
    (∀ x, s.boot.retryAt = some x → s.sec.alarms = [] → (max s.now t < x → exec (.bootRetry t) s = .next (tick t s)) ∧
      (s.boot.stage = 15 → exec (.bootRetry t) s = .next (tick t s)) ∧
      (x ≤ max s.now t → s.boot.stage ≠ 15 → ∃ u, exec (.bootRetry t) s = .next u ∧ u.boot.stage = 3 ∧ u.boot.retryAt = none ∧ u.boot.lease = none ∧ u.mem = s.mem)) ∧
    (domOn s 91 = true → s.net.link = true → s.boot.stage ≠ 3 →
      (∀ x y z, s.boot.lease = some (x, y, z) →
        exec (.dhcpRenew t (some ip)) s = .next { tick t s with boot := { s.boot with lease := some (ip, y, z), expired := false } }) ∧
      (s.boot.stage = 4 → exec (.dhcpRenew t none) s = .next { tick t s with boot := { s.boot with expired := true } }) ∧
      (s.boot.stage ≠ 4 → ∃ u, exec (.dhcpRenew t none) s = .next u ∧ u.boot.lease = none ∧ u.boot.askedAt = max s.now t ∧
        u.boot.stage = s.boot.stage ∧ u.mem = s.mem)) ∧
    (s.boot.stage = 7 → s.boot.running = 0 → ∃ u, exec (.bootDone t) s = .next u ∧ u.boot.running = 1 ∧ u.boot.stage = 7 ∧ domOn u 88 = true ∧
      u.slots = s.slots ∧ u.sec = s.sec) ∧
    (s.boot.stage ≠ 7 → exec (.bootDone t) s = .next (tick t s))

/-- Tier 2. The management port and the sideband (R335 to R337, R471): the endpoint latches a ring when its enable appears; a received frame is put where
the next descriptor says, or dropped and counted where the ring is full; a sent frame is marked done; ARP and ICMP are answered; the I3C
window shows the boot registers. Choices of the model that it rests on: log entry 13. -/
def Obligations.HostPortAndSideband : Prop :=
  ∀ (t : Nat) (s : State) (f data : Bytes) (ip : BitVec 32) (src : BitVec 48) (r : Ring), hostPortOn s = true → s.net.link = true →
    (∃ u, exec (.hostPortSample t) s = .next u ∧ u.net.rxTail = BitVec.ofNat 64 (hostU s 0x90 8) ∧
      u.net.txTail = BitVec.ofNat 64 (hostU s 0xA0 8) ∧
      (bitAt (hostU s 0x80 8) 63 = false → u.net.rx = none) ∧
      (bitAt (hostU s 0x80 8) 63 = true → s.net.rx ≠ none → u.net.rx = s.net.rx ∧ u.net.rxHead = s.net.rxHead) ∧
      (bitAt (hostU s 0x80 8) 63 = true → s.net.rx = none → u.net.rx = hostRing (hostU s 0x80 8) ∧
        u.net.rxHead = BitVec.ofNat 64 (hostU s 0x98 8)) ∧ u.mem = s.mem ∧ u.slots = s.slots ∧ u.clusters = s.clusters) ∧
    (sliceB f 0 6 = sliceB s.sec.flash.part 32 6 → 4 ≤ f.length → f.length ≤ 9018 → s.net.rx = some r →
      (s.net.rxHead.toNat < s.net.rxTail.toNat → ∃ u, exec (.hostFrameReceive t f true) s = .next u ∧ u.net.rxHead = s.net.rxHead + 1 ∧
        u.net.rxDrops = s.net.rxDrops ∧ u.slots = s.slots ∧ u.ports = s.ports) ∧
      (s.net.rxTail.toNat ≤ s.net.rxHead.toNat → ∃ u, exec (.hostFrameReceive t f true) s = .next u ∧ u.net.rxHead = s.net.rxHead ∧
        u.net.rxDrops = s.net.rxDrops + 1 ∧ u.slots = s.slots ∧ u.ports = s.ports) ∧
      exec (.hostFrameReceive t f false) s = .next (tick t s)) ∧
    (s.net.tx = some r → s.net.sending = true → s.net.txTail.toNat ≤ (s.net.txHead + 1).toNat →
      ∃ u, exec (.hostFrameSent t) s = .next u ∧ u.net = { s.net with sending := false, txHead := s.net.txHead + 1 } ∧
        u.slots = s.slots ∧ u.ports = s.ports) ∧
    (domOn s 91 = true →
      (∀ x y, s.boot.lease = some (ip, x, y) → exec (.firmwareFrame t (.arp ip)) s = .next { tick t s with
        out := [{ kind := .frame, dest := 0x0806, data := sliceB s.sec.flash.part 24 6 ++ natBe 4 ip.toNat }] }) ∧
      exec (.firmwareFrame t (.icmpEcho data)) s = .next { tick t s with out := [{ kind := .frame, dest := 0x0800, data := data }] } ∧
      (s.net.cache = [] → exec (.firmwareFrame t (.udpSpdm src data)) s = .next { tick t s with
        net := { s.net with cache := [(src, data, max s.now t, [])] } }) ∧
      (∀ a b, s.net.cache = [(src, data, a, b)] → max s.now t < a + 1000000000 → exec (.firmwareFrame t (.udpSpdm src data)) s =
        .next { tick t s with out := [{ kind := .udp, dest := 7341, data := b }] })) ∧
    (gateOn s 3 = true → s.boot.pgood = true → s.boot.resetN = true →
      (let window := natLe 1 s.boot.stage.toNat ++ natLe 1 s.boot.fail.toNat ++ natLe 1 s.boot.cool.toNat ++ natLe 1 (alarmLevel s) ++
        natLe 2 s.pwr.temp.toNat ++ natLe 2 (Nat.min 0xFFFF (s.pwr.p1 / 1000)) ++ natLe 4 (max s.now t / 1000000000) ++ zeroB 4
       exec (.i3cPrivateRead t) s = .next { tick t s with out := [{ kind := .i3c, dest := 0, data := window }] })) ∧
    (gateOn s 3 = false → exec (.i3cPrivateRead t) s = .next (tick t s))

/-- Tier 2. The meter (R494 to R505): an ENERGY record numbers on, carries the tags of its interval, and its predecessor's digest; a request is accepted
from its writers only and answered by its record; a self-check that another or a recent one holds up is refused; a record that arrives is
stored and a gap in the numbers is counted; 10 ms without a record is logged once. Choices of the model that it rests on: log entries 4, 45. -/
def Obligations.TheMeterMetersAndAnswers : Prop :=
  ∀ (t : Nat) (uj pk : BitVec 32) (fault : Bool) (sig : Bytes) (who : Requester) (p : Fin 8) (res rails : BitVec 8) (s : State),
    (s.meter.die.powered = false → exec (.energy t uj pk fault sig) s = .next (tick t s) ∧
      ∃ u, exec (.meterPowerUp t) s = .next u ∧ u.meter.die.powered = true ∧ u.meter.die.first = true ∧ u.meter.die.checking = true ∧
        u.meter.die.tags = Vector.replicate 8 0 ∧ u.meter.win = s.meter.win ∧ u.slots = s.slots ∧ u.mem = s.mem) ∧
    (s.meter.die.powered = true →
      exec (.meterPowerUp t) s = .next (tick t s) ∧
      (∃ u rec, exec (.energy t uj pk fault sig) s = .next u ∧ u.meter.die.seq = s.meter.die.seq + 1 ∧ u.meter.die.first = false ∧
        u.meter.die.sent = s.meter.die.sent ++ [rec] ∧ fieldU rec 8 8 = (s.meter.die.seq + 1).toNat ∧
        fieldU rec 16 4 = uj.toNat ∧ fieldU rec 20 4 = pk.toNat ∧ fieldU rec 24 4 = s.meter.die.tagSeq.toNat ∧ fieldU rec 6 1 = 1 ∧
        u.meter.die.prev = some ((sha384 rec).take 16) ∧ u.meter.die.newTags = [] ∧
        u.meter.die.tags = s.meter.die.newTags.foldl (fun v x => vset v x.1 x.2) s.meter.die.tags ∧ u.meter.win = s.meter.win ∧
        u.slots = s.slots ∧ u.mem = s.mem) ∧
      (s.meter.win.pend = none → who = .sched →
        exec (.setTag t who p) s = .next { tick t s with meter := { s.meter with die := { s.meter.die with
          newTags := s.meter.die.newTags ++ [(p, s.meter.win.arg)] } } } ∧
        (∃ u a b, exec (.ident t who) s = .next u ∧ u.meter.die.sent = s.meter.die.sent ++ [a, b] ∧ fieldU a 6 1 = 2 ∧ fieldU b 6 1 = 3 ∧
          u.meter.win = s.meter.win) ∧
        (∃ u a, exec (.readStatus t who) s = .next u ∧ u.meter.die.sent = s.meter.die.sent ++ [a] ∧ fieldU a 6 1 = 4 ∧ u.meter.win = s.meter.win) ∧
        (checkBusy (tick t s) = false → exec (.selfCheck t who) s = .next { tick t s with meter := { s.meter with die := { s.meter.die with
          checking := true, checked := true } } }) ∧
        (checkBusy (tick t s) = true → ∃ u a, exec (.selfCheck t who) s = .next u ∧ u.meter.die.sent = s.meter.die.sent ++ [a] ∧
          fieldU a 6 1 = 5 ∧ fieldU a 18 1 = 1 ∧ u.meter.die.checking = s.meter.die.checking)) ∧
      (s.meter.die.checking = false → exec (.periodicSelfCheck t) s = .next { tick t s with meter := { s.meter with die := { s.meter.die with
        checking := true, checked := true } } }) ∧
      (s.meter.die.checking = true → exec (.periodicSelfCheck t) s = .next (tick t s))) ∧
    (who = .pmc → exec (.setTag t who p) s = .next (meterAccept (tick t s) 2) ∧ (s.meter.win.pend = none →
      exec (.setTag t who p) s = .next (tick t s))) ∧
    (s.meter.die.checking = false → exec (.check t res rails) s = .next (tick t s)) ∧
    (s.meter.die.checking = true → ∃ u a, exec (.check t res rails) s = .next u ∧ u.meter.die.checking = false ∧ u.meter.die.result = res &&& 0xF ∧
      u.meter.die.rails = rails &&& 0x3F ∧ u.meter.die.checkAt = some ((max s.now t : Nat) : Int) ∧
      u.meter.die.sent = s.meter.die.sent ++ [a] ∧ fieldU a 6 1 = 5 ∧ fieldU a 16 1 = (res &&& 0xF).toNat) ∧
    (s.meter.die.sent = [] → exec (.meterRecord t) s = .next (tick t s)) ∧
    (∀ r rest, s.meter.die.sent = r :: rest →
      (domOn s 94 = false → exec (.meterRecord t) s = .next { tick t s with meter := { s.meter with die := { s.meter.die with sent := rest } } }) ∧
      (domOn s 94 = true → ∃ u, exec (.meterRecord t) s = .next u ∧ u.meter.die = { s.meter.die with sent := rest } ∧ u.meter.win.live = true ∧
        u.meter.win.lastAt = max s.now t ∧ u.meter.win.silent = false ∧
        (fieldU r 6 1 = 1 → u.meter.win.head = BitVec.ofNat 64 (fieldU r 8 8) ∧ u.meter.win.resp = s.meter.win.resp ∧
          u.meter.win.ring = alPut s.meter.win.ring (fieldU r 8 8 % 32768) (some (slotBytes (tick t s) r)) ∧
          u.meter.win.gaps = (if s.meter.win.any = true ∧ fieldU r 8 8 ≠ (s.meter.win.head + 1).toNat then
            s.meter.win.gaps + (BitVec.ofNat 64 (fieldU r 8 8) - (s.meter.win.head + 1)) else s.meter.win.gaps)) ∧
        (fieldU r 6 1 = 4 → u.meter.win.resp.get 2 = slotBytes (tick t s) r ∧ u.meter.win.ring = s.meter.win.ring) ∧ u.slots = s.slots)) ∧
    (domOn s 92 = true → s.meter.win.silent = false → s.meter.win.lastAt + 10000000 ≤ max s.now t →
      exec (.meterSilent t) s = .next (logEv { tick t s with meter := { s.meter with win := { s.meter.win with live := false, silent := true } } }
        0x0500 0xA003 15 (payload []))) ∧
    (s.meter.win.silent = true → exec (.meterSilent t) s = .next (tick t s))

/-- Tier 1. What reset leaves (R318, R343, R395, R397, R398, R421, R458 to R462, R503): the values that the spec gives for the registers named here. Choices of the model that it rests on: log entry 1. -/
def Obligations.ResetLeavesTheSpecsValues : Prop :=
  State.reset.boot.stage = 0 ∧ State.reset.boot.fail = 0 ∧ State.reset.boot.attempt = 0 ∧ State.reset.boot.running = 0 ∧
  State.reset.clk.src = Vector.replicate 4 0 ∧ State.reset.clk.auto = true ∧ State.reset.clk.en = 0b0111110 ∧ State.reset.clk.autoEn = 0 ∧
  State.reset.clk.time = 0 ∧ State.reset.clk.switches = 0 ∧ State.reset.clk.refused = false ∧ State.reset.clk.lost = false ∧
  State.reset.pwr.hwLim = false ∧ State.reset.pwr.trip = false ∧ State.reset.pwr.pfault = false ∧ State.reset.pwr.app1 = false ∧
  State.reset.sched.failed = false ∧ State.reset.sched.wdogSch = 0x32 ∧ State.reset.sched.wdogCl = 0x0A ∧ State.reset.sched.restarts = 0 ∧
  State.reset.sched.clfail = 0 ∧ State.reset.pending = [] ∧ State.reset.log.count = 0 ∧ State.reset.log.supp = 0 ∧
  (∀ p, (State.reset.slot p).led.base = 0 ∧ (State.reset.slot p).led.high = 0 ∧ (State.reset.slot p).led.epoch = 0 ∧
    (State.reset.slot p).twin.st = .unpaired ∧ (State.reset.slot p).twin.ckint = 0 ∧ (State.reset.slot p).twin.silence = 0x01F4 ∧
    (State.reset.slot p).ck.handle = 0 ∧ (State.reset.slot p).st = .empty) ∧
  (∀ c : Fin 96, domOn State.reset c.val = (c.val == 66 || c.val == 67 || c.val == 93))

/-- Tier 1. At reset every memory is in its canonical form. -/
def Obligations.ResetMemoriesAreCanonical : Prop :=
  State.reset.stored

/-- Tier 3. Every step of every command answers a next state and keeps every memory of the block in its canonical form: main memory, the control
SRAM, the spine pools, the stores of the clusters and the log. -/
def Obligations.EveryStepKeepsTheMemoriesCanonical : Prop :=
  ∀ s : State, s.stored → ∃ u, step s = .next u ∧ u.stored
end

