-- ==== Sys2Proof/Laws/Lists.lean ====
section
/-! SUPPORT. Lists kept in rising order of a key: the operations that change them keep the order, and reading after writing gives what was
written. -/

namespace Sys2Proof.Machine

theorem alRises_mono {α : Type} {l : List (Nat × α)} {lo hi : Nat} (h : alRises hi l = true) (hl : lo ≤ hi) : alRises lo l = true := by
  cases l with
  | nil => rfl
  | cons x t => simp only [alRises, Bool.and_eq_true, decide_eq_true_eq] at h ⊢; exact ⟨by omega, h.2⟩

theorem alPut_rises {α : Type} (a : Nat) (v : Option α) :
    ∀ (l : List (Nat × α)) (lo : Nat), alRises lo l = true → lo ≤ a → alRises lo (alPut l a v) = true
  | [], lo, _, hl => by cases v <;> simp [alPut, alRises, hl]
  | (k, x) :: t, lo, h, hl => by
    simp only [alRises, Bool.and_eq_true, decide_eq_true_eq] at h
    unfold alPut
    split
    · cases v with
      | none => exact alRises_mono h.2 (by omega)
      | some y => simp [alRises, h.1, h.2]
    · split
      · cases v with
        | none => simp [alRises, h.1, h.2]
        | some y =>
          simp only [alRises, Bool.and_eq_true, decide_eq_true_eq]
          exact ⟨hl, by omega, h.2⟩
      · simp only [alRises, Bool.and_eq_true, decide_eq_true_eq]
        exact ⟨h.1, alPut_rises a v t (k + 1) h.2 (by omega)⟩

theorem alRises_filter {α : Type} (f : Nat × α → Bool) :
    ∀ (l : List (Nat × α)) (lo : Nat), alRises lo l = true → alRises lo (l.filter f) = true
  | [], _, _ => rfl
  | (k, x) :: t, lo, h => by
    simp only [alRises, Bool.and_eq_true, decide_eq_true_eq] at h
    rw [List.filter_cons]
    split
    · simp only [alRises, Bool.and_eq_true, decide_eq_true_eq]
      exact ⟨h.1, alRises_filter f t (k + 1) h.2⟩
    · exact alRises_mono (alRises_filter f t (k + 1) h.2) (by omega)

/-- Reading a key after it was set or removed. -/
theorem alGet_alPut_same {α : Type} (a : Nat) (v : Option α) :
    ∀ (l : List (Nat × α)) (lo : Nat), alRises lo l = true → alGet (alPut l a v) a = v
  | [], _, _ => by cases v <;> simp [alPut, alGet]
  | (k, x) :: t, lo, h => by
    simp only [alRises, Bool.and_eq_true, decide_eq_true_eq] at h
    unfold alPut
    split
    · rename_i hk
      subst hk
      cases v with
      | none =>
        cases t with
        | nil => rfl
        | cons y r =>
          simp only [alRises, Bool.and_eq_true, decide_eq_true_eq] at h
          simp only [alGet]
          rw [if_neg (by omega), if_pos (by omega)]
      | some y => simp [alGet]
    · rename_i hk
      split
      · rename_i hlt
        cases v with
        | none => simp [alGet, hk, hlt]
        | some y => simp [alGet]
      · rename_i hge
        simp only [alGet, hk, hge, if_false]
        exact alGet_alPut_same a v t (k + 1) h.2

/-- A write under one key leaves every other key alone. -/
theorem alGet_alPut_other {α : Type} (a b : Nat) (v : Option α) (hab : b ≠ a) :
    ∀ (l : List (Nat × α)) (lo : Nat), alRises lo l = true → alGet (alPut l a v) b = alGet l b
  | [], _, _ => by
    cases v with
    | none => rfl
    | some y =>
      simp only [alPut, alGet]
      rw [if_neg (fun e => hab e.symm)]
      split <;> rfl
  | (k, x) :: t, lo, h => by
    simp only [alRises, Bool.and_eq_true, decide_eq_true_eq] at h
    unfold alPut
    split
    · rename_i hk
      subst hk
      cases v with
      | none =>
        simp only [alGet]
        rw [if_neg (fun e => hab e.symm)]
        split
        · rename_i hlt
          cases t with
          | nil => rfl
          | cons y r =>
            simp only [alRises, Bool.and_eq_true, decide_eq_true_eq] at h
            simp only [alGet]
            rw [if_neg (by omega), if_pos (by omega)]
        · rfl
      | some y =>
        have hkb : ¬ k = b := fun e => hab e.symm
        simp only [alGet, hkb, if_false]
    · rename_i hk
      split
      · rename_i hlt
        cases v with
        | none => rfl
        | some y =>
          simp only [alGet]
          rw [if_neg (fun e => hab e.symm)]
          split
          · rename_i hba
            rw [if_neg (by omega), if_pos (by omega)]
          · rfl
      · simp only [alGet, alGet_alPut_other a b v hab t (k + 1) h.2]

theorem nsRises_mono {l : List Nat} {lo hi : Nat} (h : nsRises hi l = true) (hl : lo ≤ hi) : nsRises lo l = true := by
  cases l with
  | nil => rfl
  | cons x t => simp only [nsRises, Bool.and_eq_true, decide_eq_true_eq] at h ⊢; exact ⟨by omega, h.2⟩

theorem nsSet_rises (a : Nat) (b : Bool) : ∀ (l : List Nat) (lo : Nat), nsRises lo l = true → lo ≤ a → nsRises lo (nsSet l a b) = true
  | [], lo, _, hl => by cases b <;> simp [nsSet, nsRises, hl]
  | k :: t, lo, h, hl => by
    simp only [nsRises, Bool.and_eq_true, decide_eq_true_eq] at h
    unfold nsSet
    split
    · cases b with
      | false => exact nsRises_mono h.2 (by omega)
      | true => simp [nsRises, h.1, h.2]
    · split
      · cases b with
        | false => simp [nsRises, h.1, h.2]
        | true =>
          simp only [if_true, nsRises, Bool.and_eq_true, decide_eq_true_eq]
          exact ⟨hl, by omega, h.2⟩
      · simp only [nsRises, Bool.and_eq_true, decide_eq_true_eq]
        exact ⟨h.1, nsSet_rises a b t (k + 1) h.2 (by omega)⟩

theorem nsRises_filter (f : Nat → Bool) : ∀ (l : List Nat) (lo : Nat), nsRises lo l = true → nsRises lo (l.filter f) = true
  | [], _, _ => rfl
  | k :: t, lo, h => by
    simp only [nsRises, Bool.and_eq_true, decide_eq_true_eq] at h
    rw [List.filter_cons]
    split
    · simp only [nsRises, Bool.and_eq_true, decide_eq_true_eq]
      exact ⟨h.1, nsRises_filter f t (k + 1) h.2⟩
    · exact nsRises_mono (nsRises_filter f t (k + 1) h.2) (by omega)

/-- Membership after a number was put in or taken out. -/
theorem nsMem_nsSet_same (a : Nat) (b : Bool) : ∀ (l : List Nat) (lo : Nat), nsRises lo l = true → nsMem (nsSet l a b) a = b
  | [], _, _ => by cases b <;> simp [nsSet, nsMem]
  | k :: t, lo, h => by
    simp only [nsRises, Bool.and_eq_true, decide_eq_true_eq] at h
    unfold nsSet
    split
    · rename_i hk
      subst hk
      cases b with
      | true => simp [nsMem]
      | false =>
        cases t with
        | nil => simp [nsMem]
        | cons y r =>
          simp only [nsRises, Bool.and_eq_true, decide_eq_true_eq] at h
          simp only [nsMem, Bool.false_eq_true, if_false]
          rw [if_neg (by omega), if_pos (by omega)]
    · rename_i hk
      split
      · rename_i hlt
        cases b with
        | true => simp [nsMem]
        | false => simp [nsMem, hk, hlt]
      · rename_i hge
        simp only [nsMem, hk, hge, if_false]
        exact nsMem_nsSet_same a b t (k + 1) h.2

/-- What a fold keeps if each of its steps does. -/
theorem foldl_keeps {α β : Type} {P : β → Prop} {f : β → α → β} {l : List α} {b : β} (h : P b) (hf : ∀ y x, P y → P (f y x)) :
    P (l.foldl f b) := by
  induction l generalizing b with
  | nil => exact h
  | cons x t ih => exact ih (hf b x h)

end Sys2Proof.Machine
end

