-- ==== Sys2Proof/Laws/Stores.lean ====
section
/-! SUPPORT. The stores of the block: every operation over them keeps the canonical form, and a byte read after a write is the byte
written. -/

namespace Sys2Proof.Machine

theorem all_alPut {α : Type} (f : Nat × α → Bool) (a : Nat) (v : Option α) (hv : ∀ x, v = some x → f (a, x) = true) :
    ∀ l : List (Nat × α), l.all f = true → (alPut l a v).all f = true
  | [], _ => by
    cases v with
    | none => rfl
    | some x => simp [alPut, hv x rfl]
  | (k, y) :: t, h => by
    simp only [List.all_cons, Bool.and_eq_true] at h
    unfold alPut
    split
    · rename_i hk
      subst hk
      cases v with
      | none => exact h.2
      | some x => simp only [List.all_cons, Bool.and_eq_true]; exact ⟨hv x rfl, h.2⟩
    · split
      · cases v with
        | none => simp only [List.all_cons, Bool.and_eq_true]; exact h
        | some x => simp only [List.all_cons, Bool.and_eq_true]; exact ⟨hv x rfl, h⟩
      · simp only [List.all_cons, Bool.and_eq_true]
        exact ⟨h.1, all_alPut f a v hv t h.2⟩

theorem Sram.wf_iff (s : Sram) :
    s.wf = true ↔ alRises 0 s.cells = true ∧ s.cells.all (fun c => c.2 != 0) = true ∧ nsRises 0 s.poison = true := by
  simp only [Sram.wf, Bool.and_eq_true, and_assoc]

@[simp] theorem Sram.empty_wf : Sram.empty.wf = true := rfl

theorem Sram.put_wf {s : Sram} (a : Nat) (b : Byte) (h : s.wf = true) : (s.put a b).wf = true := by
  rw [Sram.wf_iff] at *
  refine ⟨alPut_rises a _ _ 0 h.1 (by omega), all_alPut _ a _ ?_ _ h.2.1, h.2.2⟩
  intro x hx
  split at hx
  · cases hx
  · rename_i hb
    injection hx with hx
    subst hx
    simpa using hb

theorem Sram.mark_wf {s : Sram} (u : Nat) (p : Bool) (h : s.wf = true) : (s.mark u p).wf = true := by
  rw [Sram.wf_iff] at *
  exact ⟨h.1, h.2.1, nsSet_rises u p _ 0 h.2.2 (by omega)⟩

theorem Sram.commit_wf {s : Sram} (g : Nat) (ws : List WByte) (h : s.wf = true) : (s.commit g ws).wf = true := by
  unfold Sram.commit
  exact foldl_keeps (P := fun t : Sram => t.wf = true)
    (foldl_keeps (P := fun t : Sram => t.wf = true) h (fun t w ht => Sram.put_wf w.1 w.2.1 ht))
    (fun t u ht => Sram.mark_wf u _ ht)

theorem Sram.commitBank_wf {s : Sram} (wide : Nat → Bool) (ws : List WByte) (h : s.wf = true) : (s.commitBank wide ws).wf = true := by
  unfold Sram.commitBank
  exact foldl_keeps (P := fun t : Sram => t.wf = true)
    (foldl_keeps (P := fun t : Sram => t.wf = true)
      (foldl_keeps (P := fun t : Sram => t.wf = true) h (fun t w ht => Sram.put_wf w.1 w.2.1 ht))
      (fun t u ht => Sram.mark_wf u _ ht))
    (fun t u ht => Sram.mark_wf u _ ht)

theorem Sram.write_wf {s : Sram} (g a : Nat) (b : Bytes) (p : Bool) (h : s.wf = true) : (s.write g a b p).wf = true :=
  Sram.commit_wf g _ h

theorem Sram.filter_wf {s : Sram} (f : Host.Cell → Bool) (h : s.wf = true) : ({ s with cells := s.cells.filter f } : Sram).wf = true := by
  rw [Sram.wf_iff] at *
  refine ⟨alRises_filter f _ 0 h.1, ?_, h.2.2⟩
  rw [List.all_eq_true] at *
  exact fun x hx => h.2.1 x (List.mem_filter.mp hx).1

/-- The byte just written is read back. -/
theorem Sram.get_put_same {s : Sram} (a : Nat) (b : Byte) (h : s.wf = true) : (s.put a b).get a = b := by
  rw [Sram.wf_iff] at h
  unfold Sram.put Sram.get
  rw [alGet_alPut_same a _ _ 0 h.1]
  split
  · rename_i hb; exact hb.symm
  · rfl

/-- A write leaves every other byte alone. -/
theorem Sram.get_put_other {s : Sram} (a x : Nat) (b : Byte) (hx : x ≠ a) (h : s.wf = true) : (s.put a b).get x = s.get x := by
  rw [Sram.wf_iff] at h
  unfold Sram.put Sram.get
  rw [alGet_alPut_other a x _ hx _ 0 h.1]

theorem Mem.wf_iff (m : Mem) : m.wf = true ↔ alRises 0 m.cells = true ∧ nsRises 0 m.poison = true := by
  simp only [Mem.wf, Bool.and_eq_true]

@[simp] theorem Mem.reset_wf : Mem.reset.wf = true := rfl

theorem Mem.commit_wf {m : Mem} (ws : List WByte) (h : m.wf = true) : (m.commit ws).wf = true := by
  rw [Mem.wf_iff] at *
  exact ⟨foldl_keeps (P := fun t : List Host.Cell => alRises 0 t = true) h.1 (fun t w ht => alPut_rises w.1 _ t 0 ht (by omega)),
    foldl_keeps (P := fun t : List Nat => nsRises 0 t = true) h.2 (fun t u ht => nsSet_rises u _ t 0 ht (by omega))⟩

theorem Mem.filter_wf {m : Mem} (f : Host.Cell → Bool) (g : Nat → Bool) (mg : Vector Mg 8) (o : Vector (Option Owner) 9) (h : m.wf = true) :
    ({ m with mgs := mg, owners := o, cells := m.cells.filter f, poison := m.poison.filter g } : Mem).wf = true := by
  rw [Mem.wf_iff] at *
  exact ⟨alRises_filter f _ 0 h.1, nsRises_filter g _ 0 h.2⟩

theorem Mem.forget_wf {m : Mem} (base size : Nat) (h : m.wf = true) : (m.forget base size).wf = true :=
  Mem.filter_wf _ _ m.mgs m.owners h

/-- Writing one element of a vector. -/
@[simp] theorem vset_get {α : Type} {n : Nat} (v : Vector α n) (i j : Fin n) (x : α) : (vset v i x).get j = if i = j then x else v.get j := by
  show (v.set i.val x i.isLt)[j.val] = if i = j then x else v[j.val]
  rw [Vector.getElem_set]
  by_cases h : i = j
  · subst h; simp
  · rw [if_neg h, if_neg (fun e => h (Fin.ext e))]

/-- The second of two writes to one element stays. -/
@[simp] theorem vset_vset {α : Type} {n : Nat} (v : Vector α n) (i : Fin n) (x y : α) : vset (vset v i x) i y = vset v i y := by
  unfold vset
  exact Vector.set_set _ _

theorem vset_all {α : Type} {n : Nat} {P : α → Prop} {v : Vector α n} {i : Fin n} {x : α} (h : ∀ j, P (v.get j)) (hx : P x) (j : Fin n) :
    P ((vset v i x).get j) := by
  rw [vset_get]
  split
  · exact hx
  · exact h j

end Sys2Proof.Machine
end

