-- ==== Sys2Proof/Laws/State.lean ====
section
/-! SUPPORT. State under its updates: one lemma for each field that an update leaves alone, and what reading a part after writing it
gives. -/

namespace Sys2Proof.Machine

@[simp] theorem setCl_pending (s : State) (c : Fin 64) (x : Cluster) : (s.setCl c x).pending = s.pending := rfl
@[simp] theorem setCl_now (s : State) (c : Fin 64) (x : Cluster) : (s.setCl c x).now = s.now := rfl
@[simp] theorem setCl_free (s : State) (c : Fin 64) (x : Cluster) : (s.setCl c x).free = s.free := rfl
@[simp] theorem setCl_out (s : State) (c : Fin 64) (x : Cluster) : (s.setCl c x).out = s.out := rfl
@[simp] theorem setCl_low (s : State) (c : Fin 64) (x : Cluster) : (s.setCl c x).low = s.low := rfl
@[simp] theorem setCl_clk (s : State) (c : Fin 64) (x : Cluster) : (s.setCl c x).clk = s.clk := rfl
@[simp] theorem setCl_pwr (s : State) (c : Fin 64) (x : Cluster) : (s.setCl c x).pwr = s.pwr := rfl
@[simp] theorem setCl_boot (s : State) (c : Fin 64) (x : Cluster) : (s.setCl c x).boot = s.boot := rfl
@[simp] theorem setCl_net (s : State) (c : Fin 64) (x : Cluster) : (s.setCl c x).net = s.net := rfl
@[simp] theorem setCl_sched (s : State) (c : Fin 64) (x : Cluster) : (s.setCl c x).sched = s.sched := rfl
@[simp] theorem setCl_sec (s : State) (c : Fin 64) (x : Cluster) : (s.setCl c x).sec = s.sec := rfl
@[simp] theorem setCl_mem (s : State) (c : Fin 64) (x : Cluster) : (s.setCl c x).mem = s.mem := rfl
@[simp] theorem setCl_spines (s : State) (c : Fin 64) (x : Cluster) : (s.setCl c x).spines = s.spines := rfl
@[simp] theorem setCl_ctl (s : State) (c : Fin 64) (x : Cluster) : (s.setCl c x).ctl = s.ctl := rfl
@[simp] theorem setCl_log (s : State) (c : Fin 64) (x : Cluster) : (s.setCl c x).log = s.log := rfl
@[simp] theorem setCl_ports (s : State) (c : Fin 64) (x : Cluster) : (s.setCl c x).ports = s.ports := rfl
@[simp] theorem setCl_links (s : State) (c : Fin 64) (x : Cluster) : (s.setCl c x).links = s.links := rfl
@[simp] theorem setCl_cols (s : State) (c : Fin 64) (x : Cluster) : (s.setCl c x).cols = s.cols := rfl
@[simp] theorem setCl_ues (s : State) (c : Fin 64) (x : Cluster) : (s.setCl c x).ues = s.ues := rfl
@[simp] theorem setCl_slots (s : State) (c : Fin 64) (x : Cluster) : (s.setCl c x).slots = s.slots := rfl
@[simp] theorem setCl_gbank (s : State) (c : Fin 64) (x : Cluster) : (s.setCl c x).gbank = s.gbank := rfl
@[simp] theorem setCl_meter (s : State) (c : Fin 64) (x : Cluster) : (s.setCl c x).meter = s.meter := rfl
theorem cl_setCl (s : State) (c : Fin 64) (x : Cluster) (i : Fin 64) : (s.setCl c x).cl i = if c = i then x else s.cl i := vset_get _ c i x
@[simp] theorem setCl_setCl (s : State) (c : Fin 64) (x : Cluster) (y : Cluster) : (s.setCl c x).setCl c y = s.setCl c y := by simp only [State.setCl, vset_vset]
@[simp] theorem cl_setCl_same (s : State) (c : Fin 64) (x : Cluster) : (s.setCl c x).cl c = x := by rw [cl_setCl, if_pos rfl]
theorem cl_setCl_other (s : State) (c : Fin 64) (x : Cluster) (i : Fin 64) (h : c ≠ i) : (s.setCl c x).cl i = s.cl i := by rw [cl_setCl, if_neg h]

@[simp] theorem setSlot_pending (s : State) (p : Fin 8) (x : Slot) : (s.setSlot p x).pending = s.pending := rfl
@[simp] theorem setSlot_now (s : State) (p : Fin 8) (x : Slot) : (s.setSlot p x).now = s.now := rfl
@[simp] theorem setSlot_free (s : State) (p : Fin 8) (x : Slot) : (s.setSlot p x).free = s.free := rfl
@[simp] theorem setSlot_out (s : State) (p : Fin 8) (x : Slot) : (s.setSlot p x).out = s.out := rfl
@[simp] theorem setSlot_low (s : State) (p : Fin 8) (x : Slot) : (s.setSlot p x).low = s.low := rfl
@[simp] theorem setSlot_clk (s : State) (p : Fin 8) (x : Slot) : (s.setSlot p x).clk = s.clk := rfl
@[simp] theorem setSlot_pwr (s : State) (p : Fin 8) (x : Slot) : (s.setSlot p x).pwr = s.pwr := rfl
@[simp] theorem setSlot_boot (s : State) (p : Fin 8) (x : Slot) : (s.setSlot p x).boot = s.boot := rfl
@[simp] theorem setSlot_net (s : State) (p : Fin 8) (x : Slot) : (s.setSlot p x).net = s.net := rfl
@[simp] theorem setSlot_sched (s : State) (p : Fin 8) (x : Slot) : (s.setSlot p x).sched = s.sched := rfl
@[simp] theorem setSlot_sec (s : State) (p : Fin 8) (x : Slot) : (s.setSlot p x).sec = s.sec := rfl
@[simp] theorem setSlot_mem (s : State) (p : Fin 8) (x : Slot) : (s.setSlot p x).mem = s.mem := rfl
@[simp] theorem setSlot_clusters (s : State) (p : Fin 8) (x : Slot) : (s.setSlot p x).clusters = s.clusters := rfl
@[simp] theorem setSlot_spines (s : State) (p : Fin 8) (x : Slot) : (s.setSlot p x).spines = s.spines := rfl
@[simp] theorem setSlot_ctl (s : State) (p : Fin 8) (x : Slot) : (s.setSlot p x).ctl = s.ctl := rfl
@[simp] theorem setSlot_log (s : State) (p : Fin 8) (x : Slot) : (s.setSlot p x).log = s.log := rfl
@[simp] theorem setSlot_ports (s : State) (p : Fin 8) (x : Slot) : (s.setSlot p x).ports = s.ports := rfl
@[simp] theorem setSlot_links (s : State) (p : Fin 8) (x : Slot) : (s.setSlot p x).links = s.links := rfl
@[simp] theorem setSlot_cols (s : State) (p : Fin 8) (x : Slot) : (s.setSlot p x).cols = s.cols := rfl
@[simp] theorem setSlot_ues (s : State) (p : Fin 8) (x : Slot) : (s.setSlot p x).ues = s.ues := rfl
@[simp] theorem setSlot_gbank (s : State) (p : Fin 8) (x : Slot) : (s.setSlot p x).gbank = s.gbank := rfl
@[simp] theorem setSlot_meter (s : State) (p : Fin 8) (x : Slot) : (s.setSlot p x).meter = s.meter := rfl
theorem slot_setSlot (s : State) (p : Fin 8) (x : Slot) (i : Fin 8) : (s.setSlot p x).slot i = if p = i then x else s.slot i := vset_get _ p i x
@[simp] theorem setSlot_setSlot (s : State) (p : Fin 8) (x : Slot) (y : Slot) : (s.setSlot p x).setSlot p y = s.setSlot p y := by simp only [State.setSlot, vset_vset]
@[simp] theorem slot_setSlot_same (s : State) (p : Fin 8) (x : Slot) : (s.setSlot p x).slot p = x := by rw [slot_setSlot, if_pos rfl]
theorem slot_setSlot_other (s : State) (p : Fin 8) (x : Slot) (i : Fin 8) (h : p ≠ i) : (s.setSlot p x).slot i = s.slot i := by rw [slot_setSlot, if_neg h]

@[simp] theorem setPort_pending (s : State) (p : Fin 16) (x : Port) : (s.setPort p x).pending = s.pending := rfl
@[simp] theorem setPort_now (s : State) (p : Fin 16) (x : Port) : (s.setPort p x).now = s.now := rfl
@[simp] theorem setPort_free (s : State) (p : Fin 16) (x : Port) : (s.setPort p x).free = s.free := rfl
@[simp] theorem setPort_out (s : State) (p : Fin 16) (x : Port) : (s.setPort p x).out = s.out := rfl
@[simp] theorem setPort_low (s : State) (p : Fin 16) (x : Port) : (s.setPort p x).low = s.low := rfl
@[simp] theorem setPort_clk (s : State) (p : Fin 16) (x : Port) : (s.setPort p x).clk = s.clk := rfl
@[simp] theorem setPort_pwr (s : State) (p : Fin 16) (x : Port) : (s.setPort p x).pwr = s.pwr := rfl
@[simp] theorem setPort_boot (s : State) (p : Fin 16) (x : Port) : (s.setPort p x).boot = s.boot := rfl
@[simp] theorem setPort_net (s : State) (p : Fin 16) (x : Port) : (s.setPort p x).net = s.net := rfl
@[simp] theorem setPort_sched (s : State) (p : Fin 16) (x : Port) : (s.setPort p x).sched = s.sched := rfl
@[simp] theorem setPort_sec (s : State) (p : Fin 16) (x : Port) : (s.setPort p x).sec = s.sec := rfl
@[simp] theorem setPort_mem (s : State) (p : Fin 16) (x : Port) : (s.setPort p x).mem = s.mem := rfl
@[simp] theorem setPort_clusters (s : State) (p : Fin 16) (x : Port) : (s.setPort p x).clusters = s.clusters := rfl
@[simp] theorem setPort_spines (s : State) (p : Fin 16) (x : Port) : (s.setPort p x).spines = s.spines := rfl
@[simp] theorem setPort_ctl (s : State) (p : Fin 16) (x : Port) : (s.setPort p x).ctl = s.ctl := rfl
@[simp] theorem setPort_log (s : State) (p : Fin 16) (x : Port) : (s.setPort p x).log = s.log := rfl
@[simp] theorem setPort_links (s : State) (p : Fin 16) (x : Port) : (s.setPort p x).links = s.links := rfl
@[simp] theorem setPort_cols (s : State) (p : Fin 16) (x : Port) : (s.setPort p x).cols = s.cols := rfl
@[simp] theorem setPort_ues (s : State) (p : Fin 16) (x : Port) : (s.setPort p x).ues = s.ues := rfl
@[simp] theorem setPort_slots (s : State) (p : Fin 16) (x : Port) : (s.setPort p x).slots = s.slots := rfl
@[simp] theorem setPort_gbank (s : State) (p : Fin 16) (x : Port) : (s.setPort p x).gbank = s.gbank := rfl
@[simp] theorem setPort_meter (s : State) (p : Fin 16) (x : Port) : (s.setPort p x).meter = s.meter := rfl
theorem port_setPort (s : State) (p : Fin 16) (x : Port) (i : Fin 16) : (s.setPort p x).port i = if p = i then x else s.port i := vset_get _ p i x
@[simp] theorem setPort_setPort (s : State) (p : Fin 16) (x : Port) (y : Port) : (s.setPort p x).setPort p y = s.setPort p y := by simp only [State.setPort, vset_vset]
@[simp] theorem port_setPort_same (s : State) (p : Fin 16) (x : Port) : (s.setPort p x).port p = x := by rw [port_setPort, if_pos rfl]
theorem port_setPort_other (s : State) (p : Fin 16) (x : Port) (i : Fin 16) (h : p ≠ i) : (s.setPort p x).port i = s.port i := by rw [port_setPort, if_neg h]

@[simp] theorem setLink_pending (s : State) (p : Fin 16) (x : LinkL) : (s.setLink p x).pending = s.pending := rfl
@[simp] theorem setLink_now (s : State) (p : Fin 16) (x : LinkL) : (s.setLink p x).now = s.now := rfl
@[simp] theorem setLink_free (s : State) (p : Fin 16) (x : LinkL) : (s.setLink p x).free = s.free := rfl
@[simp] theorem setLink_out (s : State) (p : Fin 16) (x : LinkL) : (s.setLink p x).out = s.out := rfl
@[simp] theorem setLink_low (s : State) (p : Fin 16) (x : LinkL) : (s.setLink p x).low = s.low := rfl
@[simp] theorem setLink_clk (s : State) (p : Fin 16) (x : LinkL) : (s.setLink p x).clk = s.clk := rfl
@[simp] theorem setLink_pwr (s : State) (p : Fin 16) (x : LinkL) : (s.setLink p x).pwr = s.pwr := rfl
@[simp] theorem setLink_boot (s : State) (p : Fin 16) (x : LinkL) : (s.setLink p x).boot = s.boot := rfl
@[simp] theorem setLink_net (s : State) (p : Fin 16) (x : LinkL) : (s.setLink p x).net = s.net := rfl
@[simp] theorem setLink_sched (s : State) (p : Fin 16) (x : LinkL) : (s.setLink p x).sched = s.sched := rfl
@[simp] theorem setLink_sec (s : State) (p : Fin 16) (x : LinkL) : (s.setLink p x).sec = s.sec := rfl
@[simp] theorem setLink_mem (s : State) (p : Fin 16) (x : LinkL) : (s.setLink p x).mem = s.mem := rfl
@[simp] theorem setLink_clusters (s : State) (p : Fin 16) (x : LinkL) : (s.setLink p x).clusters = s.clusters := rfl
@[simp] theorem setLink_spines (s : State) (p : Fin 16) (x : LinkL) : (s.setLink p x).spines = s.spines := rfl
@[simp] theorem setLink_ctl (s : State) (p : Fin 16) (x : LinkL) : (s.setLink p x).ctl = s.ctl := rfl
@[simp] theorem setLink_log (s : State) (p : Fin 16) (x : LinkL) : (s.setLink p x).log = s.log := rfl
@[simp] theorem setLink_ports (s : State) (p : Fin 16) (x : LinkL) : (s.setLink p x).ports = s.ports := rfl
@[simp] theorem setLink_cols (s : State) (p : Fin 16) (x : LinkL) : (s.setLink p x).cols = s.cols := rfl
@[simp] theorem setLink_ues (s : State) (p : Fin 16) (x : LinkL) : (s.setLink p x).ues = s.ues := rfl
@[simp] theorem setLink_slots (s : State) (p : Fin 16) (x : LinkL) : (s.setLink p x).slots = s.slots := rfl
@[simp] theorem setLink_gbank (s : State) (p : Fin 16) (x : LinkL) : (s.setLink p x).gbank = s.gbank := rfl
@[simp] theorem setLink_meter (s : State) (p : Fin 16) (x : LinkL) : (s.setLink p x).meter = s.meter := rfl
theorem link_setLink (s : State) (p : Fin 16) (x : LinkL) (i : Fin 16) : (s.setLink p x).link i = if p = i then x else s.link i := vset_get _ p i x
@[simp] theorem setLink_setLink (s : State) (p : Fin 16) (x : LinkL) (y : LinkL) : (s.setLink p x).setLink p y = s.setLink p y := by simp only [State.setLink, vset_vset]
@[simp] theorem link_setLink_same (s : State) (p : Fin 16) (x : LinkL) : (s.setLink p x).link p = x := by rw [link_setLink, if_pos rfl]
theorem link_setLink_other (s : State) (p : Fin 16) (x : LinkL) (i : Fin 16) (h : p ≠ i) : (s.setLink p x).link i = s.link i := by rw [link_setLink, if_neg h]

@[simp] theorem setCol_pending (s : State) (e : Fin 4) (x : Col) : (s.setCol e x).pending = s.pending := rfl
@[simp] theorem setCol_now (s : State) (e : Fin 4) (x : Col) : (s.setCol e x).now = s.now := rfl
@[simp] theorem setCol_free (s : State) (e : Fin 4) (x : Col) : (s.setCol e x).free = s.free := rfl
@[simp] theorem setCol_out (s : State) (e : Fin 4) (x : Col) : (s.setCol e x).out = s.out := rfl
@[simp] theorem setCol_low (s : State) (e : Fin 4) (x : Col) : (s.setCol e x).low = s.low := rfl
@[simp] theorem setCol_clk (s : State) (e : Fin 4) (x : Col) : (s.setCol e x).clk = s.clk := rfl
@[simp] theorem setCol_pwr (s : State) (e : Fin 4) (x : Col) : (s.setCol e x).pwr = s.pwr := rfl
@[simp] theorem setCol_boot (s : State) (e : Fin 4) (x : Col) : (s.setCol e x).boot = s.boot := rfl
@[simp] theorem setCol_net (s : State) (e : Fin 4) (x : Col) : (s.setCol e x).net = s.net := rfl
@[simp] theorem setCol_sched (s : State) (e : Fin 4) (x : Col) : (s.setCol e x).sched = s.sched := rfl
@[simp] theorem setCol_sec (s : State) (e : Fin 4) (x : Col) : (s.setCol e x).sec = s.sec := rfl
@[simp] theorem setCol_mem (s : State) (e : Fin 4) (x : Col) : (s.setCol e x).mem = s.mem := rfl
@[simp] theorem setCol_clusters (s : State) (e : Fin 4) (x : Col) : (s.setCol e x).clusters = s.clusters := rfl
@[simp] theorem setCol_spines (s : State) (e : Fin 4) (x : Col) : (s.setCol e x).spines = s.spines := rfl
@[simp] theorem setCol_ctl (s : State) (e : Fin 4) (x : Col) : (s.setCol e x).ctl = s.ctl := rfl
@[simp] theorem setCol_log (s : State) (e : Fin 4) (x : Col) : (s.setCol e x).log = s.log := rfl
@[simp] theorem setCol_ports (s : State) (e : Fin 4) (x : Col) : (s.setCol e x).ports = s.ports := rfl
@[simp] theorem setCol_links (s : State) (e : Fin 4) (x : Col) : (s.setCol e x).links = s.links := rfl
@[simp] theorem setCol_ues (s : State) (e : Fin 4) (x : Col) : (s.setCol e x).ues = s.ues := rfl
@[simp] theorem setCol_slots (s : State) (e : Fin 4) (x : Col) : (s.setCol e x).slots = s.slots := rfl
@[simp] theorem setCol_gbank (s : State) (e : Fin 4) (x : Col) : (s.setCol e x).gbank = s.gbank := rfl
@[simp] theorem setCol_meter (s : State) (e : Fin 4) (x : Col) : (s.setCol e x).meter = s.meter := rfl
theorem col_setCol (s : State) (e : Fin 4) (x : Col) (i : Fin 4) : (s.setCol e x).col i = if e = i then x else s.col i := vset_get _ e i x
@[simp] theorem setCol_setCol (s : State) (e : Fin 4) (x : Col) (y : Col) : (s.setCol e x).setCol e y = s.setCol e y := by simp only [State.setCol, vset_vset]
@[simp] theorem col_setCol_same (s : State) (e : Fin 4) (x : Col) : (s.setCol e x).col e = x := by rw [col_setCol, if_pos rfl]
theorem col_setCol_other (s : State) (e : Fin 4) (x : Col) (i : Fin 4) (h : e ≠ i) : (s.setCol e x).col i = s.col i := by rw [col_setCol, if_neg h]

@[simp] theorem setUe_pending (s : State) (e : Fin 4) (x : Ue) : (s.setUe e x).pending = s.pending := rfl
@[simp] theorem setUe_now (s : State) (e : Fin 4) (x : Ue) : (s.setUe e x).now = s.now := rfl
@[simp] theorem setUe_free (s : State) (e : Fin 4) (x : Ue) : (s.setUe e x).free = s.free := rfl
@[simp] theorem setUe_out (s : State) (e : Fin 4) (x : Ue) : (s.setUe e x).out = s.out := rfl
@[simp] theorem setUe_low (s : State) (e : Fin 4) (x : Ue) : (s.setUe e x).low = s.low := rfl
@[simp] theorem setUe_clk (s : State) (e : Fin 4) (x : Ue) : (s.setUe e x).clk = s.clk := rfl
@[simp] theorem setUe_pwr (s : State) (e : Fin 4) (x : Ue) : (s.setUe e x).pwr = s.pwr := rfl
@[simp] theorem setUe_boot (s : State) (e : Fin 4) (x : Ue) : (s.setUe e x).boot = s.boot := rfl
@[simp] theorem setUe_net (s : State) (e : Fin 4) (x : Ue) : (s.setUe e x).net = s.net := rfl
@[simp] theorem setUe_sched (s : State) (e : Fin 4) (x : Ue) : (s.setUe e x).sched = s.sched := rfl
@[simp] theorem setUe_sec (s : State) (e : Fin 4) (x : Ue) : (s.setUe e x).sec = s.sec := rfl
@[simp] theorem setUe_mem (s : State) (e : Fin 4) (x : Ue) : (s.setUe e x).mem = s.mem := rfl
@[simp] theorem setUe_clusters (s : State) (e : Fin 4) (x : Ue) : (s.setUe e x).clusters = s.clusters := rfl
@[simp] theorem setUe_spines (s : State) (e : Fin 4) (x : Ue) : (s.setUe e x).spines = s.spines := rfl
@[simp] theorem setUe_ctl (s : State) (e : Fin 4) (x : Ue) : (s.setUe e x).ctl = s.ctl := rfl
@[simp] theorem setUe_log (s : State) (e : Fin 4) (x : Ue) : (s.setUe e x).log = s.log := rfl
@[simp] theorem setUe_ports (s : State) (e : Fin 4) (x : Ue) : (s.setUe e x).ports = s.ports := rfl
@[simp] theorem setUe_links (s : State) (e : Fin 4) (x : Ue) : (s.setUe e x).links = s.links := rfl
@[simp] theorem setUe_cols (s : State) (e : Fin 4) (x : Ue) : (s.setUe e x).cols = s.cols := rfl
@[simp] theorem setUe_slots (s : State) (e : Fin 4) (x : Ue) : (s.setUe e x).slots = s.slots := rfl
@[simp] theorem setUe_gbank (s : State) (e : Fin 4) (x : Ue) : (s.setUe e x).gbank = s.gbank := rfl
@[simp] theorem setUe_meter (s : State) (e : Fin 4) (x : Ue) : (s.setUe e x).meter = s.meter := rfl
theorem ue_setUe (s : State) (e : Fin 4) (x : Ue) (i : Fin 4) : (s.setUe e x).ue i = if e = i then x else s.ue i := vset_get _ e i x
@[simp] theorem setUe_setUe (s : State) (e : Fin 4) (x : Ue) (y : Ue) : (s.setUe e x).setUe e y = s.setUe e y := by simp only [State.setUe, vset_vset]
@[simp] theorem ue_setUe_same (s : State) (e : Fin 4) (x : Ue) : (s.setUe e x).ue e = x := by rw [ue_setUe, if_pos rfl]
theorem ue_setUe_other (s : State) (e : Fin 4) (x : Ue) (i : Fin 4) (h : e ≠ i) : (s.setUe e x).ue i = s.ue i := by rw [ue_setUe, if_neg h]

@[simp] theorem setMg_pending (s : State) (g : Fin 8) (x : Mg) : (s.setMg g x).pending = s.pending := rfl
@[simp] theorem setMg_now (s : State) (g : Fin 8) (x : Mg) : (s.setMg g x).now = s.now := rfl
@[simp] theorem setMg_free (s : State) (g : Fin 8) (x : Mg) : (s.setMg g x).free = s.free := rfl
@[simp] theorem setMg_out (s : State) (g : Fin 8) (x : Mg) : (s.setMg g x).out = s.out := rfl
@[simp] theorem setMg_low (s : State) (g : Fin 8) (x : Mg) : (s.setMg g x).low = s.low := rfl
@[simp] theorem setMg_clk (s : State) (g : Fin 8) (x : Mg) : (s.setMg g x).clk = s.clk := rfl
@[simp] theorem setMg_pwr (s : State) (g : Fin 8) (x : Mg) : (s.setMg g x).pwr = s.pwr := rfl
@[simp] theorem setMg_boot (s : State) (g : Fin 8) (x : Mg) : (s.setMg g x).boot = s.boot := rfl
@[simp] theorem setMg_net (s : State) (g : Fin 8) (x : Mg) : (s.setMg g x).net = s.net := rfl
@[simp] theorem setMg_sched (s : State) (g : Fin 8) (x : Mg) : (s.setMg g x).sched = s.sched := rfl
@[simp] theorem setMg_sec (s : State) (g : Fin 8) (x : Mg) : (s.setMg g x).sec = s.sec := rfl
@[simp] theorem setMg_clusters (s : State) (g : Fin 8) (x : Mg) : (s.setMg g x).clusters = s.clusters := rfl
@[simp] theorem setMg_spines (s : State) (g : Fin 8) (x : Mg) : (s.setMg g x).spines = s.spines := rfl
@[simp] theorem setMg_ctl (s : State) (g : Fin 8) (x : Mg) : (s.setMg g x).ctl = s.ctl := rfl
@[simp] theorem setMg_log (s : State) (g : Fin 8) (x : Mg) : (s.setMg g x).log = s.log := rfl
@[simp] theorem setMg_ports (s : State) (g : Fin 8) (x : Mg) : (s.setMg g x).ports = s.ports := rfl
@[simp] theorem setMg_links (s : State) (g : Fin 8) (x : Mg) : (s.setMg g x).links = s.links := rfl
@[simp] theorem setMg_cols (s : State) (g : Fin 8) (x : Mg) : (s.setMg g x).cols = s.cols := rfl
@[simp] theorem setMg_ues (s : State) (g : Fin 8) (x : Mg) : (s.setMg g x).ues = s.ues := rfl
@[simp] theorem setMg_slots (s : State) (g : Fin 8) (x : Mg) : (s.setMg g x).slots = s.slots := rfl
@[simp] theorem setMg_gbank (s : State) (g : Fin 8) (x : Mg) : (s.setMg g x).gbank = s.gbank := rfl
@[simp] theorem setMg_meter (s : State) (g : Fin 8) (x : Mg) : (s.setMg g x).meter = s.meter := rfl
theorem mg_setMg (s : State) (g : Fin 8) (x : Mg) (i : Fin 8) : (s.setMg g x).mg i = if g = i then x else s.mg i := vset_get _ g i x
@[simp] theorem setMg_setMg (s : State) (g : Fin 8) (x : Mg) (y : Mg) : (s.setMg g x).setMg g y = s.setMg g y := by simp only [State.setMg, vset_vset]
@[simp] theorem mg_setMg_same (s : State) (g : Fin 8) (x : Mg) : (s.setMg g x).mg g = x := by rw [mg_setMg, if_pos rfl]
theorem mg_setMg_other (s : State) (g : Fin 8) (x : Mg) (i : Fin 8) (h : g ≠ i) : (s.setMg g x).mg i = s.mg i := by rw [mg_setMg, if_neg h]

@[simp] theorem tick_pending (t : Nat) (s : State) : (tick t s).pending = s.pending := rfl
@[simp] theorem tick_free (t : Nat) (s : State) : (tick t s).free = s.free := rfl
@[simp] theorem tick_low (t : Nat) (s : State) : (tick t s).low = s.low := rfl
@[simp] theorem tick_pwr (t : Nat) (s : State) : (tick t s).pwr = s.pwr := rfl
@[simp] theorem tick_boot (t : Nat) (s : State) : (tick t s).boot = s.boot := rfl
@[simp] theorem tick_net (t : Nat) (s : State) : (tick t s).net = s.net := rfl
@[simp] theorem tick_sched (t : Nat) (s : State) : (tick t s).sched = s.sched := rfl
@[simp] theorem tick_sec (t : Nat) (s : State) : (tick t s).sec = s.sec := rfl
@[simp] theorem tick_mem (t : Nat) (s : State) : (tick t s).mem = s.mem := rfl
@[simp] theorem tick_clusters (t : Nat) (s : State) : (tick t s).clusters = s.clusters := rfl
@[simp] theorem tick_spines (t : Nat) (s : State) : (tick t s).spines = s.spines := rfl
@[simp] theorem tick_ctl (t : Nat) (s : State) : (tick t s).ctl = s.ctl := rfl
@[simp] theorem tick_log (t : Nat) (s : State) : (tick t s).log = s.log := rfl
@[simp] theorem tick_ports (t : Nat) (s : State) : (tick t s).ports = s.ports := rfl
@[simp] theorem tick_links (t : Nat) (s : State) : (tick t s).links = s.links := rfl
@[simp] theorem tick_cols (t : Nat) (s : State) : (tick t s).cols = s.cols := rfl
@[simp] theorem tick_ues (t : Nat) (s : State) : (tick t s).ues = s.ues := rfl
@[simp] theorem tick_slots (t : Nat) (s : State) : (tick t s).slots = s.slots := rfl
@[simp] theorem tick_gbank (t : Nat) (s : State) : (tick t s).gbank = s.gbank := rfl
@[simp] theorem tick_meter (t : Nat) (s : State) : (tick t s).meter = s.meter := rfl

@[simp] theorem emit_pending (s : State) (k : OutKind) (d : Nat) (b : Bytes) : (emit s k d b).pending = s.pending := rfl
@[simp] theorem emit_now (s : State) (k : OutKind) (d : Nat) (b : Bytes) : (emit s k d b).now = s.now := rfl
@[simp] theorem emit_free (s : State) (k : OutKind) (d : Nat) (b : Bytes) : (emit s k d b).free = s.free := rfl
@[simp] theorem emit_low (s : State) (k : OutKind) (d : Nat) (b : Bytes) : (emit s k d b).low = s.low := rfl
@[simp] theorem emit_clk (s : State) (k : OutKind) (d : Nat) (b : Bytes) : (emit s k d b).clk = s.clk := rfl
@[simp] theorem emit_pwr (s : State) (k : OutKind) (d : Nat) (b : Bytes) : (emit s k d b).pwr = s.pwr := rfl
@[simp] theorem emit_boot (s : State) (k : OutKind) (d : Nat) (b : Bytes) : (emit s k d b).boot = s.boot := rfl
@[simp] theorem emit_net (s : State) (k : OutKind) (d : Nat) (b : Bytes) : (emit s k d b).net = s.net := rfl
@[simp] theorem emit_sched (s : State) (k : OutKind) (d : Nat) (b : Bytes) : (emit s k d b).sched = s.sched := rfl
@[simp] theorem emit_sec (s : State) (k : OutKind) (d : Nat) (b : Bytes) : (emit s k d b).sec = s.sec := rfl
@[simp] theorem emit_mem (s : State) (k : OutKind) (d : Nat) (b : Bytes) : (emit s k d b).mem = s.mem := rfl
@[simp] theorem emit_clusters (s : State) (k : OutKind) (d : Nat) (b : Bytes) : (emit s k d b).clusters = s.clusters := rfl
@[simp] theorem emit_spines (s : State) (k : OutKind) (d : Nat) (b : Bytes) : (emit s k d b).spines = s.spines := rfl
@[simp] theorem emit_ctl (s : State) (k : OutKind) (d : Nat) (b : Bytes) : (emit s k d b).ctl = s.ctl := rfl
@[simp] theorem emit_log (s : State) (k : OutKind) (d : Nat) (b : Bytes) : (emit s k d b).log = s.log := rfl
@[simp] theorem emit_ports (s : State) (k : OutKind) (d : Nat) (b : Bytes) : (emit s k d b).ports = s.ports := rfl
@[simp] theorem emit_links (s : State) (k : OutKind) (d : Nat) (b : Bytes) : (emit s k d b).links = s.links := rfl
@[simp] theorem emit_cols (s : State) (k : OutKind) (d : Nat) (b : Bytes) : (emit s k d b).cols = s.cols := rfl
@[simp] theorem emit_ues (s : State) (k : OutKind) (d : Nat) (b : Bytes) : (emit s k d b).ues = s.ues := rfl
@[simp] theorem emit_slots (s : State) (k : OutKind) (d : Nat) (b : Bytes) : (emit s k d b).slots = s.slots := rfl
@[simp] theorem emit_gbank (s : State) (k : OutKind) (d : Nat) (b : Bytes) : (emit s k d b).gbank = s.gbank := rfl
@[simp] theorem emit_meter (s : State) (k : OutKind) (d : Nat) (b : Bytes) : (emit s k d b).meter = s.meter := rfl

@[simp] theorem slot_setCl (s : State) (c : Fin 64) (x : Cluster) (i : Fin 8) : (s.setCl c x).slot i = s.slot i := rfl
@[simp] theorem port_setCl (s : State) (c : Fin 64) (x : Cluster) (i : Fin 16) : (s.setCl c x).port i = s.port i := rfl
@[simp] theorem link_setCl (s : State) (c : Fin 64) (x : Cluster) (i : Fin 16) : (s.setCl c x).link i = s.link i := rfl
@[simp] theorem col_setCl (s : State) (c : Fin 64) (x : Cluster) (i : Fin 4) : (s.setCl c x).col i = s.col i := rfl
@[simp] theorem ue_setCl (s : State) (c : Fin 64) (x : Cluster) (i : Fin 4) : (s.setCl c x).ue i = s.ue i := rfl
@[simp] theorem mg_setCl (s : State) (c : Fin 64) (x : Cluster) (i : Fin 8) : (s.setCl c x).mg i = s.mg i := rfl
@[simp] theorem cl_setSlot (s : State) (p : Fin 8) (x : Slot) (i : Fin 64) : (s.setSlot p x).cl i = s.cl i := rfl
@[simp] theorem port_setSlot (s : State) (p : Fin 8) (x : Slot) (i : Fin 16) : (s.setSlot p x).port i = s.port i := rfl
@[simp] theorem link_setSlot (s : State) (p : Fin 8) (x : Slot) (i : Fin 16) : (s.setSlot p x).link i = s.link i := rfl
@[simp] theorem col_setSlot (s : State) (p : Fin 8) (x : Slot) (i : Fin 4) : (s.setSlot p x).col i = s.col i := rfl
@[simp] theorem ue_setSlot (s : State) (p : Fin 8) (x : Slot) (i : Fin 4) : (s.setSlot p x).ue i = s.ue i := rfl
@[simp] theorem mg_setSlot (s : State) (p : Fin 8) (x : Slot) (i : Fin 8) : (s.setSlot p x).mg i = s.mg i := rfl
@[simp] theorem cl_setPort (s : State) (p : Fin 16) (x : Port) (i : Fin 64) : (s.setPort p x).cl i = s.cl i := rfl
@[simp] theorem slot_setPort (s : State) (p : Fin 16) (x : Port) (i : Fin 8) : (s.setPort p x).slot i = s.slot i := rfl
@[simp] theorem link_setPort (s : State) (p : Fin 16) (x : Port) (i : Fin 16) : (s.setPort p x).link i = s.link i := rfl
@[simp] theorem col_setPort (s : State) (p : Fin 16) (x : Port) (i : Fin 4) : (s.setPort p x).col i = s.col i := rfl
@[simp] theorem ue_setPort (s : State) (p : Fin 16) (x : Port) (i : Fin 4) : (s.setPort p x).ue i = s.ue i := rfl
@[simp] theorem mg_setPort (s : State) (p : Fin 16) (x : Port) (i : Fin 8) : (s.setPort p x).mg i = s.mg i := rfl
@[simp] theorem cl_setLink (s : State) (p : Fin 16) (x : LinkL) (i : Fin 64) : (s.setLink p x).cl i = s.cl i := rfl
@[simp] theorem slot_setLink (s : State) (p : Fin 16) (x : LinkL) (i : Fin 8) : (s.setLink p x).slot i = s.slot i := rfl
@[simp] theorem port_setLink (s : State) (p : Fin 16) (x : LinkL) (i : Fin 16) : (s.setLink p x).port i = s.port i := rfl
@[simp] theorem col_setLink (s : State) (p : Fin 16) (x : LinkL) (i : Fin 4) : (s.setLink p x).col i = s.col i := rfl
@[simp] theorem ue_setLink (s : State) (p : Fin 16) (x : LinkL) (i : Fin 4) : (s.setLink p x).ue i = s.ue i := rfl
@[simp] theorem mg_setLink (s : State) (p : Fin 16) (x : LinkL) (i : Fin 8) : (s.setLink p x).mg i = s.mg i := rfl
@[simp] theorem cl_setCol (s : State) (e : Fin 4) (x : Col) (i : Fin 64) : (s.setCol e x).cl i = s.cl i := rfl
@[simp] theorem slot_setCol (s : State) (e : Fin 4) (x : Col) (i : Fin 8) : (s.setCol e x).slot i = s.slot i := rfl
@[simp] theorem port_setCol (s : State) (e : Fin 4) (x : Col) (i : Fin 16) : (s.setCol e x).port i = s.port i := rfl
@[simp] theorem link_setCol (s : State) (e : Fin 4) (x : Col) (i : Fin 16) : (s.setCol e x).link i = s.link i := rfl
@[simp] theorem ue_setCol (s : State) (e : Fin 4) (x : Col) (i : Fin 4) : (s.setCol e x).ue i = s.ue i := rfl
@[simp] theorem mg_setCol (s : State) (e : Fin 4) (x : Col) (i : Fin 8) : (s.setCol e x).mg i = s.mg i := rfl
@[simp] theorem cl_setUe (s : State) (e : Fin 4) (x : Ue) (i : Fin 64) : (s.setUe e x).cl i = s.cl i := rfl
@[simp] theorem slot_setUe (s : State) (e : Fin 4) (x : Ue) (i : Fin 8) : (s.setUe e x).slot i = s.slot i := rfl
@[simp] theorem port_setUe (s : State) (e : Fin 4) (x : Ue) (i : Fin 16) : (s.setUe e x).port i = s.port i := rfl
@[simp] theorem link_setUe (s : State) (e : Fin 4) (x : Ue) (i : Fin 16) : (s.setUe e x).link i = s.link i := rfl
@[simp] theorem col_setUe (s : State) (e : Fin 4) (x : Ue) (i : Fin 4) : (s.setUe e x).col i = s.col i := rfl
@[simp] theorem mg_setUe (s : State) (e : Fin 4) (x : Ue) (i : Fin 8) : (s.setUe e x).mg i = s.mg i := rfl
@[simp] theorem cl_setMg (s : State) (g : Fin 8) (x : Mg) (i : Fin 64) : (s.setMg g x).cl i = s.cl i := rfl
@[simp] theorem slot_setMg (s : State) (g : Fin 8) (x : Mg) (i : Fin 8) : (s.setMg g x).slot i = s.slot i := rfl
@[simp] theorem port_setMg (s : State) (g : Fin 8) (x : Mg) (i : Fin 16) : (s.setMg g x).port i = s.port i := rfl
@[simp] theorem link_setMg (s : State) (g : Fin 8) (x : Mg) (i : Fin 16) : (s.setMg g x).link i = s.link i := rfl
@[simp] theorem col_setMg (s : State) (g : Fin 8) (x : Mg) (i : Fin 4) : (s.setMg g x).col i = s.col i := rfl
@[simp] theorem ue_setMg (s : State) (g : Fin 8) (x : Mg) (i : Fin 4) : (s.setMg g x).ue i = s.ue i := rfl
@[simp] theorem cl_tick (t : Nat) (s : State) (i : Fin 64) : (tick t s).cl i = s.cl i := rfl
@[simp] theorem slot_tick (t : Nat) (s : State) (i : Fin 8) : (tick t s).slot i = s.slot i := rfl
@[simp] theorem port_tick (t : Nat) (s : State) (i : Fin 16) : (tick t s).port i = s.port i := rfl
@[simp] theorem link_tick (t : Nat) (s : State) (i : Fin 16) : (tick t s).link i = s.link i := rfl
@[simp] theorem col_tick (t : Nat) (s : State) (i : Fin 4) : (tick t s).col i = s.col i := rfl
@[simp] theorem ue_tick (t : Nat) (s : State) (i : Fin 4) : (tick t s).ue i = s.ue i := rfl
@[simp] theorem mg_tick (t : Nat) (s : State) (i : Fin 8) : (tick t s).mg i = s.mg i := rfl
@[simp] theorem cl_emit (s : State) (k : OutKind) (d : Nat) (b : Bytes) (i : Fin 64) : (emit s k d b).cl i = s.cl i := rfl
@[simp] theorem slot_emit (s : State) (k : OutKind) (d : Nat) (b : Bytes) (i : Fin 8) : (emit s k d b).slot i = s.slot i := rfl
@[simp] theorem port_emit (s : State) (k : OutKind) (d : Nat) (b : Bytes) (i : Fin 16) : (emit s k d b).port i = s.port i := rfl
@[simp] theorem link_emit (s : State) (k : OutKind) (d : Nat) (b : Bytes) (i : Fin 16) : (emit s k d b).link i = s.link i := rfl
@[simp] theorem col_emit (s : State) (k : OutKind) (d : Nat) (b : Bytes) (i : Fin 4) : (emit s k d b).col i = s.col i := rfl
@[simp] theorem ue_emit (s : State) (k : OutKind) (d : Nat) (b : Bytes) (i : Fin 4) : (emit s k d b).ue i = s.ue i := rfl
@[simp] theorem mg_emit (s : State) (k : OutKind) (d : Nat) (b : Bytes) (i : Fin 8) : (emit s k d b).mg i = s.mg i := rfl

@[simp] theorem tick_now (t : Nat) (s : State) : (tick t s).now = max s.now t := rfl
@[simp] theorem tick_out (t : Nat) (s : State) : (tick t s).out = [] := rfl
@[simp] theorem emit_out (s : State) (k : OutKind) (d : Nat) (b : Bytes) : (emit s k d b).out = s.out ++ [{ kind := k, dest := d, data := b }] := rfl

/-- Which domains are on does not depend on the moment. -/
@[simp] theorem domOn_tick (t : Nat) (s : State) (i : Nat) : domOn (tick t s) i = domOn s i := rfl
@[simp] theorem clOn_tick (t : Nat) (s : State) (c : Fin 64) : clOn (tick t s) c = clOn s c := rfl

@[simp] theorem logEv_pending (s : State) (a b c : Nat) (l : Bytes) : (logEv s a b c l).pending = s.pending := by
  unfold logEv; dsimp only; split <;> rfl
@[simp] theorem logEv_now (s : State) (a b c : Nat) (l : Bytes) : (logEv s a b c l).now = s.now := by
  unfold logEv; dsimp only; split <;> rfl
@[simp] theorem logEv_free (s : State) (a b c : Nat) (l : Bytes) : (logEv s a b c l).free = s.free := by
  unfold logEv; dsimp only; split <;> rfl
@[simp] theorem logEv_out (s : State) (a b c : Nat) (l : Bytes) : (logEv s a b c l).out = s.out := by
  unfold logEv; dsimp only; split <;> rfl
@[simp] theorem logEv_low (s : State) (a b c : Nat) (l : Bytes) : (logEv s a b c l).low = s.low := by
  unfold logEv; dsimp only; split <;> rfl
@[simp] theorem logEv_clk (s : State) (a b c : Nat) (l : Bytes) : (logEv s a b c l).clk = s.clk := by
  unfold logEv; dsimp only; split <;> rfl
@[simp] theorem logEv_pwr (s : State) (a b c : Nat) (l : Bytes) : (logEv s a b c l).pwr = s.pwr := by
  unfold logEv; dsimp only; split <;> rfl
@[simp] theorem logEv_boot (s : State) (a b c : Nat) (l : Bytes) : (logEv s a b c l).boot = s.boot := by
  unfold logEv; dsimp only; split <;> rfl
@[simp] theorem logEv_net (s : State) (a b c : Nat) (l : Bytes) : (logEv s a b c l).net = s.net := by
  unfold logEv; dsimp only; split <;> rfl
@[simp] theorem logEv_sched (s : State) (a b c : Nat) (l : Bytes) : (logEv s a b c l).sched = s.sched := by
  unfold logEv; dsimp only; split <;> rfl
@[simp] theorem logEv_sec (s : State) (a b c : Nat) (l : Bytes) : (logEv s a b c l).sec = s.sec := by
  unfold logEv; dsimp only; split <;> rfl
@[simp] theorem logEv_mem (s : State) (a b c : Nat) (l : Bytes) : (logEv s a b c l).mem = s.mem := by
  unfold logEv; dsimp only; split <;> rfl
@[simp] theorem logEv_clusters (s : State) (a b c : Nat) (l : Bytes) : (logEv s a b c l).clusters = s.clusters := by
  unfold logEv; dsimp only; split <;> rfl
@[simp] theorem logEv_spines (s : State) (a b c : Nat) (l : Bytes) : (logEv s a b c l).spines = s.spines := by
  unfold logEv; dsimp only; split <;> rfl
@[simp] theorem logEv_ctl (s : State) (a b c : Nat) (l : Bytes) : (logEv s a b c l).ctl = s.ctl := by
  unfold logEv; dsimp only; split <;> rfl
@[simp] theorem logEv_ports (s : State) (a b c : Nat) (l : Bytes) : (logEv s a b c l).ports = s.ports := by
  unfold logEv; dsimp only; split <;> rfl
@[simp] theorem logEv_links (s : State) (a b c : Nat) (l : Bytes) : (logEv s a b c l).links = s.links := by
  unfold logEv; dsimp only; split <;> rfl
@[simp] theorem logEv_cols (s : State) (a b c : Nat) (l : Bytes) : (logEv s a b c l).cols = s.cols := by
  unfold logEv; dsimp only; split <;> rfl
@[simp] theorem logEv_ues (s : State) (a b c : Nat) (l : Bytes) : (logEv s a b c l).ues = s.ues := by
  unfold logEv; dsimp only; split <;> rfl
@[simp] theorem logEv_slots (s : State) (a b c : Nat) (l : Bytes) : (logEv s a b c l).slots = s.slots := by
  unfold logEv; dsimp only; split <;> rfl
@[simp] theorem logEv_gbank (s : State) (a b c : Nat) (l : Bytes) : (logEv s a b c l).gbank = s.gbank := by
  unfold logEv; dsimp only; split <;> rfl
@[simp] theorem logEv_meter (s : State) (a b c : Nat) (l : Bytes) : (logEv s a b c l).meter = s.meter := by
  unfold logEv; dsimp only; split <;> rfl
@[simp] theorem logRated_pending (s : State) (m a b c k : Nat) (l : Bytes) : (logRated s m a b c k l).pending = s.pending := by
  unfold logRated; extract_lets again; split
  · exact logEv_pending s a b c l
  · rfl
@[simp] theorem logRated_now (s : State) (m a b c k : Nat) (l : Bytes) : (logRated s m a b c k l).now = s.now := by
  unfold logRated; extract_lets again; split
  · exact logEv_now s a b c l
  · rfl
@[simp] theorem logRated_free (s : State) (m a b c k : Nat) (l : Bytes) : (logRated s m a b c k l).free = s.free := by
  unfold logRated; extract_lets again; split
  · exact logEv_free s a b c l
  · rfl
@[simp] theorem logRated_out (s : State) (m a b c k : Nat) (l : Bytes) : (logRated s m a b c k l).out = s.out := by
  unfold logRated; extract_lets again; split
  · exact logEv_out s a b c l
  · rfl
@[simp] theorem logRated_low (s : State) (m a b c k : Nat) (l : Bytes) : (logRated s m a b c k l).low = s.low := by
  unfold logRated; extract_lets again; split
  · exact logEv_low s a b c l
  · rfl
@[simp] theorem logRated_clk (s : State) (m a b c k : Nat) (l : Bytes) : (logRated s m a b c k l).clk = s.clk := by
  unfold logRated; extract_lets again; split
  · exact logEv_clk s a b c l
  · rfl
@[simp] theorem logRated_pwr (s : State) (m a b c k : Nat) (l : Bytes) : (logRated s m a b c k l).pwr = s.pwr := by
  unfold logRated; extract_lets again; split
  · exact logEv_pwr s a b c l
  · rfl
@[simp] theorem logRated_boot (s : State) (m a b c k : Nat) (l : Bytes) : (logRated s m a b c k l).boot = s.boot := by
  unfold logRated; extract_lets again; split
  · exact logEv_boot s a b c l
  · rfl
@[simp] theorem logRated_net (s : State) (m a b c k : Nat) (l : Bytes) : (logRated s m a b c k l).net = s.net := by
  unfold logRated; extract_lets again; split
  · exact logEv_net s a b c l
  · rfl
@[simp] theorem logRated_sched (s : State) (m a b c k : Nat) (l : Bytes) : (logRated s m a b c k l).sched = s.sched := by
  unfold logRated; extract_lets again; split
  · exact logEv_sched s a b c l
  · rfl
@[simp] theorem logRated_sec (s : State) (m a b c k : Nat) (l : Bytes) : (logRated s m a b c k l).sec = s.sec := by
  unfold logRated; extract_lets again; split
  · exact logEv_sec s a b c l
  · rfl
@[simp] theorem logRated_mem (s : State) (m a b c k : Nat) (l : Bytes) : (logRated s m a b c k l).mem = s.mem := by
  unfold logRated; extract_lets again; split
  · exact logEv_mem s a b c l
  · rfl
@[simp] theorem logRated_clusters (s : State) (m a b c k : Nat) (l : Bytes) : (logRated s m a b c k l).clusters = s.clusters := by
  unfold logRated; extract_lets again; split
  · exact logEv_clusters s a b c l
  · rfl
@[simp] theorem logRated_spines (s : State) (m a b c k : Nat) (l : Bytes) : (logRated s m a b c k l).spines = s.spines := by
  unfold logRated; extract_lets again; split
  · exact logEv_spines s a b c l
  · rfl
@[simp] theorem logRated_ctl (s : State) (m a b c k : Nat) (l : Bytes) : (logRated s m a b c k l).ctl = s.ctl := by
  unfold logRated; extract_lets again; split
  · exact logEv_ctl s a b c l
  · rfl
@[simp] theorem logRated_ports (s : State) (m a b c k : Nat) (l : Bytes) : (logRated s m a b c k l).ports = s.ports := by
  unfold logRated; extract_lets again; split
  · exact logEv_ports s a b c l
  · rfl
@[simp] theorem logRated_links (s : State) (m a b c k : Nat) (l : Bytes) : (logRated s m a b c k l).links = s.links := by
  unfold logRated; extract_lets again; split
  · exact logEv_links s a b c l
  · rfl
@[simp] theorem logRated_cols (s : State) (m a b c k : Nat) (l : Bytes) : (logRated s m a b c k l).cols = s.cols := by
  unfold logRated; extract_lets again; split
  · exact logEv_cols s a b c l
  · rfl
@[simp] theorem logRated_ues (s : State) (m a b c k : Nat) (l : Bytes) : (logRated s m a b c k l).ues = s.ues := by
  unfold logRated; extract_lets again; split
  · exact logEv_ues s a b c l
  · rfl
@[simp] theorem logRated_slots (s : State) (m a b c k : Nat) (l : Bytes) : (logRated s m a b c k l).slots = s.slots := by
  unfold logRated; extract_lets again; split
  · exact logEv_slots s a b c l
  · rfl
@[simp] theorem logRated_gbank (s : State) (m a b c k : Nat) (l : Bytes) : (logRated s m a b c k l).gbank = s.gbank := by
  unfold logRated; extract_lets again; split
  · exact logEv_gbank s a b c l
  · rfl
@[simp] theorem logRated_meter (s : State) (m a b c k : Nat) (l : Bytes) : (logRated s m a b c k l).meter = s.meter := by
  unfold logRated; extract_lets again; split
  · exact logEv_meter s a b c l
  · rfl

/-- An appended entry is the newest one, and counts (R516). -/
theorem logEv_entry (s : State) (a b c : Nat) (l : Bytes) (h : s.boot.stage ≠ 0) :
    (logEv s a b c l).log = { s.log with
      entries := alPut s.log.entries (s.log.count.toNat % 65536)
        (some { time := s.now, source := BitVec.ofNat 16 a, event := BitVec.ofNat 16 b, part := BitVec.ofNat 4 c,
                sev := severityOf b, seq := BitVec.ofNat 24 s.log.count.toNat, payload := l })
      count := s.log.count + 1 } := by
  unfold logEv
  dsimp only
  rw [if_neg h]

/-- Writing back the cluster that stands there changes nothing. -/
@[simp] theorem setCl_self (s : State) (c : Fin 64) : s.setCl c (s.cl c) = s := by
  have h : vset s.clusters c (s.clusters.get c) = s.clusters := Vector.set_getElem_self c.isLt
  unfold State.setCl State.cl
  rw [h]

/-- A plank without passes has no rows to bring up to date. -/
theorem rowsNow_idle (s : State) (c : Fin 64) (h : (s.cl c).plk.passes = []) : rowsNow s c = s := by
  unfold rowsNow
  simp only [h, List.isEmpty_nil, if_true]

/-- Bringing the rows of a plank up to date changes its cluster alone. -/
theorem rowsNow_eq (s : State) (c : Fin 64) : ∃ k, rowsNow s c = s.setCl c k := by
  unfold rowsNow
  dsimp only
  split
  · exact ⟨s.cl c, (setCl_self s c).symm⟩
  · exact ⟨_, rfl⟩

/-- Bringing every plank up to date changes clusters alone. -/
theorem planksNow_eq (s : State) : ∃ v, planksNow s = { s with clusters := v } :=
  foldl_keeps (P := fun t : State => ∃ v, t = { s with clusters := v }) ⟨s.clusters, rfl⟩ (fun t c ⟨v, h⟩ => by
    obtain ⟨k, hk⟩ := rowsNow_eq t c
    exact ⟨vset t.clusters c k, by rw [hk, h]; rfl⟩)

end Sys2Proof.Machine
end

