-- ==== Sys2Proof/Laws/Issue.lean ====
section
/-! SUPPORT. What a word that issues does: the one lemma that the statements about cluster programs cite. -/

namespace Sys2Proof.Machine

/-- A word that issues has the effect of its body, at the moment of the command. -/
theorem issueWord_issues {s : State} {t : Nat} {c : Fin 64} {w : IWord} {cls op : Nat} (body : State → IWord → State)
    (h : Issues s c w cls op) : issueWord t c cls op body s = .next (body (tick t s) w) := by
  obtain ⟨h1, h2, h3, h4, h5, h6, h7⟩ := h
  have e1 : mayIssue (tick t s) c = true := h1
  have e2 : ((tick t s).cl c).seq.word = some w := h2
  have e6 : waitsMet ((tick t s).cl c) w = true := h6
  have e7 : ((((tick t s).cl c).seq.idx + 1 ==
      ((((tick t s).cl c).seq.block.map (fun b => b.words.length)).getD 0)) && !endsBlock w) = false := by
    rcases h7 with h7 | h7
    · have : (((s.cl c).seq.idx + 1 == (((s.cl c).seq.block.map (fun b => b.words.length)).getD 0))) = false := by simpa using h7
      show (((s.cl c).seq.idx + 1 == (((s.cl c).seq.block.map (fun b => b.words.length)).getD 0)) && !endsBlock w) = false
      rw [this, Bool.false_and]
    · rw [h7, Bool.not_true, Bool.and_false]
  unfold issueWord
  simp only [e1, Bool.not_true, Bool.false_eq_true, if_false, e2, h3, e7, h4, h5, e6, beq_self_eq_true, Bool.and_self, Bool.or_self]

/-- An invalid word stops the program, whichever command names the cluster (R124). -/
theorem issueWord_invalid {s : State} {t : Nat} {c : Fin 64} {w : IWord} {cls op : Nat} (body : State → IWord → State)
    (h1 : mayIssue s c = true) (h2 : (s.cl c).seq.word = some w) (h3 : wordValid w = false) :
    issueWord t c cls op body s = .next (stopHere (tick t s) c reasonBadWord w) := by
  have e1 : mayIssue (tick t s) c = true := h1
  have e2 : ((tick t s).cl c).seq.word = some w := h2
  unfold issueWord
  simp only [e1, Bool.not_true, Bool.false_eq_true, if_false, e2, h3, Bool.not_false, if_true]

end Sys2Proof.Machine
end

