-- ==== Sys2Proof/Laws/Kept.lean ====
section
/-! SUPPORT. The canonical form of the block's memories under the accessors of State: the lemmas that every later proof of it cites. -/

namespace Sys2Proof.Machine

/-- The five stores of a cluster, as Cluster.stored takes them. -/
def KeptC (o a b v t : Sram) : Prop := o.wf = true ∧ a.wf = true ∧ b.wf = true ∧ v.wf = true ∧ t.wf = true

theorem stored_ite {p : Prop} [Decidable p] {s t : State} (hs : s.stored) (ht : t.stored) : (if p then s else t).stored := by
  split
  · exact hs
  · exact ht

theorem cstored_ite {p : Prop} [Decidable p] {s t : Cluster} (hs : s.stored) (ht : t.stored) : (if p then s else t).stored := by
  split
  · exact hs
  · exact ht

/-- A state written out holds what its five memories hold. -/
theorem stored_mk {a1 a2 a3 a4 a5 a6 a7 a8 a9 a10 a11 mem clusters spines ctl log b1 b2 b3 b4 b5 b6 b7} :
    (State.mk a1 a2 a3 a4 a5 a6 a7 a8 a9 a10 a11 mem clusters spines ctl log b1 b2 b3 b4 b5 b6 b7).stored ↔
      Kept mem ctl spines clusters log := Iff.rfl

theorem kept_fold {s : State} : Kept s.mem s.ctl s.spines s.clusters s.log ↔ s.stored := Iff.rfl

theorem cstored_mk {o a b v t x1 x2 x3 x4 x5 x6 x7 x8 x9 x10 x11 x12 x13} :
    (Cluster.mk o a b v t x1 x2 x3 x4 x5 x6 x7 x8 x9 x10 x11 x12 x13).stored ↔ KeptC o a b v t := Iff.rfl

theorem keptC_fold {k : Cluster} : KeptC k.ops k.bankA k.bankB k.vreg k.trace ↔ k.stored := Iff.rfl

theorem mem_wf {s : State} (h : s.stored) : s.mem.wf = true := h.1
theorem ctl_wf {s : State} (h : s.stored) : s.ctl.wf = true := h.2.1
theorem spine_wf {s : State} (d : Fin 2) (h : s.stored) : (s.spines.get d).wf = true := h.2.2.1 d
theorem cl_stored {s : State} (c : Fin 64) (h : s.stored) : (s.cl c).stored := h.2.2.2.1 c
theorem log_rises {s : State} (h : s.stored) : alRises 0 s.log.entries = true := h.2.2.2.2

theorem kept_mem {s : State} {m : Mem} (h : s.stored) (hm : m.wf = true) : Kept m s.ctl s.spines s.clusters s.log :=
  ⟨hm, h.2.1, h.2.2.1, h.2.2.2.1, h.2.2.2.2⟩
theorem kept_ctl {s : State} {x : Sram} (h : s.stored) (hx : x.wf = true) : Kept s.mem x s.spines s.clusters s.log :=
  ⟨h.1, hx, h.2.2.1, h.2.2.2.1, h.2.2.2.2⟩
theorem kept_spine {s : State} {d : Fin 2} {x : Sram} (h : s.stored) (hx : x.wf = true) :
    Kept s.mem s.ctl (vset s.spines d x) s.clusters s.log :=
  ⟨h.1, h.2.1, fun e => vset_all (P := fun y : Sram => y.wf = true) h.2.2.1 hx e, h.2.2.2.1, h.2.2.2.2⟩
theorem kept_log {s : State} {l : Log} (h : s.stored) (hl : alRises 0 l.entries = true) : Kept s.mem s.ctl s.spines s.clusters l :=
  ⟨h.1, h.2.1, h.2.2.1, h.2.2.2.1, hl⟩

theorem setCl_stored {s : State} (c : Fin 64) {x : Cluster} (h : s.stored) (hx : x.stored) : (s.setCl c x).stored :=
  ⟨h.1, h.2.1, h.2.2.1, fun e => vset_all (P := Cluster.stored) h.2.2.2.1 hx e, h.2.2.2.2⟩

/-- A change of the owners, the controller groups and the SRAM error counts alone. -/
theorem mem_frame_wf {m : Mem} {g : Vector Mg 8} {o : Vector (Option Owner) 9} {c : Vector Nat 258} (h : m.wf = true) : (Mem.mk g o m.cells m.poison c).wf = true := h

theorem cl_ops {k : Cluster} (h : k.stored) : k.ops.wf = true := h.1
theorem cl_bankA {k : Cluster} (h : k.stored) : k.bankA.wf = true := h.2.1
theorem cl_bankB {k : Cluster} (h : k.stored) : k.bankB.wf = true := h.2.2.1
theorem cl_vreg {k : Cluster} (h : k.stored) : k.vreg.wf = true := h.2.2.2.1
theorem cl_trace {k : Cluster} (h : k.stored) : k.trace.wf = true := h.2.2.2.2

theorem keptC_ops {k : Cluster} {x : Sram} (h : k.stored) (hx : x.wf = true) : KeptC x k.bankA k.bankB k.vreg k.trace :=
  ⟨hx, h.2.1, h.2.2.1, h.2.2.2.1, h.2.2.2.2⟩
theorem keptC_bankA {k : Cluster} {x : Sram} (h : k.stored) (hx : x.wf = true) : KeptC k.ops x k.bankB k.vreg k.trace :=
  ⟨h.1, hx, h.2.2.1, h.2.2.2.1, h.2.2.2.2⟩
theorem keptC_bankB {k : Cluster} {x : Sram} (h : k.stored) (hx : x.wf = true) : KeptC k.ops k.bankA x k.vreg k.trace :=
  ⟨h.1, h.2.1, hx, h.2.2.2.1, h.2.2.2.2⟩
theorem keptC_vreg {k : Cluster} {x : Sram} (h : k.stored) (hx : x.wf = true) : KeptC k.ops k.bankA k.bankB x k.trace :=
  ⟨h.1, h.2.1, h.2.2.1, hx, h.2.2.2.2⟩
theorem keptC_trace {k : Cluster} {x : Sram} (h : k.stored) (hx : x.wf = true) : KeptC k.ops k.bankA k.bankB k.vreg x :=
  ⟨h.1, h.2.1, h.2.2.1, h.2.2.2.1, hx⟩

/-- A cluster at power-up has nothing listed (R443). -/
theorem creset_stored : Cluster.reset.stored := ⟨rfl, rfl, rfl, rfl, rfl⟩

end Sys2Proof.Machine
end

