-- ==== Sys2Proof/Laws/KeepCluster.lean ====
section
/-! SUPPORT. What keeps the canonical form of the memories: one lemma for each of the operations of
Ops to Vector: the state itself, the trouble log, power, the plank, the sequencer, the engines of a cluster. -/

namespace Sys2Proof.Machine

theorem cold_stored (f : Flash) (m : MeterDie) : (State.cold f m).stored := by
  refine ⟨rfl, rfl, fun d => ?_, fun c => ?_, rfl⟩
  · show ((Vector.replicate 2 Sram.empty)[d.val]).wf = true
    rw [Vector.getElem_replicate]; rfl
  · show ((Vector.replicate 64 Cluster.reset)[c.val]).stored
    rw [Vector.getElem_replicate]; exact creset_stored

theorem reset_stored  : (State.reset ).stored := by
  unfold State.reset
  try dsimp only
  with_reducible repeat' first
    | assumption | apply cold_stored

theorem bankCommit_stored {cl : Cluster} (sel : W64) (wide : Bool) (ws : List WByte) (hcl : cl.stored) : (bankCommit cl sel wide ws).stored :=
  ⟨hcl.1, Sram.commitBank_wf _ _ hcl.2.1, Sram.commitBank_wf _ _ hcl.2.2.1, hcl.2.2.2.1, hcl.2.2.2.2⟩

theorem setSlot_stored {s : State} (p : Fin 8) (x : Slot) (hs : s.stored) : (State.setSlot s p x).stored := by
  unfold State.setSlot
  try dsimp only
  with_reducible repeat' first
    | assumption | (simp only [stored_mk, kept_fold, cstored_mk, keptC_fold])

theorem setPort_stored {s : State} (p : Fin 16) (x : Port) (hs : s.stored) : (State.setPort s p x).stored := by
  unfold State.setPort
  try dsimp only
  with_reducible repeat' first
    | assumption | (simp only [stored_mk, kept_fold, cstored_mk, keptC_fold])

theorem setLink_stored {s : State} (p : Fin 16) (x : LinkL) (hs : s.stored) : (State.setLink s p x).stored := by
  unfold State.setLink
  try dsimp only
  with_reducible repeat' first
    | assumption | (simp only [stored_mk, kept_fold, cstored_mk, keptC_fold])

theorem setCol_stored {s : State} (e : Fin 4) (x : Col) (hs : s.stored) : (State.setCol s e x).stored := by
  unfold State.setCol
  try dsimp only
  with_reducible repeat' first
    | assumption | (simp only [stored_mk, kept_fold, cstored_mk, keptC_fold])

theorem setUe_stored {s : State} (e : Fin 4) (x : Ue) (hs : s.stored) : (State.setUe s e x).stored := by
  unfold State.setUe
  try dsimp only
  with_reducible repeat' first
    | assumption | (simp only [stored_mk, kept_fold, cstored_mk, keptC_fold])

theorem setMg_stored {s : State} (g : Fin 8) (x : Mg) (hs : s.stored) :
    (State.setMg s g x).stored := kept_mem (s := s) hs (mem_frame_wf (mem_wf hs))

theorem tick_stored (t : Nat) {s : State} (hs : s.stored) : (tick t s).stored := by
  unfold tick
  try dsimp only
  with_reducible repeat' first
    | assumption | (simp only [stored_mk, kept_fold, cstored_mk, keptC_fold])

theorem emit_stored {s : State} (k : OutKind) (dest : Nat) (data : Bytes) (hs : s.stored) : (emit s k dest data).stored := by
  unfold emit
  try dsimp only
  with_reducible repeat' first
    | assumption | (simp only [stored_mk, kept_fold, cstored_mk, keptC_fold])

theorem fresh_stored {s : State} (hs : s.stored) : ((State.fresh s).2).stored := by
  unfold State.fresh
  try dsimp only
  with_reducible repeat' first
    | assumption | (simp only [stored_mk, kept_fold, cstored_mk, keptC_fold])

theorem logEv_stored {s : State} (source : Nat) (event : Nat) (part : Nat) (pl : Bytes) (hs : s.stored) :
    (logEv s source event part pl).stored := by
  unfold logEv
  dsimp only
  split
  · exact hs
  · exact kept_log (s := s) hs (alPut_rises _ _ _ 0 (log_rises hs) (by omega))

theorem logRated_stored {s : State} (ms : Nat) (source : Nat) (event : Nat) (part : Nat) (subject : Nat) (pl : Bytes)
    (hs : s.stored) : (logRated s ms source event part subject pl).stored := by
  unfold logRated
  dsimp only
  apply stored_ite
  · exact kept_log (logEv_stored source event part pl hs) (log_rises (logEv_stored source event part pl hs))
  · exact kept_log hs (log_rises hs)

theorem clCommit_stored {k : Cluster} (c : Fin 64) (ws : List WByte) (hk : k.stored) :
    (clCommit k c ws).stored := ⟨Sram.commit_wf _ _ hk.1, Sram.commitBank_wf _ _ hk.2.1, Sram.commitBank_wf _ _ hk.2.2.1, hk.2.2.2.1, hk.2.2.2.2⟩

theorem devCommit_stored {s : State} (ws : List WByte) (hs : s.stored) : (devCommit s ws).stored := by
  unfold devCommit
  extract_lets d cs sp ct s1 s2 s3
  have h1 : State.stored s1 := kept_mem (s := s) hs (Mem.commit_wf d (mem_wf hs))
  have h2 : State.stored s2 := foldl_keeps (P := State.stored) h1
    (fun t c ht => stored_ite (setCl_stored c ht (clCommit_stored c ws (cl_stored c ht))) ht)
  have h3 : State.stored s3 := foldl_keeps (P := State.stored) h2 (fun t d ht => by
    split
    · exact kept_spine (s := t) ht (Sram.commit_wf _ _ (spine_wf d ht))
    · exact ht)
  exact kept_ctl (s := s3) h3 (Sram.commit_wf _ _ (ctl_wf h3))

theorem devWrite_stored {s : State} (a : Nat) (b : Bytes) (poi : Bool) (hs : s.stored) : (devWrite s a b poi).stored := by
  unfold devWrite
  try dsimp only
  with_reducible repeat' first
    | assumption | apply devCommit_stored

theorem logMiss_stored {s : State} (a : Nat) (hs : s.stored) : (logMiss s a).stored := by
  unfold logMiss
  try dsimp only
  with_reducible repeat' first
    | assumption | apply logEv_stored

theorem missIn_stored {s : State} (a : Nat) (n : Nat) (hs : s.stored) : (missIn s a n).stored := by
  unfold missIn
  try dsimp only
  with_reducible repeat' first
    | assumption | apply stored_ite | apply logMiss_stored | split

theorem pCommit_stored {s : State} (p : Fin 8) (ws : List WByte) (hs : s.stored) : (pCommit s p ws).stored := by
  unfold pCommit
  try dsimp only
  with_reducible repeat' first
    | assumption | intro _ | (simp only [stored_mk, kept_fold, cstored_mk, keptC_fold]) | apply devCommit_stored

theorem pWrite_stored {s : State} (p : Fin 8) (a : Nat) (b : Bytes) (poi : Bool) (hs : s.stored) : (pWrite s p a b poi).stored := by
  unfold pWrite
  try dsimp only
  with_reducible repeat' first
    | assumption | apply pCommit_stored

theorem countOp_stored {s : State} (p : Fin 8) (k : Nat) (n : Nat) (hs : s.stored) : (countOp s p k n).stored := by
  unfold countOp
  try dsimp only
  with_reducible repeat' first
    | assumption | (simp only [stored_mk, kept_fold, cstored_mk, keptC_fold]) | apply stored_ite | apply setSlot_stored | split

theorem rowEnters_stored {k : Cluster} (q : Pass) (hk : k.stored) : (rowEnters k q).stored := hk

theorem rowDone_stored {k : Cluster} (q : Pass) (hk : k.stored) : (rowDone k q).stored :=
  have h := bankCommit_stored (k.plk.selFor q) q.p.comp _ hk
  ⟨Sram.commit_wf _ _ h.1, h.2⟩

theorem cplankEv_stored {k : Cluster} (e : PlankEv) (hk : k.stored) : (k.plankEv e).stored := by
  cases e with
  | row q => exact rowDone_stored q hk
  | stage q => exact hk
  | load e => exact hk
  | enter q => exact rowEnters_stored q hk

theorem runPlank_stored (held : Bool) (lim cyc : Nat) : ∀ (n : Nat) {k : Cluster}, k.stored → (runPlank n held lim cyc k).stored
  | 0, _, hk => hk
  | n + 1, k, hk => by
    unfold runPlank
    split
    · exact hk
    · split
      · exact hk
      · exact runPlank_stored held lim cyc n (cplankEv_stored _ hk)

theorem rowsNow_stored {s : State} (c : Fin 64) (hs : s.stored) : (rowsNow s c).stored := by
  unfold rowsNow
  dsimp only
  split
  · exact hs
  · exact setCl_stored c hs (runPlank_stored _ _ _ _ (cl_stored c hs))

theorem planksNow_stored {s : State} (hs : s.stored) : (planksNow s).stored :=
  foldl_keeps (P := State.stored) hs (fun _ c ht => rowsNow_stored c ht)

theorem syncHdr_stored {s : State} (p : Fin 8) (hs : s.stored) : (syncHdr s p).stored := by
  unfold syncHdr
  try dsimp only
  with_reducible repeat' first
    | assumption | apply stored_ite | apply devCommit_stored | split

theorem setPState_stored {s : State} (p : Fin 8) (st : PState) (hs : s.stored) : (setPState s p st).stored := by
  unfold setPState
  try dsimp only
  with_reducible repeat' first
    | assumption | (simp only [stored_mk, kept_fold, cstored_mk, keptC_fold]) | apply syncHdr_stored | apply setSlot_stored

theorem setLed_stored {s : State} (p : Fin 8) (l : Ledger) (hs : s.stored) : (setLed s p l).stored := by
  unfold setLed
  try dsimp only
  with_reducible repeat' first
    | assumption | (simp only [stored_mk, kept_fold, cstored_mk, keptC_fold]) | apply setSlot_stored

theorem logSch_stored {s : State} (event : Nat) (part : Nat) (pl : Bytes) (hs : s.stored) : (logSch s event part pl).stored := by
  unfold logSch
  try dsimp only
  with_reducible repeat' first
    | assumption | apply logEv_stored

theorem settleUpdate_stored {s : State} (hs : s.stored) : (settleUpdate s).stored := by
  unfold settleUpdate
  try dsimp only
  with_reducible repeat' first
    | assumption | (simp only [stored_mk, kept_fold, cstored_mk, keptC_fold]) | apply stored_ite | split

theorem dropPend_stored {s : State} (c : Fin 64) (hs : s.stored) : (dropPend s c).stored := by
  unfold dropPend
  try dsimp only
  with_reducible repeat' first
    | assumption | intro _ | (simp only [stored_mk, kept_fold, cstored_mk, keptC_fold]) | apply settleUpdate_stored

theorem fwTracePoint_stored {s : State} (source : Nat) (part : Nat) (mask : BitVec 256) (hs : s.stored) :
    (fwTracePoint s source part mask).stored := by
  unfold fwTracePoint
  try dsimp only
  with_reducible repeat' first
    | assumption | intro _ | apply stored_ite | apply fresh_stored | apply logEv_stored | split

theorem putStored_stored {s : State} (p : Fin 8) (e : Stored) (hs : s.stored) : (putStored s p e).stored := by
  unfold putStored
  try dsimp only
  with_reducible repeat' first
    | assumption | (simp only [stored_mk, kept_fold, cstored_mk, keptC_fold]) | apply stored_ite | apply devWrite_stored
    | apply setLed_stored | split

theorem writeReply_stored {s : State} (p : Fin 8) (num : Nat) (reply : Bytes) (hs : s.stored) : (writeReply s p num reply).stored := by
  unfold writeReply
  try dsimp only
  with_reducible repeat' first
    | assumption | apply stored_ite | apply devWrite_stored | split

theorem meterTag_stored {s : State} (p : Fin 8) (ticket : W64) (hs : s.stored) : (meterTag s p ticket).stored := by
  unfold meterTag
  try dsimp only
  with_reducible repeat' first
    | assumption | (simp only [stored_mk, kept_fold, cstored_mk, keptC_fold]) | apply stored_ite | split

theorem answer_stored {s : State} (p : Fin 8) (t : Ticket) (status : Nat) (detail : Nat) (value : Nat) (hs : s.stored) :
    (answer s p t status detail value).stored := by
  unfold answer
  try dsimp only
  with_reducible repeat' first
    | assumption | intro _ | (simp only [stored_mk, kept_fold, cstored_mk, keptC_fold]) | apply stored_ite | apply setLed_stored
    | apply putStored_stored | apply writeReply_stored | apply meterTag_stored | split

theorem beginTicket_stored {s : State} (p : Fin 8) (num : Nat) (hs : s.stored) : (beginTicket s p num).stored := by
  unfold beginTicket
  try dsimp only
  with_reducible repeat' first
    | assumption | intro _ | (simp only [stored_mk, kept_fold, cstored_mk, keptC_fold]) | apply stored_ite | apply setLed_stored | split

theorem mgmtSend_stored {s : State} (r : MgmtReq) (b : Bytes) (hs : s.stored) : (mgmtSend s r b).stored := by
  unfold mgmtSend
  try dsimp only
  with_reducible repeat' first
    | assumption | apply emit_stored

theorem mgmtReply_stored {s : State} (r : MgmtReq) (op : Nat) (status : Nat) (detail : Nat) (data : Bytes) (hs : s.stored) :
    (mgmtReply s r op status detail data).stored := by
  unfold mgmtReply
  try dsimp only
  with_reducible repeat' first
    | assumption | (simp only [stored_mk, kept_fold, cstored_mk, keptC_fold]) | apply mgmtSend_stored | apply devWrite_stored

theorem answerTest_stored {s : State} (p : Fin 8) (ticket : Option Nat) (mgmt : Option MgmtReq) (status : Nat) (detail : Nat) (value : Nat) (hs : s.stored) :
    (answerTest s p ticket mgmt status detail value).stored := by
  unfold answerTest
  try dsimp only
  with_reducible repeat' first
    | assumption | apply stored_ite | apply answer_stored | apply mgmtReply_stored | split

theorem putFlit_stored {s : State} (q : Fin 16) (w : WaitFlit) (hs : s.stored) : (putFlit s q w).stored := by
  unfold putFlit
  try dsimp only
  with_reducible repeat' first
    | assumption | (simp only [stored_mk, kept_fold, cstored_mk, keptC_fold]) | apply stored_ite | apply setLink_stored
    | apply emit_stored | apply setPort_stored | split

theorem sendFlit_stored {s : State} (q : Fin 16) (w : WaitFlit) (hs : s.stored) : (sendFlit s q w).stored := by
  unfold sendFlit
  try dsimp only
  with_reducible repeat' first
    | assumption | (simp only [stored_mk, kept_fold, cstored_mk, keptC_fold]) | apply stored_ite | apply putFlit_stored
    | apply setLink_stored | split

theorem drainN_stored (q : Fin 16) : ∀ (n : Nat) {s : State}, s.stored → (drainN q n s).stored
  | 0, _, hs => hs
  | n + 1, s, hs => by
    unfold drainN
    split
    · exact hs
    · exact drainN_stored q n (putFlit_stored _ _ (setLink_stored _ _ hs))

theorem drainFlits_stored {s : State} (q : Fin 16) (hs : s.stored) : (drainFlits s q).stored := by
  unfold drainFlits
  try dsimp only
  with_reducible repeat' first
    | assumption | apply drainN_stored

theorem sendIdle_stored {s : State} (q : Fin 16) (hs : s.stored) : (sendIdle s q).stored := by
  unfold sendIdle
  try dsimp only
  with_reducible repeat' first
    | assumption | (simp only [stored_mk, kept_fold, cstored_mk, keptC_fold]) | apply stored_ite | apply putFlit_stored | split

theorem sendSpdm_stored {s : State} (q : Fin 16) (hs : s.stored) : (sendSpdm s q).stored := by
  unfold sendSpdm
  try dsimp only
  with_reducible repeat' first
    | assumption | (simp only [stored_mk, kept_fold, cstored_mk, keptC_fold]) | apply fresh_stored | apply sendFlit_stored

theorem sendMsg_stored {s : State} (q : Fin 16) (typ : BitVec 4) (vc : BitVec 2) (data : Bytes) (poi : List Nat) (hs : s.stored) :
    (sendMsg s q typ vc data poi).stored := by
  unfold sendMsg
  try dsimp only
  with_reducible repeat' first
    | assumption | intro _ | (simp only [stored_mk, kept_fold, cstored_mk, keptC_fold]) | apply stored_ite | apply sendFlit_stored
    | apply foldl_keeps (P := State.stored) | split

theorem sendTwin_stored {s : State} (qs : List (Fin 16)) (data : Bytes) (hs : s.stored) : (sendTwin s qs data).stored := by
  unfold sendTwin
  try dsimp only
  with_reducible repeat' first
    | assumption | intro _ | (simp only [stored_mk, kept_fold, cstored_mk, keptC_fold]) | apply sendFlit_stored
    | apply foldl_keeps (P := State.stored)

theorem dropLow_stored {s : State} (lo : Nat) (n : Nat) (hs : s.stored) : (dropLow s lo n).stored := by
  unfold dropLow
  try dsimp only
  with_reducible repeat' first
    | assumption | intro _ | (simp only [stored_mk, kept_fold, cstored_mk, keptC_fold])

theorem halfWrite_stored {s : State} (addr : Nat) (who : Requester) (part : RegPart) (val : W64) (old : W64) (rw : Bool)
    (hs : s.stored) : ((halfWrite s addr who part val old rw).1).stored := by
  unfold halfWrite
  try dsimp only
  with_reducible repeat' first
    | assumption | intro _ | (simp only [stored_mk, kept_fold, cstored_mk, keptC_fold]) | apply stored_ite | split

theorem noteIdle_stored {s : State} (d : Fin 2) (hs : s.stored) : (noteIdle s d).stored := by
  unfold noteIdle
  try dsimp only
  with_reducible repeat' first
    | assumption | (simp only [stored_mk, kept_fold, cstored_mk, keptC_fold]) | apply stored_ite | split

theorem setOn_stored {s : State} (i : Nat) (on : Bool) (hs : s.stored) : (setOn s i on).stored := by
  unfold setOn
  try dsimp only
  with_reducible repeat' first
    | assumption | (simp only [stored_mk, kept_fold, cstored_mk, keptC_fold])

theorem wantOn_stored {s : State} (i : Nat) (hs : s.stored) : (wantOn s i).stored := by
  unfold wantOn
  try dsimp only
  with_reducible repeat' first
    | assumption | (simp only [stored_mk, kept_fold, cstored_mk, keptC_fold]) | apply stored_ite | split

theorem powerUpSp_stored {s : State} (d : Fin 2) (hs : s.stored) : (powerUpSp s d).stored := by
  unfold powerUpSp
  try dsimp only
  with_reducible repeat' first
    | assumption | (simp only [stored_mk, cstored_mk]) | apply setOn_stored | apply kept_spine | exact Sram.empty_wf

theorem wantCl_stored {s : State} (c : Fin 64) (hs : s.stored) : (wantCl s c).stored := by
  unfold wantCl
  try dsimp only
  with_reducible repeat' first
    | assumption | apply wantOn_stored

theorem powerDownCl_stored {s : State} (c : Fin 64) (hs : s.stored) : (powerDownCl s c).stored := by
  unfold powerDownCl
  try dsimp only
  with_reducible repeat' first
    | assumption | intro _ | (simp only [stored_mk, kept_fold, cstored_mk, keptC_fold]) | apply dropPend_stored | apply setOn_stored
    | apply creset_stored | apply noteIdle_stored | apply dropLow_stored | apply creset_stored | apply setCl_stored | apply cl_stored

theorem powerDownSp_stored {s : State} (d : Fin 2) (hs : s.stored) : (powerDownSp s d).stored := by
  unfold powerDownSp
  try dsimp only
  with_reducible repeat' first
    | assumption | (simp only [stored_mk, cstored_mk]) | apply noteIdle_stored | apply setOn_stored | apply kept_spine
    | exact Sram.empty_wf

theorem powerDownMg_stored {s : State} (g : Fin 8) (hs : s.stored) : (powerDownMg s g).stored := by
  unfold powerDownMg
  try dsimp only
  with_reducible repeat' first
    | assumption | intro _ | (simp only [stored_mk, cstored_mk]) | apply stored_ite | apply creset_stored | apply dropLow_stored
    | apply setOn_stored | apply kept_mem | apply Mem.filter_wf | apply mem_wf | split

theorem powerDownLg_stored {s : State} (g : Fin 8) (hs : s.stored) : (powerDownLg s g).stored := by
  unfold powerDownLg
  try dsimp only
  with_reducible repeat' first
    | assumption | intro _ | (simp only [stored_mk, kept_fold, cstored_mk, keptC_fold]) | apply stored_ite | apply dropLow_stored
    | apply setPort_stored | apply creset_stored | apply setLink_stored | apply setOn_stored | apply foldl_keeps (P := State.stored)
    | split

theorem powerDownUe_stored {s : State} (e : Fin 4) (hs : s.stored) : (powerDownUe s e).stored := by
  unfold powerDownUe
  try dsimp only
  with_reducible repeat' first
    | assumption | apply setUe_stored | apply creset_stored | apply setCol_stored | apply setOn_stored | apply dropLow_stored

theorem powerDownApp1_stored {s : State} (hs : s.stored) : (powerDownApp1 s).stored := by
  unfold powerDownApp1
  try dsimp only
  with_reducible repeat' first
    | assumption | intro _ | (simp only [stored_mk, kept_fold, cstored_mk, keptC_fold]) | apply stored_ite | apply setOn_stored | split

theorem releaseHarts_stored {s : State} (m : BitVec 16) (hs : s.stored) : (releaseHarts s m).stored := by
  unfold releaseHarts
  try dsimp only
  with_reducible repeat' first
    | assumption | intro _ | (simp only [stored_mk, kept_fold, cstored_mk, keptC_fold]) | apply stored_ite | split

theorem writeImage_stored {s : State} (c : Fin 64) (hs : s.stored) : (writeImage s c).stored := by
  unfold writeImage
  try dsimp only
  with_reducible repeat' first
    | assumption | (simp only [stored_mk, kept_fold, cstored_mk, keptC_fold]) | apply stored_ite | apply cstored_ite | apply setCl_stored
    | apply cl_stored | split

theorem powerUpCl_stored {s : State} (c : Fin 64) (hs : s.stored) : (powerUpCl s c).stored := by
  unfold powerUpCl
  try dsimp only
  with_reducible repeat' first
    | assumption | (simp only [stored_mk, kept_fold, cstored_mk, keptC_fold]) | apply creset_stored | apply writeImage_stored
    | apply setOn_stored | apply creset_stored | apply setCl_stored | apply cl_stored

theorem chalt_stored {k : Cluster} (hk : k.stored) : (Cluster.halt k).stored := by
  unfold Cluster.halt
  try dsimp only
  with_reducible repeat' first
    | assumption | (simp only [stored_mk, kept_fold, cstored_mk, keptC_fold]) | apply setCl_stored | apply cl_stored

theorem calarm_stored {k : Cluster} (hk : k.stored) : (Cluster.alarm k).stored := by
  unfold Cluster.alarm
  try dsimp only
  with_reducible repeat' first
    | assumption | (simp only [stored_mk, cstored_mk]) | apply chalt_stored | apply setCl_stored | apply cl_stored | apply keptC_vreg
    | exact Sram.empty_wf

theorem setTwin_stored {s : State} (p : Fin 8) (t : Twin) (hs : s.stored) : (setTwin s p t).stored := by
  unfold setTwin
  try dsimp only
  with_reducible repeat' first
    | assumption | (simp only [stored_mk, kept_fold, cstored_mk, keptC_fold]) | apply setSlot_stored

theorem park_stored {s : State} (p : Fin 8) (hs : s.stored) : (park s p).stored := by
  unfold park
  try dsimp only
  with_reducible repeat' first
    | assumption | intro _ | (simp only [stored_mk, kept_fold, cstored_mk, keptC_fold]) | apply stored_ite | apply answer_stored
    | apply setSlot_stored | apply setPState_stored | apply sendTwin_stored | apply foldl_keeps (P := State.stored) | split

theorem endRun_stored {s : State} (p : Fin 8) (status : Nat) (detail : Nat) (st : PState) (hs : s.stored) :
    (endRun s p status detail st).stored := by
  unfold endRun
  try dsimp only
  with_reducible repeat' first
    | assumption | (simp only [stored_mk, kept_fold, cstored_mk, keptC_fold]) | apply stored_ite | apply setPState_stored
    | apply answer_stored | apply setSlot_stored | apply park_stored | split

theorem failRun_stored {s : State} (p : Fin 8) (source : Nat) (code : Nat) (hs : s.stored) : (failRun s p source code).stored := by
  unfold failRun
  try dsimp only
  with_reducible repeat' first
    | assumption | apply stored_ite | apply endRun_stored | split

theorem sendRecover_stored {s : State} (p : Fin 8) (hs : s.stored) : (sendRecover s p).stored := by
  unfold sendRecover
  try dsimp only
  with_reducible repeat' first
    | assumption | apply sendTwin_stored

theorem noCheckpoint_stored {s : State} (p : Fin 8) (reason : Nat) (r : Nat) (target : Option Nat) (hs : s.stored) :
    (noCheckpoint s p reason r target).stored := by
  unfold noCheckpoint
  try dsimp only
  with_reducible repeat' first
    | assumption | (simp only [stored_mk, kept_fold, cstored_mk, keptC_fold]) | apply logEv_stored | apply setTwin_stored
    | apply failRun_stored

theorem dropStream_stored {s : State} (p : Fin 8) (hs : s.stored) : (dropStream s p).stored := by
  unfold dropStream
  try dsimp only
  with_reducible repeat' first
    | assumption | (simp only [stored_mk, kept_fold, cstored_mk, keptC_fold]) | apply setSlot_stored

theorem raiseRecovery_stored {s : State} (p : Fin 8) (cause : Nat) (r : Nat) (hs : s.stored) : (raiseRecovery s p cause r).stored := by
  unfold raiseRecovery
  try dsimp only
  with_reducible repeat' first
    | assumption | (simp only [stored_mk, kept_fold, cstored_mk, keptC_fold]) | apply stored_ite | apply noCheckpoint_stored
    | apply dropStream_stored | apply setTwin_stored | apply setPState_stored | apply sendRecover_stored | apply logEv_stored | split

theorem waitRejoin_stored {s : State} (p : Fin 8) (hs : s.stored) : (waitRejoin s p).stored := by
  unfold waitRejoin
  try dsimp only
  with_reducible repeat' first
    | assumption | (simp only [stored_mk, kept_fold, cstored_mk, keptC_fold]) | apply setTwin_stored

theorem haltClusters_stored {s : State} (p : Fin 8) (hs : s.stored) : (haltClusters s p).stored := by
  unfold haltClusters
  try dsimp only
  with_reducible repeat' first
    | assumption | intro _ | (simp only [stored_mk, kept_fold, cstored_mk, keptC_fold]) | apply stored_ite | apply cstored_ite
    | apply chalt_stored | apply planksNow_stored | apply setCl_stored | apply cl_stored | apply foldl_keeps (P := State.stored) | split

theorem rerunStep_stored {s : State} (p : Fin 8) (hs : s.stored) : (rerunStep s p).stored := by
  unfold rerunStep
  try dsimp only
  with_reducible repeat' first
    | assumption | (simp only [stored_mk, kept_fold, cstored_mk, keptC_fold]) | apply stored_ite | apply haltClusters_stored
    | apply setPState_stored | apply setSlot_stored | split

theorem spareCluster_stored {s : State} (c : Fin 64) (hs : s.stored) : (spareCluster s c).stored := by
  unfold spareCluster
  try dsimp only
  with_reducible repeat' first
    | assumption | intro _ | (simp only [stored_mk, kept_fold, cstored_mk, keptC_fold]) | apply stored_ite | apply logEv_stored
    | apply failRun_stored | apply waitRejoin_stored | apply sendTwin_stored | apply setSlot_stored | apply powerUpSp_stored
    | apply powerDownCl_stored | apply powerUpCl_stored | apply raiseRecovery_stored | apply rerunStep_stored | split

theorem restartCore_stored {s : State} (c : Fin 64) (savePoisoned : Bool) (hs : s.stored) : (restartCore s c savePoisoned).stored := by
  unfold restartCore
  try dsimp only
  with_reducible repeat' first
    | assumption | (simp only [stored_mk, kept_fold, cstored_mk, keptC_fold]) | apply stored_ite | apply cstored_ite
    | apply spareCluster_stored | apply logSch_stored | apply setCl_stored | apply cl_stored | split

theorem activateCores_stored {s : State} (p : Fin 8) (hs : s.stored) : (activateCores s p).stored := by
  unfold activateCores
  try dsimp only
  with_reducible repeat' first
    | assumption | intro _ | (simp only [stored_mk, kept_fold, cstored_mk, keptC_fold]) | apply settleUpdate_stored
    | apply restartCore_stored | apply foldl_keeps (P := State.stored)

theorem clLog_stored {s : State} (c : Fin 64) (event : Nat) (pl : Bytes) (hs : s.stored) : (clLog s c event pl).stored := by
  unfold clLog
  try dsimp only
  with_reducible repeat' first
    | assumption | apply logEv_stored

theorem foldInto_stored {k : Cluster} (L : Nat) (d : Nat) (f : Section → Section) (mine : FlushJob → Bool) (hk : k.stored) :
    (foldInto k L d f mine).stored := by
  unfold foldInto
  try dsimp only
  with_reducible repeat' first
    | assumption | intro _ | (simp only [stored_mk, kept_fold, cstored_mk, keptC_fold]) | apply stored_ite | apply cstored_ite
    | apply setCl_stored | apply cl_stored | split

theorem unwaitP_stored {k : Cluster} (n : Nat) (hk : k.stored) : (unwaitP k n).stored := by
  unfold unwaitP
  try dsimp only
  with_reducible repeat' first
    | assumption | intro _ | (simp only [stored_mk, kept_fold, cstored_mk, keptC_fold]) | apply stored_ite | apply cstored_ite
    | apply setCl_stored | apply cl_stored | split

theorem unwaitC_stored {k : Cluster} (n : Nat) (hk : k.stored) : (unwaitC k n).stored := by
  unfold unwaitC
  try dsimp only
  with_reducible repeat' first
    | assumption | intro _ | (simp only [stored_mk, kept_fold, cstored_mk, keptC_fold]) | apply stored_ite | apply cstored_ite
    | apply setCl_stored | apply cl_stored | split

theorem foldPass_stored {s : State} (c : Fin 64) (q : Pass) (o : PassRes) (hs : s.stored) : (foldPass s c q o).stored := by
  unfold foldPass
  try dsimp only
  with_reducible repeat' first
    | assumption | intro _ | (simp only [stored_mk, kept_fold, cstored_mk, keptC_fold]) | apply stored_ite | apply cstored_ite
    | apply unwaitP_stored | apply foldInto_stored | apply clLog_stored | apply setCl_stored | apply cl_stored | split

theorem foldCheck_stored {s : State} (c : Fin 64) (h : Check) (hs : s.stored) : (foldCheck s c h).stored := by
  unfold foldCheck
  try dsimp only
  with_reducible repeat' first
    | assumption | intro _ | (simp only [stored_mk, kept_fold, cstored_mk, keptC_fold]) | apply stored_ite | apply cstored_ite
    | apply foldInto_stored | apply unwaitC_stored | apply setCl_stored | apply cl_stored | split

theorem writeFlushes_stored {s : State} (c : Fin 64) (hs : s.stored) : (writeFlushes s c).stored := by
  unfold writeFlushes
  try dsimp only
  with_reducible repeat' first
    | assumption | intro _ | (simp only [stored_mk, kept_fold, cstored_mk, keptC_fold]) | apply stored_ite | apply cstored_ite
    | apply pWrite_stored | apply setCl_stored | apply cl_stored | apply foldl_keeps (P := State.stored) | split

theorem settleSeq_stored {s : State} (c : Fin 64) (hs : s.stored) : (settleSeq s c).stored := by
  unfold settleSeq
  try dsimp only
  with_reducible repeat' first
    | assumption | (simp only [stored_mk, kept_fold, cstored_mk, keptC_fold]) | apply stored_ite | apply cstored_ite | apply clLog_stored
    | apply failRun_stored | apply setCl_stored | apply cl_stored | split

theorem stopAt_stored {s : State} (c : Fin 64) (reason : Nat) (cls : Nat) (idx : Nat) (blk : Nat) (hs : s.stored) :
    (stopAt s c reason cls idx blk).stored := by
  unfold stopAt
  try dsimp only
  with_reducible repeat' first
    | assumption | (simp only [stored_mk, kept_fold, cstored_mk, keptC_fold]) | apply settleSeq_stored | apply setCl_stored
    | apply cl_stored

theorem stopHere_stored {s : State} (c : Fin 64) (reason : Nat) (w : IWord) (hs : s.stored) : (stopHere s c reason w).stored := by
  unfold stopHere
  try dsimp only
  with_reducible repeat' first
    | assumption | apply stopAt_stored | apply setCl_stored | apply cl_stored

theorem afterUnit_stored {s : State} (c : Fin 64) (hs : s.stored) : (afterUnit s c).stored := by
  unfold afterUnit
  try dsimp only
  with_reducible repeat' first
    | assumption | apply settleSeq_stored | apply writeFlushes_stored

theorem stepWord_stored {k : Cluster} (hk : k.stored) : (stepWord k).stored := by
  unfold stepWord
  try dsimp only
  with_reducible repeat' first
    | assumption | (simp only [stored_mk, kept_fold, cstored_mk, keptC_fold]) | apply setCl_stored | apply cl_stored

theorem advanceWord_stored {s : State} (c : Fin 64) (hs : s.stored) : (advanceWord s c).stored := by
  unfold advanceWord
  try dsimp only
  with_reducible repeat' first
    | assumption | apply stepWord_stored | apply setCl_stored | apply cl_stored

theorem enterBlock_stored {s : State} (c : Fin 64) (b : Block) (i : Nat) (calls : List RetPoint) (hs : s.stored) :
    (enterBlock s c b i calls).stored := by
  unfold enterBlock
  try dsimp only
  with_reducible repeat' first
    | assumption | (simp only [stored_mk, kept_fold, cstored_mk, keptC_fold]) | apply setCl_stored | apply cl_stored

theorem doTransfer_stored {s : State} (c : Fin 64) (w : IWord) (hs : s.stored) : (doTransfer s c w).stored := by
  unfold doTransfer
  try dsimp only
  with_reducible repeat' first
    | assumption | apply stored_ite | apply enterBlock_stored | apply stopHere_stored | split

theorem transfer_stored {s : State} (c : Fin 64) (w : IWord) (hs : s.stored) : (transfer s c w).stored := by
  unfold transfer
  try dsimp only
  with_reducible repeat' first
    | assumption | (simp only [stored_mk, kept_fold, cstored_mk, keptC_fold]) | apply stored_ite | apply cstored_ite
    | apply stopHere_stored | apply enterBlock_stored | apply setCl_stored | apply cl_stored | split

theorem releaseHeld_stored {s : State} (c : Fin 64) (hs : s.stored) : (releaseHeld s c).stored := by
  unfold releaseHeld
  try dsimp only
  with_reducible repeat' first
    | assumption | apply stored_ite | apply doTransfer_stored | apply setCl_stored | apply cl_stored | split

theorem traceRec_stored {s : State} (c : Fin 64) (kind : Nat) (point : Nat) (value : Nat) (hs : s.stored) :
    (traceRec s c kind point value).stored := by
  unfold traceRec
  try dsimp only
  with_reducible repeat' first
    | assumption | (simp only [stored_mk, cstored_mk]) | apply setCl_stored | apply cl_stored | apply keptC_trace | apply Sram.write_wf
    | apply cl_trace

theorem goCluster_stored {s : State} (c : Fin 64) (hs : s.stored) : (goCluster s c).stored := by
  unfold goCluster
  try dsimp only
  with_reducible repeat' first
    | assumption | (simp only [stored_mk, kept_fold, cstored_mk, keptC_fold]) | apply stored_ite | apply cstored_ite | apply stopAt_stored
    | apply setCl_stored | apply cl_stored | split

theorem runMove_stored {s : State} (c : Fin 64) (w : IWord) (d : Bytes) (lo : Nat) (hi : Nat) (hs : s.stored) :
    (runMove s c w d lo hi).stored := by
  unfold runMove
  try dsimp only
  with_reducible repeat' first
    | assumption | intro _ | apply stored_ite | apply planksNow_stored | apply pCommit_stored | apply setCl_stored | apply cl_stored
    | split

theorem startMove_stored {s : State} (c : Fin 64) (hs : s.stored) : (startMove s c).stored := by
  unfold startMove
  try dsimp only
  with_reducible repeat' first
    | assumption | (simp only [stored_mk, kept_fold, cstored_mk, keptC_fold]) | apply stored_ite | apply cstored_ite | apply setCl_stored
    | apply cl_stored | split

theorem stopMove_stored {s : State} (c : Fin 64) (hs : s.stored) : (stopMove s c).stored := by
  unfold stopMove
  try dsimp only
  with_reducible repeat' first
    | assumption | (simp only [stored_mk, kept_fold, cstored_mk, keptC_fold]) | apply stored_ite | apply cstored_ite | apply fresh_stored
    | apply runMove_stored | apply setCl_stored | apply cl_stored | split

theorem faultPass_stored {s : State} (c : Fin 64) (kind : Nat) (q : Pass) (hs : s.stored) : (faultPass s c kind q).stored := by
  unfold faultPass
  try dsimp only
  with_reducible repeat' first
    | assumption | intro _ | (simp only [stored_mk, kept_fold, cstored_mk, keptC_fold]) | apply stored_ite | apply cstored_ite
    | apply spareCluster_stored | apply clLog_stored | apply setCl_stored | apply cl_stored | split

theorem plankFault_stored {s : State} (c : Fin 64) (kind : Nat) (seqNo : Nat) (tile : Nat) (hs : s.stored) :
    (plankFault s c kind seqNo tile).stored := by
  unfold plankFault
  try dsimp only
  with_reducible repeat' first
    | assumption | intro _ | (simp only [stored_mk, kept_fold, cstored_mk, keptC_fold]) | apply stored_ite | apply cstored_ite
    | apply clLog_stored | apply faultPass_stored | apply setCl_stored | apply cl_stored | split

theorem reexecute_stored {s : State} (c : Fin 64) (hs : s.stored) : (reexecute s c).stored := by
  unfold reexecute
  try dsimp only
  with_reducible repeat' first
    | assumption | intro _ | (simp only [stored_mk, kept_fold, cstored_mk, keptC_fold]) | apply stored_ite | apply cstored_ite
    | apply setCl_stored | apply cl_stored | split

theorem startVec_stored {s : State} (c : Fin 64) (hs : s.stored) : (startVec s c).stored := by
  have hr := rowsNow_stored c hs
  have hk := cl_stored c hr
  unfold startVec
  dsimp only
  split
  · exact hs
  · split
    · exact hs
    · split
      · exact hs
      · exact setCl_stored c hr (cstored_mk.mpr (keptC_vreg (k := { (rowsNow s c).cl c with ops := _ })
          (keptC_ops (k := (rowsNow s c).cl c) hk (Sram.commit_wf _ _ (cl_ops hk))) (Sram.commit_wf _ _ (cl_vreg hk))))

theorem completeVec_stored {s : State} (c : Fin 64) (hs : s.stored) : (completeVec s c).stored := by
  unfold completeVec
  try dsimp only
  with_reducible repeat' first
    | assumption | (simp only [stored_mk, cstored_mk]) | apply stored_ite | apply cstored_ite | apply rowsNow_stored
    | apply countOp_stored | apply traceRec_stored | apply afterUnit_stored | apply startVec_stored | apply setCl_stored | apply cl_stored
    | apply keptC_ops | apply Sram.write_wf | apply cl_ops | split

theorem freezeCl_stored {s : State} (c : Fin 64) (why : FreezeCause) (hs : s.stored) : (freezeCl s c why).stored := by
  unfold freezeCl
  try dsimp only
  with_reducible repeat' first
    | assumption | (simp only [stored_mk, kept_fold, cstored_mk, keptC_fold]) | apply stored_ite | apply cstored_ite
    | apply traceRec_stored | apply setCl_stored | apply cl_stored | split

theorem releaseCl_stored {s : State} (c : Fin 64) (why : FreezeCause) (hs : s.stored) : (releaseCl s c why).stored := by
  unfold releaseCl
  try dsimp only
  with_reducible repeat' first
    | assumption | (simp only [stored_mk, kept_fold, cstored_mk, keptC_fold]) | apply stored_ite | apply cstored_ite
    | apply traceRec_stored | apply startVec_stored | apply setCl_stored | apply cl_stored | split

theorem pauseDone_stored {s : State} (p : Fin 8) (hs : s.stored) : (pauseDone s p).stored := by
  unfold pauseDone
  try dsimp only
  with_reducible repeat' first
    | assumption | intro _ | (simp only [stored_mk, kept_fold, cstored_mk, keptC_fold]) | apply stored_ite | apply setSlot_stored
    | apply answer_stored | apply setPState_stored | apply park_stored | apply setCl_stored | apply cl_stored | split

theorem enterPaused_stored {s : State} (c : Fin 64) (hs : s.stored) : (enterPaused s c).stored := by
  unfold enterPaused
  try dsimp only
  with_reducible repeat' first
    | assumption | (simp only [stored_mk, kept_fold, cstored_mk, keptC_fold]) | apply stored_ite | apply cstored_ite
    | apply pauseDone_stored | apply setCl_stored | apply cl_stored | split

theorem pauseCluster_stored {s : State} (c : Fin 64) (hs : s.stored) : (pauseCluster s c).stored := by
  unfold pauseCluster
  try dsimp only
  with_reducible repeat' first
    | assumption | intro _ | (simp only [stored_mk, kept_fold, cstored_mk, keptC_fold]) | apply stored_ite | apply cstored_ite
    | apply rowsNow_stored | apply stopMove_stored | apply enterPaused_stored | apply setCl_stored | apply cl_stored | split

theorem resumeCluster_stored {s : State} (c : Fin 64) (hs : s.stored) : (resumeCluster s c).stored := by
  unfold resumeCluster
  try dsimp only
  with_reducible repeat' first
    | assumption | intro _ | (simp only [stored_mk, kept_fold, cstored_mk, keptC_fold]) | apply stored_ite | apply cstored_ite
    | apply startMove_stored | apply startVec_stored | apply releaseHeld_stored | apply afterUnit_stored | apply setCl_stored
    | apply cl_stored | split

theorem endstepBody_stored (c : Fin 64) {s : State} (hs : s.stored) : (endstepBody c s).stored := by
  unfold endstepBody
  try dsimp only
  with_reducible repeat' first
    | assumption | intro _ | (simp only [stored_mk, kept_fold, cstored_mk, keptC_fold]) | apply stored_ite | apply cstored_ite
    | apply clLog_stored | apply setCl_stored | apply cl_stored | split

theorem loopBody_stored (c : Fin 64) {s : State} (w : IWord) (hs : s.stored) : (loopBody c s w).stored := by
  unfold loopBody
  try dsimp only
  with_reducible repeat' first
    | assumption | (simp only [stored_mk, kept_fold, cstored_mk, keptC_fold]) | apply stored_ite | apply cstored_ite
    | apply stopHere_stored | apply setCl_stored | apply cl_stored | split

theorem trapBody_stored (c : Fin 64) {s : State} (w : IWord) (hs : s.stored) : (trapBody c s w).stored := by
  unfold trapBody
  try dsimp only
  with_reducible repeat' first
    | assumption | (simp only [stored_mk, kept_fold, cstored_mk, keptC_fold]) | apply stored_ite | apply cstored_ite | apply setCl_stored
    | apply cl_stored | split

theorem sigBody_stored (c : Fin 64) {s : State} (w : IWord) (hs : s.stored) : (sigBody c s w).stored := by
  unfold sigBody
  try dsimp only
  with_reducible repeat' first
    | assumption | (simp only [stored_mk, kept_fold, cstored_mk, keptC_fold]) | apply stored_ite | apply cstored_ite
    | apply stopHere_stored | apply advanceWord_stored | apply setCl_stored | apply cl_stored | split

theorem applySig_stored {s : State} (src : Fin 64) (tgt : Fin 64) (g : SigOut) (hs : s.stored) : (applySig s src tgt g).stored := by
  unfold applySig
  try dsimp only
  with_reducible repeat' first
    | assumption | (simp only [stored_mk, kept_fold, cstored_mk, keptC_fold]) | apply stored_ite | apply cstored_ite | apply clLog_stored
    | apply setCl_stored | apply cl_stored | split

theorem ackSig_stored {s : State} (src : Fin 64) (tgt : Fin 64) (seq : Nat) (hs : s.stored) : (ackSig s src tgt seq).stored := by
  unfold ackSig
  try dsimp only
  with_reducible repeat' first
    | assumption | intro _ | (simp only [stored_mk, kept_fold, cstored_mk, keptC_fold]) | apply settleSeq_stored | apply setCl_stored
    | apply cl_stored

theorem deliverSig_stored {s : State} (src : Fin 64) (tgt : Fin 64) (seq : Nat) (ackLost : Bool) (hs : s.stored) :
    (deliverSig s src tgt seq ackLost).stored := by
  unfold deliverSig
  try dsimp only
  with_reducible repeat' first
    | assumption | intro _ | apply stored_ite | apply applySig_stored | apply ackSig_stored | apply setCl_stored | apply cl_stored | split

theorem wakeLate_stored {s : State} (c : Fin 64) (step : Nat) (hs : s.stored) : (wakeLate s c step).stored := by
  unfold wakeLate
  try dsimp only
  with_reducible repeat' first
    | assumption | apply stored_ite | apply logEv_stored | apply wantCl_stored | split

theorem waitBody_stored (c : Fin 64) {s : State} (w : IWord) (hs : s.stored) : (waitBody c s w).stored := by
  unfold waitBody
  try dsimp only
  with_reducible repeat' first
    | assumption | (simp only [stored_mk, kept_fold, cstored_mk, keptC_fold]) | apply stored_ite | apply cstored_ite
    | apply stopHere_stored | apply advanceWord_stored | apply setCl_stored | apply cl_stored | split

theorem releaseBar_stored {s : State} (p : Fin 8) (b : Nat) (hs : s.stored) : (releaseBar s p b).stored := by
  unfold releaseBar
  try dsimp only
  with_reducible repeat' first
    | assumption | intro _ | (simp only [stored_mk, kept_fold, cstored_mk, keptC_fold]) | apply stored_ite | apply cstored_ite
    | apply stepWord_stored | apply setCl_stored | apply cl_stored | apply foldl_keeps (P := State.stored) | split

theorem barBody_stored (c : Fin 64) {s : State} (w : IWord) (hs : s.stored) : (barBody c s w).stored := by
  unfold barBody
  try dsimp only
  with_reducible repeat' first
    | assumption | intro _ | (simp only [stored_mk, kept_fold, cstored_mk, keptC_fold]) | apply stored_ite | apply cstored_ite
    | apply stopHere_stored | apply releaseBar_stored | apply setCl_stored | apply cl_stored | split

theorem flushBody_stored (c : Fin 64) {s : State} (w : IWord) (hs : s.stored) : (flushBody c s w).stored := by
  unfold flushBody
  try dsimp only
  with_reducible repeat' first
    | assumption | intro _ | (simp only [stored_mk, kept_fold, cstored_mk, keptC_fold]) | apply stored_ite | apply cstored_ite
    | apply stopHere_stored | apply afterUnit_stored | apply advanceWord_stored | apply setCl_stored | apply cl_stored | split

theorem seqCtrl_stored {s : State} (who : Requester) (c : Fin 64) (f : State → State) (hs : s.stored) (hf : ∀ y : State, y.stored → (f y).stored) :
    (seqCtrl s who c f).stored := by
  unfold seqCtrl
  split
  · exact hf s hs
  · exact hs

theorem seqRelease_stored {s : State} (c : Fin 64) (hs : s.stored) : (seqRelease s c).stored := by
  unfold seqRelease
  try dsimp only
  with_reducible repeat' first
    | assumption | (simp only [stored_mk, kept_fold, cstored_mk, keptC_fold]) | apply stored_ite | apply cstored_ite
    | apply releaseHeld_stored | apply setCl_stored | apply cl_stored | split

theorem seqTrapDone_stored {s : State} (c : Fin 64) (hs : s.stored) : (seqTrapDone s c).stored := by
  unfold seqTrapDone
  try dsimp only
  with_reducible repeat' first
    | assumption | (simp only [stored_mk, kept_fold, cstored_mk, keptC_fold]) | apply stored_ite | apply cstored_ite
    | apply stepWord_stored | apply setCl_stored | apply cl_stored | split

theorem seqClrStop_stored {s : State} (c : Fin 64) (hs : s.stored) : (seqClrStop s c).stored := by
  unfold seqClrStop
  try dsimp only
  with_reducible repeat' first
    | assumption | (simp only [stored_mk, kept_fold, cstored_mk, keptC_fold]) | apply stored_ite | apply cstored_ite | apply setCl_stored
    | apply cl_stored | split

theorem acceptPass_stored {s : State} (c : Fin 64) (w : IWord) (hs : s.stored) : (acceptPass s c w).stored := by
  unfold acceptPass
  try dsimp only
  with_reducible repeat' first
    | assumption | intro _ | (simp only [stored_mk, kept_fold, cstored_mk, keptC_fold]) | apply stored_ite | apply cstored_ite
    | apply advanceWord_stored | apply setCl_stored | apply cl_stored | split

theorem passBody_stored (c : Fin 64) {s : State} (w : IWord) (hs : s.stored) : (passBody c s w).stored := by
  unfold passBody
  try dsimp only
  with_reducible repeat' first
    | assumption | apply stored_ite | apply rowsNow_stored | apply stopHere_stored | apply acceptPass_stored | apply setCl_stored
    | apply cl_stored | split

theorem commitPass_stored {s : State} (c : Fin 64) (q : Pass) (hs : s.stored) : (commitPass s c q).stored := by
  unfold commitPass
  try dsimp only
  with_reducible repeat' first
    | assumption | intro _ | (simp only [stored_mk, cstored_mk]) | apply stored_ite | apply cstored_ite | apply rowsNow_stored
    | apply foldPass_stored | apply countOp_stored | apply traceRec_stored | apply afterUnit_stored | apply setCl_stored | apply cl_stored
    | apply foldl_keeps (P := State.stored) | apply keptC_ops | apply Sram.commit_wf | apply cl_ops | split

theorem clrFaulted_stored {s : State} (c : Fin 64) (hs : s.stored) : (clrFaulted s c).stored := by
  unfold clrFaulted
  try dsimp only
  with_reducible repeat' first
    | assumption | intro _ | (simp only [stored_mk, kept_fold, cstored_mk, keptC_fold]) | apply stored_ite | apply cstored_ite
    | apply afterUnit_stored | apply setCl_stored | apply cl_stored | split

theorem moveBody_stored (c : Fin 64) {s : State} (w : IWord) (hs : s.stored) : (moveBody c s w).stored := by
  unfold moveBody
  try dsimp only
  with_reducible repeat' first
    | assumption | (simp only [stored_mk, kept_fold, cstored_mk, keptC_fold]) | apply stored_ite | apply cstored_ite
    | apply rowsNow_stored | apply stopHere_stored | apply advanceWord_stored | apply startMove_stored | apply setCl_stored
    | apply cl_stored | split

theorem noteReuse_stored {s : State} (c : Fin 64) (idx : Nat) (hs : s.stored) : (noteReuse s c idx).stored := by
  unfold noteReuse
  try dsimp only
  with_reducible repeat' first
    | assumption | (simp only [stored_mk, kept_fold, cstored_mk, keptC_fold]) | apply stored_ite | apply cstored_ite | apply clLog_stored
    | apply setCl_stored | apply cl_stored | split

theorem queueVec_stored {s : State} (c : Fin 64) (w : IWord) (tag : W32) (hs : s.stored) : (queueVec s c w tag).stored := by
  unfold queueVec
  try dsimp only
  with_reducible repeat' first
    | assumption | (simp only [stored_mk, kept_fold, cstored_mk, keptC_fold]) | apply stored_ite | apply cstored_ite
    | apply advanceWord_stored | apply startVec_stored | apply setCl_stored | apply cl_stored | split

theorem vecBody_stored (vop : Nat) (c : Fin 64) {s : State} (w : IWord) (hs : s.stored) : (vecBody vop c s w).stored := by
  unfold vecBody
  try dsimp only
  with_reducible repeat' first
    | assumption | apply stored_ite | apply stopHere_stored | apply rowsNow_stored | apply queueVec_stored | apply noteReuse_stored
    | apply setCl_stored | apply cl_stored | split

theorem rngSeedWrite_stored {s : State} (who : Requester) (c : Fin 64) (part : RegPart) (val : W64) (hs : s.stored) :
    (rngSeedWrite s who c part val).stored := by
  unfold rngSeedWrite
  try dsimp only
  with_reducible repeat' first
    | assumption | (simp only [stored_mk, kept_fold, cstored_mk, keptC_fold]) | apply stored_ite | apply cstored_ite
    | apply halfWrite_stored | apply setCl_stored | apply cl_stored | split

end Sys2Proof.Machine
end

