-- ==== Sys2Proof/Laws/KeepPackage.lean ====
section
/-! SUPPORT. What keeps the canonical form of the memories: one lemma for each of the operations of
MemOps to Update: main memory, start-up, alarms, brim ports, collectives, update engines. -/

namespace Sys2Proof.Machine

theorem setChan_stored {s : State} (g : Fin 8) (n : Fin 24) (c : Chan) (hs : s.stored) : (setChan s g n c).stored := by
  unfold setChan
  try dsimp only
  with_reducible repeat' first
    | assumption | (simp only [stored_mk, kept_fold, cstored_mk, keptC_fold]) | apply setMg_stored

theorem setPgrp_stored {s : State} (g : Fin 8) (m : Fin 2) (x : Pgrp) (hs : s.stored) : (setPgrp s g m x).stored := by
  unfold setPgrp
  try dsimp only
  with_reducible repeat' first
    | assumption | (simp only [stored_mk, kept_fold, cstored_mk, keptC_fold]) | apply setMg_stored

theorem pgrpLost_stored {s : State} (g : Fin 8) (m : Fin 2) (owner : Nat) (hs : s.stored) : (pgrpLost s g m owner).stored := by
  unfold pgrpLost
  try dsimp only
  with_reducible repeat' first
    | assumption | (simp only [stored_mk, kept_fold, cstored_mk, keptC_fold]) | apply stored_ite | apply setMg_stored | apply logEv_stored
    | apply raiseRecovery_stored | split

theorem claimChans_stored {s : State} (i : Fin 9) (pkgs : Nat) (parity : Nat) (hs : s.stored) : (claimChans s i pkgs parity).stored := by
  unfold claimChans
  try dsimp only
  with_reducible repeat' first
    | assumption | intro _ | (simp only [stored_mk, kept_fold, cstored_mk, keptC_fold]) | apply stored_ite | apply creset_stored
    | apply setMg_stored | apply pgrpLost_stored | apply foldl_keeps (P := State.stored) | split

theorem freeChans_stored {s : State} (i : Fin 9) (hs : s.stored) : (freeChans s i).stored := by
  unfold freeChans
  try dsimp only
  with_reducible repeat' first
    | assumption | intro _ | (simp only [stored_mk, kept_fold, cstored_mk, keptC_fold]) | apply stored_ite | apply creset_stored
    | apply setMg_stored | apply foldl_keeps (P := State.stored) | split

theorem logFallback_stored {s : State} (g : Fin 8) (code : Nat) (hs : s.stored) : (logFallback s g code).stored := by
  unfold logFallback
  try dsimp only
  with_reducible repeat' first
    | assumption | (simp only [stored_mk, kept_fold, cstored_mk, keptC_fold]) | apply logEv_stored | apply setMg_stored

theorem powerUpMg_stored {s : State} (g : Fin 8) (hs : s.stored) : (powerUpMg s g).stored := by
  unfold powerUpMg
  try dsimp only
  with_reducible repeat' first
    | assumption | apply setOn_stored | apply setMg_stored | apply creset_stored

theorem failChan_stored {s : State} (g : Fin 8) (n : Fin 24) (hs : s.stored) : (failChan s g n).stored := by
  unfold failChan
  try dsimp only
  with_reducible repeat' first
    | assumption | (simp only [stored_mk, kept_fold, cstored_mk, keptC_fold]) | apply stored_ite | apply setChan_stored
    | apply setMg_stored | apply logEv_stored | apply setPgrp_stored | apply pgrpLost_stored | split

theorem trainedMg_stored {s : State} (g : Fin 8) (code : Nat) (hs : s.stored) : (trainedMg s g code).stored := by
  unfold trainedMg
  try dsimp only
  with_reducible repeat' first
    | assumption | intro _ | (simp only [stored_mk, kept_fold, cstored_mk, keptC_fold]) | apply stored_ite | apply setMg_stored
    | apply claimChans_stored | apply foldl_keeps (P := State.stored) | split

theorem trainMg_stored {s : State} (g : Fin 8) (rate : Option Rate) (bad : BitVec 24) (hs : s.stored) :
    (trainMg s g rate bad).stored := by
  unfold trainMg
  try dsimp only
  with_reducible repeat' first
    | assumption | intro _ | (simp only [stored_mk, kept_fold, cstored_mk, keptC_fold]) | apply stored_ite | apply logFallback_stored
    | apply setMg_stored | apply failChan_stored | apply trainedMg_stored | apply foldl_keeps (P := State.stored) | split

theorem setOwnerRange_stored {s : State} (i : Fin 9) (o : Option Owner) (hs : s.stored) :
    (setOwnerRange s i o).stored := kept_mem (s := s) hs (mem_frame_wf (mem_wf hs))

theorem installKeys_stored {s : State} (i : Fin 9) (hs : s.stored) : (installKeys s i).stored := by
  unfold installKeys
  split
  · exact hs
  · dsimp only
    apply setOwnerRange_stored
    exact kept_mem (s := s.fresh.2) (fresh_stored hs) (Mem.forget_wf _ _ (mem_wf (fresh_stored hs)))

theorem zeroiseKeys_stored {s : State} (i : Fin 9) (hs : s.stored) : (zeroiseKeys s i).stored := by
  unfold zeroiseKeys
  try dsimp only
  with_reducible repeat' first
    | assumption | (simp only [stored_mk, cstored_mk]) | apply stored_ite | apply setOwnerRange_stored | apply kept_mem
    | apply Mem.forget_wf | apply mem_wf | split

theorem noteUe_stored {s : State} (g : Fin 8) (n : Fin 24) (hs : s.stored) : (noteUe s g n).stored := by
  unfold noteUe
  try dsimp only
  with_reducible repeat' first
    | assumption | intro _ | (simp only [stored_mk, kept_fold, cstored_mk, keptC_fold]) | apply stored_ite | apply setChan_stored
    | apply failChan_stored | split

theorem noteCe_stored {s : State} (g : Fin 8) (n : Fin 24) (hs : s.stored) : (noteCe s g n).stored := by
  unfold noteCe
  try dsimp only
  with_reducible repeat' first
    | assumption | (simp only [stored_mk, kept_fold, cstored_mk, keptC_fold]) | apply stored_ite | apply setChan_stored
    | apply setMg_stored | apply logRated_stored | split

theorem poisonGranule_stored {s : State} (g : Fin 8) (n : Fin 24) (off : Nat) (a : Option Nat) (hs : s.stored) :
    (poisonGranule s g n off a).stored := by
  unfold poisonGranule
  dsimp only
  apply logEv_stored
  split
  · exact setMg_stored _ _ hs
  · exact kept_mem (s := (State.fresh _).2) (fresh_stored (setMg_stored _ _ hs)) (Mem.commit_wf _ (mem_wf (fresh_stored (setMg_stored _ _ hs))))

theorem checkGranule_stored {s : State} (g : Fin 8) (n : Fin 24) (off : Nat) (a : Option Nat) (e : Ecc) (hs : s.stored) :
    (checkGranule s g n off a e).stored := by
  unfold checkGranule
  try dsimp only
  with_reducible repeat' first
    | assumption | apply stored_ite | apply noteCe_stored | apply noteUe_stored | apply poisonGranule_stored | split

theorem checkAddr_stored {s : State} (a : Nat) (e : Ecc) (hs : s.stored) : (checkAddr s a e).stored := by
  unfold checkAddr
  try dsimp only
  with_reducible repeat' first
    | assumption | apply stored_ite | apply checkGranule_stored | split

theorem dramWrite_stored {s : State} (a : Nat) (b : Bytes) (poi : Bool) (e : Ecc) (hs : s.stored) : (dramWrite s a b poi e).stored := by
  unfold dramWrite
  try dsimp only
  with_reducible repeat' first
    | assumption | intro _ | (simp only [stored_mk, kept_fold, cstored_mk, keptC_fold]) | apply stored_ite | apply checkAddr_stored
    | apply devWrite_stored | apply foldl_keeps (P := State.stored) | split

theorem noteSramCe_stored {s : State} (st : Store) (hs : s.stored) : (noteSramCe s st).stored := by
  unfold noteSramCe
  split
  · exact kept_mem (s := s) hs (mem_frame_wf (mem_wf hs))
  · exact hs

theorem mapStore_stored {s : State} (st : Store) (f : Sram → Sram) (hs : s.stored) (hf : ∀ x : Sram, x.wf = true → (f x).wf = true) :
    (mapStore s st f).stored := by
  cases st with
  | operand c =>
    have hk := cl_stored c hs
    exact setCl_stored c hs (keptC_ops (k := s.cl c) hk (hf _ (cl_ops hk)))
  | bankA c =>
    have hk := cl_stored c hs
    exact setCl_stored c hs (keptC_bankA (k := s.cl c) hk (hf _ (cl_bankA hk)))
  | bankB c =>
    have hk := cl_stored c hs
    exact setCl_stored c hs (keptC_bankB (k := s.cl c) hk (hf _ (cl_bankB hk)))
  | vreg c =>
    have hk := cl_stored c hs
    exact setCl_stored c hs (keptC_vreg (k := s.cl c) hk (hf _ (cl_vreg hk)))
  | spine d => exact kept_spine (s := s) hs (hf _ (spine_wf d hs))

theorem poisonUnit_stored {s : State} (st : Store) (off : Nat) (hs : s.stored) : (poisonUnit s st off).stored := by
  unfold poisonUnit
  dsimp only
  exact mapStore_stored st _ hs (fun x hx => Sram.write_wf _ _ _ _ hx)

theorem alertEdge_stored {old : State} {new : State} (_hold : old.stored) (hnew : new.stored) : (alertEdge old new).stored := by
  unfold alertEdge
  try dsimp only
  with_reducible repeat' first
    | assumption | apply stored_ite | apply emit_stored | split

theorem enterStage_stored {s : State} (n : Nat) (hs : s.stored) : (enterStage s n).stored := by
  unfold enterStage
  try dsimp only
  with_reducible repeat' first
    | assumption | (simp only [stored_mk, kept_fold, cstored_mk, keptC_fold]) | apply stored_ite | apply emit_stored | split

theorem bootFail_stored {s : State} (code : Nat) (event : Option Nat) (pl : Bytes) (fatal : Bool) (hs : s.stored) :
    (bootFail s code event pl fatal).stored := by
  unfold bootFail
  try dsimp only
  with_reducible repeat' first
    | assumption | (simp only [stored_mk, kept_fold, cstored_mk, keptC_fold]) | apply stored_ite | apply logEv_stored | apply emit_stored
    | apply alertEdge_stored | apply enterStage_stored | split

theorem finishStage6_stored {s : State} (hs : s.stored) : (finishStage6 s).stored := by
  unfold finishStage6
  dsimp only
  split
  · exact enterStage_stored 7 (installKeys_stored 8 hs)
  · exact hs

theorem undoLoad_stored {s : State} (j : LoadJob) (hs : s.stored) : (undoLoad s j).stored := by
  unfold undoLoad
  try dsimp only
  with_reducible repeat' first
    | assumption | intro _ | (simp only [stored_mk, kept_fold, cstored_mk, keptC_fold]) | apply setOwnerRange_stored
    | apply zeroiseKeys_stored | apply freeChans_stored | apply setSlot_stored | apply powerDownMg_stored
    | apply foldl_keeps (P := State.stored)

theorem rejectLoad_stored {s : State} (p : Fin 8) (t : Ticket) (reason : Nat) (dir : Nat) (image : Bytes) (hs : s.stored) :
    (rejectLoad s p t reason dir image).stored := by
  unfold rejectLoad
  try dsimp only
  with_reducible repeat' first
    | assumption | apply logEv_stored | apply answer_stored

theorem newNonce_stored {s : State} (hs : s.stored) : (newNonce s).stored := by
  unfold newNonce
  try dsimp only
  with_reducible repeat' first
    | assumption | (simp only [stored_mk, kept_fold, cstored_mk, keptC_fold]) | apply fresh_stored

theorem closeDebug_stored {s : State} (f : DbgOpen → Bool) (hs : s.stored) : (closeDebug s f).stored := by
  unfold closeDebug
  try dsimp only
  with_reducible repeat' first
    | assumption | intro _ | (simp only [stored_mk, kept_fold, cstored_mk, keptC_fold]) | apply stored_ite | apply newNonce_stored | split

theorem releaseUes_stored {s : State} (i : Img) (hs : s.stored) : (releaseUes s i).stored := by
  unfold releaseUes
  try dsimp only
  with_reducible repeat' first
    | assumption | intro _ | (simp only [stored_mk, kept_fold, cstored_mk, keptC_fold]) | apply setUe_stored
    | apply foldl_keeps (P := State.stored)

theorem emptySlot_stored {s : State} (p : Fin 8) (hs : s.stored) : (emptySlot s p).stored := by
  unfold emptySlot
  try dsimp only
  with_reducible repeat' first
    | assumption | intro _ | (simp only [stored_mk, kept_fold, cstored_mk, keptC_fold]) | apply stored_ite | apply releaseUes_stored
    | apply zeroiseKeys_stored | apply freeChans_stored | apply setSlot_stored | apply syncHdr_stored | apply closeDebug_stored | split

theorem failTickets_stored {s : State} (p : Fin 8) (sensor : Nat) (hs : s.stored) : (failTickets s p sensor).stored := by
  unfold failTickets
  try dsimp only
  with_reducible repeat' first
    | assumption | intro _ | (simp only [stored_mk, kept_fold, cstored_mk, keptC_fold]) | apply stored_ite | apply answer_stored
    | apply foldl_keeps (P := State.stored) | split

theorem eraseAll_stored {s : State} (hs : s.stored) : (eraseAll s).stored := by
  unfold eraseAll
  try dsimp only
  with_reducible repeat' first
    | assumption | intro _ | (simp only [stored_mk, kept_fold, cstored_mk, keptC_fold]) | apply stored_ite | apply cstored_ite
    | apply planksNow_stored | apply setLink_stored | apply creset_stored | apply setPort_stored | apply calarm_stored
    | apply setUe_stored | apply setCol_stored | apply zeroiseKeys_stored | apply setCl_stored | apply cl_stored
    | apply foldl_keeps (P := State.stored) | split

theorem abortAll_stored {s : State} (sensor : Nat) (hs : s.stored) : (abortAll s sensor).stored := by
  unfold abortAll
  try dsimp only
  with_reducible repeat' first
    | assumption | intro _ | (simp only [stored_mk, kept_fold, cstored_mk, keptC_fold]) | apply stored_ite | apply undoLoad_stored
    | apply rejectLoad_stored | apply emptySlot_stored | apply failTickets_stored | apply activateCores_stored
    | apply foldl_keeps (P := State.stored) | split

theorem retire_stored {s : State} (hs : s.stored) : (retire s).stored := by
  unfold retire
  try dsimp only
  with_reducible repeat' first
    | assumption | (simp only [stored_mk, kept_fold, cstored_mk, keptC_fold]) | apply logEv_stored

theorem raiseAlarm_stored {s : State} (sensor : Nat) (level : Nat) (hs : s.stored) : (raiseAlarm s sensor level).stored := by
  unfold raiseAlarm
  try dsimp only
  with_reducible repeat' first
    | assumption | intro _ | (simp only [stored_mk, kept_fold, cstored_mk, keptC_fold]) | apply stored_ite | apply alertEdge_stored
    | apply closeDebug_stored | apply logEv_stored | apply eraseAll_stored | apply zeroiseKeys_stored | apply abortAll_stored
    | apply retire_stored | apply bootFail_stored | split

theorem authFailure_stored {s : State} (hs : s.stored) : (authFailure s).stored := by
  unfold authFailure
  try dsimp only
  with_reducible repeat' first
    | assumption | intro _ | (simp only [stored_mk, kept_fold, cstored_mk, keptC_fold]) | apply stored_ite | apply raiseAlarm_stored
    | split

theorem rejectLoadAuth_stored {s : State} (p : Fin 8) (t : Ticket) (reason : Nat) (dir : Nat) (image : Bytes) (hs : s.stored) :
    (rejectLoadAuth s p t reason dir image).stored := by
  unfold rejectLoadAuth
  try dsimp only
  with_reducible repeat' first
    | assumption | apply stored_ite | apply rejectLoad_stored | apply authFailure_stored | split

theorem logDenied_stored {s : State} (who : Requester) (addr : Nat) (isWrite : Bool) (hs : s.stored) :
    (logDenied s who addr isWrite).stored := by
  unfold logDenied
  try dsimp only
  with_reducible repeat' first
    | assumption | apply stored_ite | apply logEv_stored | split

theorem logRefused_stored {s : State} (cmd : Nat) (hs : s.stored) : (logRefused s cmd).stored := by
  unfold logRefused
  try dsimp only
  with_reducible repeat' first
    | assumption | apply logEv_stored

theorem holdTemp_stored {s : State} (hs : s.stored) : (holdTemp s).stored := by
  unfold holdTemp
  try dsimp only
  with_reducible repeat' first
    | assumption | intro _ | (simp only [stored_mk, kept_fold, cstored_mk, keptC_fold]) | apply stored_ite | split

theorem clearStage_stored {s : State} (hs : s.stored) : (clearStage s).stored := by
  unfold clearStage
  exact kept_ctl (s := s) hs (Sram.filter_wf _ (ctl_wf hs))

theorem measureBundle_stored {s : State} (b : Bytes) (hs : s.stored) : (measureBundle s b).stored := by
  unfold measureBundle
  try dsimp only
  with_reducible repeat' first
    | assumption | (simp only [stored_mk, kept_fold, cstored_mk, keptC_fold])

theorem copyResident_stored {s : State} (off : Nat) (b : Bytes) (hs : s.stored) : (copyResident s off b).stored := by
  unfold copyResident
  try dsimp only
  with_reducible repeat' first
    | assumption | apply devWrite_stored

theorem sendAck_stored {s : State} (block : Nat) (hs : s.stored) : (sendAck s block).stored := by
  unfold sendAck
  try dsimp only
  with_reducible repeat' first
    | assumption | (simp only [stored_mk, kept_fold, cstored_mk, keptC_fold]) | apply emit_stored

theorem discover_stored {s : State} (hs : s.stored) : (discover s).stored := by
  unfold discover
  try dsimp only
  with_reducible repeat' first
    | assumption | (simp only [stored_mk, kept_fold, cstored_mk, keptC_fold]) | apply stored_ite | apply emit_stored | split

theorem startNet_stored {s : State} (hs : s.stored) : (startNet s).stored := by
  unfold startNet
  try dsimp only
  with_reducible repeat' first
    | assumption | (simp only [stored_mk, kept_fold, cstored_mk, keptC_fold]) | apply enterStage_stored | apply setOn_stored
    | apply discover_stored

theorem startFetch_stored {s : State} (ip : BitVec 32) (server : DhcpServer) (file : Bytes) (hs : s.stored) : (startFetch s ip server file).stored := by
  unfold startFetch
  try dsimp only
  with_reducible repeat' first
    | assumption | (simp only [stored_mk, kept_fold, cstored_mk, keptC_fold]) | apply stored_ite | apply enterStage_stored
    | apply clearStage_stored | apply emit_stored | split

theorem fetchFail_stored {s : State} (hs : s.stored) : (fetchFail s).stored := by
  unfold fetchFail
  try dsimp only
  with_reducible repeat' first
    | assumption | (simp only [stored_mk, kept_fold, cstored_mk, keptC_fold]) | apply bootFail_stored | apply alertEdge_stored

theorem rejectBundle_stored {s : State} (code : Nat) (hs : s.stored) : (rejectBundle s code).stored := by
  unfold rejectBundle
  try dsimp only
  with_reducible repeat' first
    | assumption | (simp only [stored_mk, kept_fold, cstored_mk, keptC_fold]) | apply bootFail_stored

theorem startFw_stored {s : State} (b : Bytes) (hs : s.stored) : (startFw s b).stored := by
  unfold startFw
  try dsimp only
  with_reducible repeat' first
    | assumption | intro _ | (simp only [stored_mk, kept_fold, cstored_mk, keptC_fold]) | apply enterStage_stored | apply setOn_stored
    | apply copyResident_stored | apply setOwnerRange_stored | apply wantOn_stored | apply meterTag_stored
    | apply foldl_keeps (P := State.stored)

theorem afterFetch_stored {s : State} (hs : s.stored) : (afterFetch s).stored := by
  unfold afterFetch
  try dsimp only
  with_reducible repeat' first
    | assumption | (simp only [stored_mk, kept_fold, cstored_mk, keptC_fold]) | apply stored_ite | apply discover_stored | split

theorem verifyBundle_stored {s : State} (v : SigVerdict) (hs : s.stored) : (verifyBundle s v).stored := by
  unfold verifyBundle
  try dsimp only
  with_reducible repeat' first
    | assumption | (simp only [stored_mk, kept_fold, cstored_mk, keptC_fold]) | apply stored_ite | apply enterStage_stored
    | apply afterFetch_stored | apply startFw_stored | apply measureBundle_stored | apply rejectBundle_stored | split

theorem hostMemFail_stored {s : State} (g : Fin 8) (hs : s.stored) : (hostMemFail s g).stored := by
  unfold hostMemFail
  try dsimp only
  with_reducible repeat' first
    | assumption | apply stored_ite | apply bootFail_stored | split

theorem scrubTests_stored {s : State} (g : Fin 8) (hs : s.stored) : (scrubTests s g).stored := by
  unfold scrubTests
  try dsimp only
  with_reducible repeat' first
    | assumption | intro _ | (simp only [stored_mk, kept_fold, cstored_mk, keptC_fold]) | apply answerTest_stored | apply setMg_stored
    | apply foldl_keeps (P := State.stored)

theorem retryRebuild_stored {s : State} (g : Fin 8) (m : Fin 2) (ok : Bool) (hs : s.stored) : (retryRebuild s g m ok).stored := by
  unfold retryRebuild
  try dsimp only
  with_reducible repeat' first
    | assumption | (simp only [stored_mk, kept_fold, cstored_mk, keptC_fold]) | apply stored_ite | apply setChan_stored
    | apply setPgrp_stored | split

theorem rebuildNow_stored {s : State} (who : Requester) (g : Fin 8) (m : Fin 2) (ok : Bool) (hs : s.stored) :
    (rebuildNow s who g m ok).stored := by
  unfold rebuildNow
  try dsimp only
  with_reducible repeat' first
    | assumption | apply stored_ite | apply retryRebuild_stored | split

theorem hbFail_stored {s : State} (a : Nat) (hs : s.stored) : (hbFail s a).stored := by
  unfold hbFail
  try dsimp only
  with_reducible repeat' first
    | assumption | (simp only [stored_mk, kept_fold, cstored_mk, keptC_fold]) | apply stored_ite | apply setMg_stored | split

theorem startPort_stored {s : State} (q : Fin 16) (hs : s.stored) : (startPort s q).stored := by
  unfold startPort
  try dsimp only
  with_reducible repeat' first
    | assumption | (simp only [stored_mk, kept_fold, cstored_mk, keptC_fold]) | apply stored_ite | apply setPort_stored | split

theorem startAttest_stored {s : State} (q : Fin 16) (hs : s.stored) : (startAttest s q).stored := by
  unfold startAttest
  try dsimp only
  with_reducible repeat' first
    | assumption | apply stored_ite | apply sendSpdm_stored | split

theorem initialTrain_stored {s : State} (q : Fin 16) (lanes : BitVec 8) (reversed : Bool) (hs : s.stored) :
    (initialTrain s q lanes reversed).stored := by
  unfold initialTrain
  try dsimp only
  with_reducible repeat' first
    | assumption | (simp only [stored_mk, kept_fold, cstored_mk, keptC_fold]) | apply stored_ite | apply setPort_stored
    | apply startAttest_stored | split

theorem denyPort_stored {s : State} (q : Fin 16) (bit : Nat) (event : Nat) (part : Nat) (hs : s.stored) :
    (denyPort s q bit event part).stored := by
  unfold denyPort
  try dsimp only
  with_reducible repeat' first
    | assumption | (simp only [stored_mk, kept_fold, cstored_mk, keptC_fold]) | apply logEv_stored | apply setPort_stored

theorem setRecovered_stored {s : State} (link : Bytes) (on : Bool) (hs : s.stored) : (setRecovered s link on).stored := by
  unfold setRecovered
  try dsimp only
  with_reducible repeat' first
    | assumption | (simp only [stored_mk, kept_fold, cstored_mk, keptC_fold]) | apply stored_ite | split

theorem sendHello_stored {s : State} (p : Fin 8) (q : Fin 16) (hs : s.stored) : (sendHello s p q).stored := by
  unfold sendHello
  try dsimp only
  with_reducible repeat' first
    | assumption | (simp only [stored_mk, kept_fold, cstored_mk, keptC_fold]) | apply stored_ite | apply sendTwin_stored
    | apply setTwin_stored | split

theorem portUp_stored {s : State} (q : Fin 16) (p : Fin 8) (link : Bytes) (hs : s.stored) : (portUp s q p link).stored := by
  unfold portUp
  try dsimp only
  with_reducible repeat' first
    | assumption | (simp only [stored_mk, kept_fold, cstored_mk, keptC_fold]) | apply setPort_stored | apply fresh_stored
    | apply setLink_stored | apply creset_stored | apply setRecovered_stored | apply sendHello_stored

theorem sendNak_stored {s : State} (q : Fin 16) (hs : s.stored) : (sendNak s q).stored := by
  unfold sendNak
  try dsimp only
  with_reducible repeat' first
    | assumption | (simp only [stored_mk, kept_fold, cstored_mk, keptC_fold]) | apply stored_ite | apply sendFlit_stored
    | apply setLink_stored | split

theorem badFlit_stored {s : State} (q : Fin 16) (bit : Nat) (hs : s.stored) : (badFlit s q bit).stored := by
  unfold badFlit
  try dsimp only
  with_reducible repeat' first
    | assumption | (simp only [stored_mk, kept_fold, cstored_mk, keptC_fold]) | apply sendNak_stored | apply setPort_stored

theorem takeAck_stored {s : State} (q : Fin 16) (f : Flit) (hs : s.stored) : (takeAck s q f).stored := by
  unfold takeAck
  try dsimp only
  with_reducible repeat' first
    | assumption | intro _ | (simp only [stored_mk, kept_fold, cstored_mk, keptC_fold]) | apply stored_ite | apply drainFlits_stored
    | apply setLink_stored | split

theorem deliverFlit_stored {s : State} (q : Fin 16) (f : Flit) (hs : s.stored) : (deliverFlit s q f).stored := by
  unfold deliverFlit
  try dsimp only
  with_reducible repeat' first
    | assumption | (simp only [stored_mk, kept_fold, cstored_mk, keptC_fold]) | apply stored_ite | apply setLink_stored
    | apply sendIdle_stored | apply takeAck_stored | apply setPort_stored | split

theorem tagFailure_stored {s : State} (q : Fin 16) (hs : s.stored) : (tagFailure s q).stored := by
  unfold tagFailure
  try dsimp only
  with_reducible repeat' first
    | assumption | intro _ | (simp only [stored_mk, kept_fold, cstored_mk, keptC_fold]) | apply stored_ite | apply badFlit_stored
    | apply setLink_stored | apply authFailure_stored | apply setPort_stored | split

theorem endRetrain_stored {s : State} (q : Fin 16) (lanes : BitVec 8) (hs : s.stored) : (endRetrain s q lanes).stored := by
  unfold endRetrain
  try dsimp only
  with_reducible repeat' first
    | assumption | (simp only [stored_mk, kept_fold, cstored_mk, keptC_fold]) | apply stored_ite | apply setPort_stored
    | apply setLink_stored | apply logEv_stored | apply drainFlits_stored | split

theorem countFec_stored {s : State} (q : Fin 16) (why : RetrainTrigger) (hs : s.stored) : (countFec s q why).stored := by
  unfold countFec
  try dsimp only
  with_reducible repeat' first
    | assumption | (simp only [stored_mk, kept_fold, cstored_mk, keptC_fold]) | apply stored_ite | apply setPort_stored | split

theorem brmRetrain_stored {s : State} (who : Requester) (q : Fin 16) (hs : s.stored) : (brmRetrain s who q).stored := by
  unfold brmRetrain
  try dsimp only
  with_reducible repeat' first
    | assumption | (simp only [stored_mk, kept_fold, cstored_mk, keptC_fold]) | apply stored_ite | apply setPort_stored
    | apply setLink_stored | apply creset_stored | split

theorem brmFullWidth_stored {s : State} (who : Requester) (q : Fin 16) (hs : s.stored) : (brmFullWidth s who q).stored := by
  unfold brmFullWidth
  try dsimp only
  with_reducible repeat' first
    | assumption | (simp only [stored_mk, kept_fold, cstored_mk, keptC_fold]) | apply stored_ite | apply setPort_stored | split

theorem brmDisable_stored {s : State} (who : Requester) (q : Fin 16) (value : Bool) (hs : s.stored) :
    (brmDisable s who q value).stored := by
  unfold brmDisable
  try dsimp only
  with_reducible repeat' first
    | assumption | (simp only [stored_mk, kept_fold, cstored_mk, keptC_fold]) | apply stored_ite | apply setPort_stored
    | apply setLink_stored | apply creset_stored | apply setRecovered_stored | apply startPort_stored | split

theorem logCol_stored {s : State} (e : Fin 4) (event : Nat) (pl : Bytes) (hs : s.stored) : (logCol s e event pl).stored := by
  unfold logCol
  try dsimp only
  with_reducible repeat' first
    | assumption | apply logEv_stored

theorem setColErr_stored {s : State} (e : Fin 4) (bit : Nat) (hs : s.stored) : (setColErr s e bit).stored := by
  unfold setColErr
  try dsimp only
  with_reducible repeat' first
    | assumption | (simp only [stored_mk, kept_fold, cstored_mk, keptC_fold]) | apply setCol_stored

theorem strayContrib_stored {s : State} (e : Fin 4) (h : ContribHdr) (hs : s.stored) : (strayContrib s e h).stored := by
  unfold strayContrib
  try dsimp only
  with_reducible repeat' first
    | assumption | (simp only [stored_mk, kept_fold, cstored_mk, keptC_fold]) | apply setCol_stored | apply logCol_stored
    | apply setColErr_stored

theorem dupContrib_stored {s : State} (e : Fin 4) (h : ContribHdr) (hs : s.stored) : (dupContrib s e h).stored := by
  unfold dupContrib
  try dsimp only
  with_reducible repeat' first
    | assumption | (simp only [stored_mk, kept_fold, cstored_mk, keptC_fold]) | apply stored_ite | apply setColErr_stored
    | apply setCol_stored | apply logCol_stored | split

theorem sendContrib_stored {s : State} (p : Fin 8) (e : Fin 4) (i : Img) (g : Geo) (collId : Nat) (m : CSend) (hs : s.stored) :
    (sendContrib s p e i g collId m).stored := by
  unfold sendContrib
  try dsimp only
  with_reducible repeat' first
    | assumption | apply stored_ite | apply countOp_stored | apply sendMsg_stored | split

theorem writeResult_stored {s : State} (p : Fin 8) (e : Fin 4) (g : Geo) (d : Bytes) (r : CResult) (hs : s.stored) :
    (writeResult s p e g d r).stored := by
  unfold writeResult
  try dsimp only
  with_reducible repeat' first
    | assumption | intro _ | apply stored_ite | apply pCommit_stored | apply setColErr_stored | split

theorem giveChunk_stored {s : State} (e : Fin 4) (k : Coll) (d : Bytes) (r : CResult) (hs : s.stored) : (giveChunk s e k d r).stored := by
  unfold giveChunk
  try dsimp only
  with_reducible repeat' first
    | assumption | intro _ | (simp only [stored_mk, kept_fold, cstored_mk, keptC_fold]) | apply setUe_stored

theorem pumpColl_stored {s : State} (p : Fin 8) (i : Img) (e : Fin 4) (k : Coll) (hs : s.stored) : ((pumpColl s p i e k).1).stored := by
  unfold pumpColl
  try dsimp only
  with_reducible repeat' first
    | assumption | intro _ | (simp only [stored_mk, kept_fold, cstored_mk, keptC_fold]) | apply stored_ite | apply sendContrib_stored
    | apply giveChunk_stored | apply writeResult_stored | apply foldl_keeps (P := State.stored) | split

theorem pumpAll_stored {s : State} (p : Fin 8) (i : Img) (e : Fin 4) (hs : s.stored) : (pumpAll s p i e).stored := by
  unfold pumpAll
  dsimp only
  exact setCol_stored _ _ (foldl_keeps (P := fun a : State × List Coll => a.1.stored) hs (fun a k ha => pumpColl_stored p i e k ha))

theorem takeContrib_stored {s : State} (i : Img) (e : Fin 4) (k : Coll) (q : Fin 16) (h : ContribHdr) (data : Bytes) (poi : List Nat)
    (hs : s.stored) : (takeContrib s i e k q h data poi).stored := by
  unfold takeContrib
  try dsimp only
  with_reducible repeat' first
    | assumption | intro _ | (simp only [stored_mk, kept_fold, cstored_mk, keptC_fold]) | apply stored_ite | apply strayContrib_stored
    | apply dupContrib_stored | apply setCol_stored | apply logCol_stored | apply setColErr_stored | split

theorem holdContrib_stored {s : State} (e : Fin 4) (q : Fin 16) (h : ContribHdr) (data : Bytes) (poi : List Nat) (hs : s.stored) :
    (holdContrib s e q h data poi).stored := by
  unfold holdContrib
  try dsimp only
  with_reducible repeat' first
    | assumption | (simp only [stored_mk, kept_fold, cstored_mk, keptC_fold]) | apply setCol_stored

theorem lateContrib_stored {s : State} (p : Fin 8) (i : Img) (e : Fin 4) (entry : Nat) (q : Fin 16) (h : ContribHdr) (hs : s.stored) :
    (lateContrib s p i e entry q h).stored := by
  unfold lateContrib
  try dsimp only
  with_reducible repeat' first
    | assumption | apply stored_ite | apply dupContrib_stored | apply strayContrib_stored | split

theorem routeContrib_stored {s : State} (p : Fin 8) (i : Img) (e : Fin 4) (q : Fin 16) (h : ContribHdr) (data : Bytes)
    (poi : List Nat) (hs : s.stored) : (routeContrib s p i e q h data poi).stored := by
  unfold routeContrib
  try dsimp only
  with_reducible repeat' first
    | assumption | intro _ | apply stored_ite | apply strayContrib_stored | apply holdContrib_stored | apply lateContrib_stored
    | apply pumpAll_stored | apply takeContrib_stored | split

theorem ueBegin_stored {s : State} (e : Fin 4) (hs : s.stored) : (ueBegin s e).stored := by
  unfold ueBegin
  try dsimp only
  with_reducible repeat' first
    | assumption | (simp only [stored_mk, kept_fold, cstored_mk, keptC_fold]) | apply stored_ite | apply setUe_stored
    | apply creset_stored | split

theorem colStepWrite_stored {s : State} (who : Requester) (e : Fin 4) (val : W32) (hs : s.stored) :
    (colStepWrite s who e val).stored := by
  unfold colStepWrite
  try dsimp only
  with_reducible repeat' first
    | assumption | intro _ | (simp only [stored_mk, kept_fold, cstored_mk, keptC_fold]) | apply stored_ite | apply setCol_stored
    | apply ueBegin_stored | apply strayContrib_stored | apply foldl_keeps (P := State.stored) | split

theorem colAbort_stored {s : State} (who : Requester) (e : Fin 4) (hs : s.stored) : (colAbort s who e).stored := by
  unfold colAbort
  try dsimp only
  with_reducible repeat' first
    | assumption | (simp only [stored_mk, kept_fold, cstored_mk, keptC_fold]) | apply stored_ite | apply setCol_stored | split

theorem notifySem_stored {s : State} (x : Fin 64 × Nat) (hs : s.stored) : (notifySem s x).stored := by
  unfold notifySem
  try dsimp only
  with_reducible repeat' first
    | assumption | (simp only [stored_mk, kept_fold, cstored_mk, keptC_fold]) | apply stored_ite | apply cstored_ite | apply clLog_stored
    | apply setCl_stored | apply cl_stored | split

theorem endColl_stored {s : State} (e : Fin 4) (k : Coll) (hs : s.stored) : (endColl s e k).stored := by
  unfold endColl
  try dsimp only
  with_reducible repeat' first
    | assumption | intro _ | (simp only [stored_mk, kept_fold, cstored_mk, keptC_fold]) | apply stored_ite | apply setCol_stored
    | apply setUe_stored | split

theorem logTwin_stored {s : State} (p : Fin 8) (event : Nat) (pl : Bytes) (hs : s.stored) : (logTwin s p event pl).stored := by
  unfold logTwin
  try dsimp only
  with_reducible repeat' first
    | assumption | apply logEv_stored

theorem goSolo_stored {s : State} (p : Fin 8) (hs : s.stored) : (goSolo s p).stored := by
  unfold goSolo
  try dsimp only
  with_reducible repeat' first
    | assumption | (simp only [stored_mk, kept_fold, cstored_mk, keptC_fold]) | apply stored_ite | apply logTwin_stored
    | apply setTwin_stored | split

theorem fence_stored {s : State} (p : Fin 8) (hs : s.stored) : (fence s p).stored := by
  unfold fence
  try dsimp only
  with_reducible repeat' first
    | assumption | (simp only [stored_mk, kept_fold, cstored_mk, keptC_fold]) | apply setTwin_stored | apply sendTwin_stored
    | apply failRun_stored | apply logTwin_stored

theorem unresolved_stored {s : State} (p : Fin 8) (hs : s.stored) : (unresolved s p).stored := by
  unfold unresolved
  try dsimp only
  with_reducible repeat' first
    | assumption | (simp only [stored_mk, kept_fold, cstored_mk, keptC_fold]) | apply setTwin_stored | apply failRun_stored
    | apply logTwin_stored

theorem mismatch_stored {s : State} (p : Fin 8) (t : Nat) (own : W64) (their : W64) (hs : s.stored) :
    (mismatch s p t own their).stored := by
  unfold mismatch
  try dsimp only
  with_reducible repeat' first
    | assumption | (simp only [stored_mk, kept_fold, cstored_mk, keptC_fold]) | apply stored_ite | apply logTwin_stored
    | apply fresh_stored | apply raiseRecovery_stored | apply setTwin_stored | apply fence_stored | apply unresolved_stored | split

theorem agreeCkpts_stored {s : State} (p : Fin 8) (hs : s.stored) : (agreeCkpts s p).stored := by
  unfold agreeCkpts
  try dsimp only
  with_reducible repeat' first
    | assumption | intro _ | (simp only [stored_mk, kept_fold, cstored_mk, keptC_fold]) | apply stored_ite | apply pWrite_stored
    | apply setSlot_stored | apply foldl_keeps (P := State.stored) | split

theorem compareStep_stored {s : State} (p : Fin 8) (t : Nat) (hs : s.stored) : (compareStep s p t).stored := by
  unfold compareStep
  try dsimp only
  with_reducible repeat' first
    | assumption | (simp only [stored_mk, kept_fold, cstored_mk, keptC_fold]) | apply stored_ite | apply mismatch_stored
    | apply agreeCkpts_stored | apply setTwin_stored | split

theorem ownDigest_stored {s : State} (p : Fin 8) (t : Nat) (d : W64) (loss : Nat) (flags : Nat) (hs : s.stored) :
    (ownDigest s p t d loss flags).stored := by
  unfold ownDigest
  try dsimp only
  with_reducible repeat' first
    | assumption | intro _ | (simp only [stored_mk, kept_fold, cstored_mk, keptC_fold]) | apply setTwin_stored | apply sendTwin_stored
    | apply compareStep_stored

theorem theirDigest_stored {s : State} (p : Fin 8) (t : Nat) (d : W64) (hs : s.stored) : (theirDigest s p t d).stored := by
  unfold theirDigest
  try dsimp only
  with_reducible repeat' first
    | assumption | (simp only [stored_mk, kept_fold, cstored_mk, keptC_fold]) | apply stored_ite | apply compareStep_stored
    | apply setTwin_stored | split

theorem twinKat_stored {s : State} (p : Fin 8) (c : Fin 64) (failed : Bool) (hs : s.stored) : (twinKat s p c failed).stored := by
  unfold twinKat
  try dsimp only
  with_reducible repeat' first
    | assumption | intro _ | (simp only [stored_mk, kept_fold, cstored_mk, keptC_fold]) | apply stored_ite | apply setTwin_stored
    | apply fence_stored | apply unresolved_stored | split

theorem logUe_stored {s : State} (e : Fin 4) (p : Fin 8) (event : Nat) (gi : Nat) (pl : List (Nat × Nat × Nat)) (hs : s.stored) :
    (logUe s e p event gi pl).stored := by
  unfold logUe
  try dsimp only
  with_reducible repeat' first
    | assumption | (simp only [stored_mk, kept_fold, cstored_mk, keptC_fold]) | apply stored_ite | apply logEv_stored | apply setUe_stored
    | split

theorem setUeErr_stored {s : State} (e : Fin 4) (bit : Nat) (hs : s.stored) : (setUeErr s e bit).stored := by
  unfold setUeErr
  try dsimp only
  with_reducible repeat' first
    | assumption | (simp only [stored_mk, kept_fold, cstored_mk, keptC_fold]) | apply setUe_stored

theorem setUeFlag_stored {s : State} (e : Fin 4) (bit : Nat) (hs : s.stored) : (setUeFlag s e bit).stored := by
  unfold setUeFlag
  try dsimp only
  with_reducible repeat' first
    | assumption | (simp only [stored_mk, kept_fold, cstored_mk, keptC_fold]) | apply setUe_stored

theorem noteApplied_stored {s : State} (p : Fin 8) (hs : s.stored) : (noteApplied s p).stored := by
  unfold noteApplied
  try dsimp only
  with_reducible repeat' first
    | assumption | (simp only [stored_mk, kept_fold, cstored_mk, keptC_fold]) | apply stored_ite | apply setSlot_stored | split

theorem skipBatt_stored {s : State} (p : Fin 8) (e : Fin 4) (gi : Nat) (step : W32) (hs : s.stored) :
    (skipBatt s p e gi step).stored := by
  unfold skipBatt
  try dsimp only
  with_reducible repeat' first
    | assumption | (simp only [stored_mk, kept_fold, cstored_mk, keptC_fold]) | apply setUe_stored | apply logUe_stored
    | apply setUeFlag_stored | apply setUeErr_stored

theorem valsOf_stored {s : State} (p : Fin 8) (i : Img) (e : Fin 4) (gi : Nat) (g : Bytes) (mult : Nat) (hs : s.stored) :
    ((valsOf s p i e gi g mult).1).stored := by
  unfold valsOf
  try dsimp only
  with_reducible repeat' first
    | assumption | intro _ | (simp only [stored_mk, kept_fold, cstored_mk, keptC_fold]) | apply stored_ite | apply setUe_stored | split

theorem applyBatt_stored {s : State} (p : Fin 8) (i : Img) (e : Fin 4) (gi : Nat) (g : Bytes) (k : StepVals) (b : Nat) (step : W32)
    (gr : List Nat) (hs : s.stored) : (applyBatt s p i e gi g k b step gr).stored := by
  unfold applyBatt
  try dsimp only
  with_reducible repeat' first
    | assumption | intro _ | (simp only [stored_mk, kept_fold, cstored_mk, keptC_fold]) | apply stored_ite | apply pCommit_stored
    | apply setUe_stored | apply countOp_stored | apply noteApplied_stored | apply logUe_stored | apply setUeFlag_stored
    | apply setUeErr_stored | apply foldl_keeps (P := State.stored) | split

theorem dropChunk_stored {s : State} (e : Fin 4) (c : UChunk) (hs : s.stored) : (dropChunk s e c).stored := by
  unfold dropChunk
  try dsimp only
  with_reducible repeat' first
    | assumption | (simp only [stored_mk, kept_fold, cstored_mk, keptC_fold]) | apply setUe_stored

theorem parkChunk_stored {s : State} (p : Fin 8) (e : Fin 4) (c : UChunk) (gi : Nat) (reason : Nat) (last : Nat) (hs : s.stored) :
    (parkChunk s p e c gi reason last).stored := by
  unfold parkChunk
  try dsimp only
  with_reducible repeat' first
    | assumption | (simp only [stored_mk, kept_fold, cstored_mk, keptC_fold]) | apply stored_ite | apply setUeErr_stored
    | apply dropChunk_stored | apply setUe_stored | apply logEv_stored | apply raiseRecovery_stored | split

theorem takeBatt_stored {s : State} (p : Fin 8) (i : Img) (e : Fin 4) (c : UChunk) (gr : List Nat × Bool) (rest : List
    (List Nat × Bool)) (hs : s.stored) : (takeBatt s p i e c gr rest).stored := by
  unfold takeBatt
  try dsimp only
  with_reducible repeat' first
    | assumption | (simp only [stored_mk, kept_fold, cstored_mk, keptC_fold]) | apply stored_ite | apply setUe_stored
    | apply valsOf_stored | apply skipBatt_stored | apply applyBatt_stored | split

theorem closeGroups_stored {s : State} (p : Fin 8) (e : Fin 4) (step : W32) (hs : s.stored) : (closeGroups s p e step).stored := by
  unfold closeGroups
  try dsimp only
  with_reducible repeat' first
    | assumption | intro _ | (simp only [stored_mk, kept_fold, cstored_mk, keptC_fold]) | apply stored_ite | apply pWrite_stored
    | apply foldl_keeps (P := State.stored) | split

theorem closeStep_stored {s : State} (p : Fin 8) (i : Img) (e : Fin 4) (step : W32) (hs : s.stored) :
    (closeStep s p i e step).stored := by
  unfold closeStep
  try dsimp only
  with_reducible repeat' first
    | assumption | intro _ | (simp only [stored_mk, kept_fold, cstored_mk, keptC_fold]) | apply stored_ite | apply pWrite_stored
    | apply setUe_stored | apply ownDigest_stored | apply raiseRecovery_stored | apply foldl_keeps (P := State.stored) | split

theorem clrDiscord_stored {s : State} (who : Requester) (e : Fin 4) (hs : s.stored) : (clrDiscord s who e).stored := by
  unfold clrDiscord
  try dsimp only
  with_reducible repeat' first
    | assumption | (simp only [stored_mk, kept_fold, cstored_mk, keptC_fold]) | apply stored_ite | apply setUe_stored | split

theorem updSeedWrite_stored {s : State} (who : Requester) (e : Fin 4) (part : RegPart) (val : W64) (hs : s.stored) :
    (updSeedWrite s who e part val).stored := by
  unfold updSeedWrite
  try dsimp only
  with_reducible repeat' first
    | assumption | (simp only [stored_mk, kept_fold, cstored_mk, keptC_fold]) | apply stored_ite | apply halfWrite_stored
    | apply setUe_stored | split

end Sys2Proof.Machine
end

