-- ==== Sys2Proof/Laws/KeepFirm.lean ====
section
/-! SUPPORT. What keeps the canonical form of the memories: one lemma for each of the operations of
Boot to Access: start-up, loads, tickets, management, twins, power, security, meter, registers. -/

namespace Sys2Proof.Machine

theorem coldHeld_stored {s : State} (_hs : s.stored) : (coldHeld s).stored :=
  have h := cold_stored s.sec.flash { s.meter.die with sent := [] }
  kept_log (s := State.cold s.sec.flash { s.meter.die with sent := [] }) h (log_rises h)

theorem coldStart_stored {s : State} (hs : s.stored) : (coldStart s).stored := by
  unfold coldStart
  try dsimp only
  with_reducible repeat' first
    | assumption | intro _ | (simp only [stored_mk, kept_fold, cstored_mk, keptC_fold]) | apply coldHeld_stored

theorem acceptOwner_stored {s : State} (hs : s.stored) : (acceptOwner s).stored := by
  unfold acceptOwner
  try dsimp only
  with_reducible repeat' first
    | assumption | intro _ | (simp only [stored_mk, kept_fold, cstored_mk, keptC_fold]) | apply stored_ite | apply logEv_stored | split

theorem pufFail_stored {s : State} (why : Nat) (hs : s.stored) : (pufFail s why).stored := by
  unfold pufFail
  try dsimp only
  with_reducible repeat' first
    | assumption | apply bootFail_stored

theorem identify_stored {s : State} (r : IdentResult) (hs : s.stored) : (identify s r).stored := by
  unfold identify
  try dsimp only
  with_reducible repeat' first
    | assumption | (simp only [stored_mk, kept_fold, cstored_mk, keptC_fold]) | apply stored_ite | apply bootFail_stored
    | apply pufFail_stored | apply acceptOwner_stored | apply startNet_stored | split

theorem hostWrite_stored {s : State} (a : Nat) (b : Bytes) (hs : s.stored) : (hostWrite s a b).stored := by
  unfold hostWrite
  try dsimp only
  with_reducible repeat' first
    | assumption | apply stored_ite | apply devWrite_stored | split

theorem startTx_stored {s : State} (hs : s.stored) : (startTx s).stored := by
  unfold startTx
  try dsimp only
  with_reducible repeat' first
    | assumption | (simp only [stored_mk, kept_fold, cstored_mk, keptC_fold]) | apply stored_ite | apply missIn_stored | apply emit_stored
    | split

theorem writePol_stored {s : State} (p : Fin 8) (i : Img) (L : Nat) (d : Nat) (r : PolRec) (hs : s.stored) :
    (writePol s p i L d r).stored := by
  unfold writePol
  try dsimp only
  with_reducible repeat' first
    | assumption | apply pWrite_stored

theorem writeVectors_stored {s : State} (p : Fin 8) (i : Img) (L : Nat) (hs : s.stored) : (writeVectors s p i L).stored := by
  unfold writeVectors
  try dsimp only
  with_reducible repeat' first
    | assumption | apply pWrite_stored

theorem plAppend_stored {s : State} (p : Fin 8) (i : Img) (t : Nat) (L : Nat) (d : Nat) (cause : Nat) (old : PolRec) (new : PolRec)
    (frac : Nat) (hs : s.stored) : (plAppend s p i t L d cause old new frac).stored := by
  unfold plAppend
  try dsimp only
  with_reducible repeat' first
    | assumption | apply pWrite_stored

theorem decideLadder_stored {s : State} (p : Fin 8) (i : Img) (t : Nat) (L : Nat) (d : Nat) (hs : s.stored) :
    (decideLadder s p i t L d).stored := by
  unfold decideLadder
  try dsimp only
  with_reducible repeat' first
    | assumption | (simp only [stored_mk, kept_fold, cstored_mk, keptC_fold]) | apply stored_ite | apply logEv_stored
    | apply writePol_stored | apply plAppend_stored | split

theorem decideAll_stored {s : State} (p : Fin 8) (i : Img) (t : Nat) (hs : s.stored) : (decideAll s p i t).stored := by
  unfold decideAll
  try dsimp only
  with_reducible repeat' first
    | assumption | intro _ | (simp only [stored_mk, kept_fold, cstored_mk, keptC_fold]) | apply decideLadder_stored
    | apply writeVectors_stored | apply foldl_keeps (P := State.stored)

theorem freshTables_stored {s : State} (p : Fin 8) (i : Img) (hs : s.stored) : (freshTables s p i).stored := by
  unfold freshTables
  try dsimp only
  with_reducible repeat' first
    | assumption | intro _ | (simp only [stored_mk, kept_fold, cstored_mk, keptC_fold]) | apply pWrite_stored
    | apply foldl_keeps (P := State.stored)

theorem freshPolicy_stored {s : State} (p : Fin 8) (i : Img) (hs : s.stored) : (freshPolicy s p i).stored := by
  unfold freshPolicy
  try dsimp only
  with_reducible repeat' first
    | assumption | intro _ | (simp only [stored_mk, kept_fold, cstored_mk, keptC_fold]) | apply stored_ite | apply writePol_stored
    | apply writeVectors_stored | apply pWrite_stored | apply foldl_keeps (P := State.stored) | split

theorem rebuildLadder_stored {s : State} (p : Fin 8) (i : Img) (t : Nat) (L : Nat) (d : Nat) (why : Nat) (hs : s.stored) :
    (rebuildLadder s p i t L d why).stored := by
  unfold rebuildLadder
  try dsimp only
  with_reducible repeat' first
    | assumption | (simp only [stored_mk, kept_fold, cstored_mk, keptC_fold]) | apply stored_ite | apply writeVectors_stored
    | apply writePol_stored | apply logEv_stored | apply plAppend_stored | split

theorem restartPolicy_stored {s : State} (p : Fin 8) (i : Img) (t : Nat) (hs : s.stored) : (restartPolicy s p i t).stored := by
  unfold restartPolicy
  try dsimp only
  with_reducible repeat' first
    | assumption | intro _ | (simp only [stored_mk, kept_fold, cstored_mk, keptC_fold]) | apply stored_ite | apply rebuildLadder_stored
    | apply foldl_keeps (P := State.stored) | split

theorem writeSpans_stored (p : Fin 8) (b : Marked) : ∀ (o : Nat) (l : List (Nat × Nat)) {s : State}, s.stored → (writeSpans s p b o l).stored
  | _, [], _, hs => hs
  | o, x :: r, _, hs => writeSpans_stored p b (o + x.2) r (pCommit_stored p (markedBytes x.1 b o x.2) hs)

theorem regenViews_stored {s : State} (p : Fin 8) (i : Img) (hs : s.stored) : (regenViews s p i).stored := by
  unfold regenViews
  try dsimp only
  with_reducible repeat' first
    | assumption | intro _ | (simp only [stored_mk, kept_fold, cstored_mk, keptC_fold]) | apply stored_ite | apply pCommit_stored
    | apply foldl_keeps (P := State.stored) | split

theorem openCkpt_stored {s : State} (p : Fin 8) (i : Img) (c : Nat) (ticket : Option Nat) (memory : Option Nat) (hs : s.stored) :
    (openCkpt s p i c ticket memory).stored := by
  unfold openCkpt
  try dsimp only
  with_reducible repeat' first
    | assumption | intro _ | (simp only [stored_mk, kept_fold, cstored_mk, keptC_fold]) | apply stored_ite | apply setSlot_stored
    | apply beginTicket_stored | split

theorem ckptTicket_stored {s : State} (p : Fin 8) (t : Ticket) (c : Nat) (hs : s.stored) : (ckptTicket s p t c).stored := by
  unfold ckptTicket
  try dsimp only
  with_reducible repeat' first
    | assumption | apply stored_ite | apply answer_stored | apply openCkpt_stored | apply logEv_stored | split

theorem stageB4_stored {s : State} (p : Fin 8) (c : Nat) (hs : s.stored) : (stageB4 s p c).stored := by
  unfold stageB4
  try dsimp only
  with_reducible repeat' first
    | assumption | apply stored_ite | apply ckptTicket_stored | apply openCkpt_stored | split

theorem closeCkpt_stored {s : State} (p : Fin 8) (hs : s.stored) : (closeCkpt s p).stored := by
  unfold closeCkpt
  try dsimp only
  with_reducible repeat' first
    | assumption | intro _ | (simp only [stored_mk, kept_fold, cstored_mk, keptC_fold]) | apply stored_ite | apply pCommit_stored
    | apply sendMsg_stored | apply logEv_stored | apply setSlot_stored | apply answer_stored | split

theorem imageEngine_stored {s : State} (p : Fin 8) (i : Img) (e : Fin 4) (hs : s.stored) : (imageEngine s p i e).stored := by
  unfold imageEngine
  try dsimp only
  with_reducible repeat' first
    | assumption | intro _ | (simp only [stored_mk, kept_fold, cstored_mk, keptC_fold]) | apply stored_ite | apply setCol_stored
    | apply setUe_stored | apply creset_stored | split

theorem imageEngines_stored {s : State} (p : Fin 8) (i : Img) (hs : s.stored) : (imageEngines s p i).stored := by
  unfold imageEngines
  try dsimp only
  with_reducible repeat' first
    | assumption | intro _ | (simp only [stored_mk, kept_fold, cstored_mk, keptC_fold]) | apply imageEngine_stored
    | apply foldl_keeps (P := State.stored)

theorem restoreCkpt_stored {s : State} (p : Fin 8) (i : Img) (b : Marked) (hs : s.stored) : (restoreCkpt s p i b).stored := by
  unfold restoreCkpt
  try dsimp only
  with_reducible repeat' first
    | assumption | (simp only [stored_mk, kept_fold, cstored_mk, keptC_fold]) | apply regenViews_stored | apply writeSpans_stored
    | apply imageEngines_stored | apply syncHdr_stored | apply setLed_stored

theorem finishBoundary_stored {s : State} (p : Fin 8) (c : Nat) (hs : s.stored) : (finishBoundary s p c).stored := by
  unfold finishBoundary
  try dsimp only
  with_reducible repeat' first
    | assumption | (simp only [stored_mk, kept_fold, cstored_mk, keptC_fold]) | apply stored_ite | apply stageB4_stored
    | apply endRun_stored | apply setSlot_stored | apply answer_stored | apply setPState_stored | split

theorem wakeAtGo_stored {s : State} (p : Fin 8) (i : Img) (step : Nat) (hs : s.stored) : (wakeAtGo s p i step).stored := by
  unfold wakeAtGo
  try dsimp only
  with_reducible repeat' first
    | assumption | intro _ | (simp only [stored_mk, kept_fold, cstored_mk, keptC_fold]) | apply stored_ite | apply wantCl_stored
    | apply foldl_keeps (P := State.stored) | split

theorem snapshotBank_stored {s : State} (p : Fin 8) (num : Nat) (hs : s.stored) : (snapshotBank s p num).stored := by
  unfold snapshotBank
  try dsimp only
  with_reducible repeat' first
    | assumption | (simp only [stored_mk, kept_fold, cstored_mk, keptC_fold]) | apply setSlot_stored

theorem startStep_stored {s : State} (p : Fin 8) (i : Img) (r : Run) (hs : s.stored) : (startStep s p i r).stored := by
  unfold startStep
  try dsimp only
  with_reducible repeat' first
    | assumption | intro _ | (simp only [stored_mk, kept_fold, cstored_mk, keptC_fold]) | apply stored_ite | apply cstored_ite
    | apply snapshotBank_stored | apply setTwin_stored | apply setSlot_stored | apply setPState_stored | apply colStepWrite_stored
    | apply goCluster_stored | apply setCl_stored | apply cl_stored | apply foldl_keeps (P := State.stored) | split

theorem writeLoadArea_stored {s : State} (p : Fin 8) (m : Marked) (hs : s.stored) : (writeLoadArea s p m).stored := by
  unfold writeLoadArea
  try dsimp only
  with_reducible repeat' first
    | assumption | apply pCommit_stored

theorem wantDomains_stored {s : State} (p : Fin 8) (i : Img) (hs : s.stored) : (wantDomains s p i).stored := by
  unfold wantDomains
  try dsimp only
  with_reducible repeat' first
    | assumption | intro _ | (simp only [stored_mk, kept_fold, cstored_mk, keptC_fold]) | apply stored_ite | apply wantOn_stored
    | apply startPort_stored | apply foldl_keeps (P := State.stored) | split

theorem wantClusters_stored {s : State} (p : Fin 8) (i : Img) (hs : s.stored) : (wantClusters s p i).stored := by
  unfold wantClusters
  try dsimp only
  with_reducible repeat' first
    | assumption | intro _ | (simp only [stored_mk, kept_fold, cstored_mk, keptC_fold]) | apply stored_ite | apply wantCl_stored
    | apply foldl_keeps (P := State.stored) | split

theorem measureImage_stored {s : State} (p : Fin 8) (i : Img) (kind : Nat) (hs : s.stored) : (measureImage s p i kind).stored := by
  unfold measureImage
  try dsimp only
  with_reducible repeat' first
    | assumption | (simp only [stored_mk, kept_fold, cstored_mk, keptC_fold]) | apply stored_ite | split

theorem loadedState_stored {s : State} (p : Fin 8) (hs : s.stored) : (loadedState s p).stored := by
  unfold loadedState
  try dsimp only
  with_reducible repeat' first
    | assumption | (simp only [stored_mk, kept_fold, cstored_mk, keptC_fold]) | apply stored_ite | apply setSlot_stored
    | apply setPState_stored | split

theorem programImage_stored {s : State} (p : Fin 8) (t : Ticket) (m : Marked) (hs : s.stored) : (programImage s p t m).stored := by
  unfold programImage
  try dsimp only
  with_reducible repeat' first
    | assumption | intro _ | (simp only [stored_mk, kept_fold, cstored_mk, keptC_fold]) | apply stored_ite | apply setSlot_stored
    | apply pCommit_stored | apply imageEngines_stored | apply wantClusters_stored | apply wantDomains_stored | apply writeImage_stored
    | apply measureImage_stored | apply creset_stored | apply loadedState_stored | apply logEv_stored | apply answer_stored
    | apply foldl_keeps (P := State.stored) | split

theorem failLoad_stored {s : State} (p : Fin 8) (t : Ticket) (j : LoadJob) (reason : Nat) (dir : Nat) (hs : s.stored) :
    (failLoad s p t j reason dir).stored := by
  unfold failLoad
  try dsimp only
  with_reducible repeat' first
    | assumption | (simp only [stored_mk, kept_fold, cstored_mk, keptC_fold]) | apply stored_ite | apply undoLoad_stored
    | apply rejectLoadAuth_stored | split

theorem finishFull_stored {s : State} (j : LoadJob) (hs : s.stored) : (finishFull s j).stored := by
  unfold finishFull
  try dsimp only
  with_reducible repeat' first
    | assumption | (simp only [stored_mk, kept_fold, cstored_mk, keptC_fold]) | apply stored_ite | apply writeLoadArea_stored
    | apply installKeys_stored | apply failLoad_stored | apply programImage_stored | split

theorem trainClaim_stored {s : State} (pkgs : Nat) (trained : List Training) (hs : s.stored) :
    ((trainClaim s pkgs trained).1).stored := by
  unfold trainClaim
  refine foldl_keeps (P := fun a : State × List (Fin 8) × Bool => a.1.stored) hs (fun a g ha => ?_)
  dsimp only at ha ⊢
  apply stored_ite
  · exact stored_ite (powerUpMg_stored g ha) ha
  · exact trainMg_stored g _ _ (stored_ite (powerUpMg_stored g ha) ha)

theorem takeResources_stored {s : State} (p : Fin 8) (a : Assign) (part : Bytes) (hs : s.stored) : (takeResources s p a part).stored := by
  unfold takeResources
  try dsimp only
  with_reducible repeat' first
    | assumption | intro _ | (simp only [stored_mk, kept_fold, cstored_mk, keptC_fold]) | apply setOwnerRange_stored
    | apply claimChans_stored | apply setSlot_stored | apply foldl_keeps (P := State.stored)

theorem beginFull_stored {s : State} (p : Fin 8) (t : Ticket) (j0 : LoadJob) (trained : List Training) (hs : s.stored) :
    (beginFull s p t j0 trained).stored := by
  unfold beginFull
  try dsimp only
  with_reducible repeat' first
    | assumption | (simp only [stored_mk, kept_fold, cstored_mk, keptC_fold]) | apply stored_ite | apply failLoad_stored
    | apply trainClaim_stored | apply takeResources_stored | apply finishFull_stored | split

theorem beginPartial_stored {s : State} (p : Fin 8) (t : Ticket) (j : LoadJob) (hs : s.stored) : (beginPartial s p t j).stored := by
  unfold beginPartial
  try dsimp only
  with_reducible repeat' first
    | assumption | (simp only [stored_mk, kept_fold, cstored_mk, keptC_fold]) | apply stored_ite | apply writeLoadArea_stored
    | apply failLoad_stored | split

theorem loadTicket_stored {s0 : State} (p : Fin 8) (t : Ticket) (v : SigVerdict) (trained : List Training) (hs0 : s0.stored) :
    (loadTicket s0 p t v trained).stored := by
  unfold loadTicket
  try dsimp only
  with_reducible repeat' first
    | assumption | (simp only [stored_mk, kept_fold, cstored_mk, keptC_fold]) | apply stored_ite | apply missIn_stored
    | apply beginTicket_stored | apply failLoad_stored | apply beginFull_stored | apply beginPartial_stored | split

theorem releaseDomains_stored {s : State} (p : Fin 8) (i : Img) (a : Assign) (hs : s.stored) : (releaseDomains s p i a).stored := by
  unfold releaseDomains
  try dsimp only
  with_reducible repeat' first
    | assumption | intro _ | (simp only [stored_mk, kept_fold, cstored_mk, keptC_fold]) | apply stored_ite | apply powerDownCl_stored
    | apply powerDownUe_stored | apply powerDownLg_stored | apply setPort_stored | apply setLink_stored | apply creset_stored
    | apply powerDownMg_stored | apply powerDownSp_stored | apply foldl_keeps (P := State.stored) | split

theorem detachSlot_stored {s0 : State} (p : Fin 8) (hs0 : s0.stored) : (detachSlot s0 p).stored := by
  unfold detachSlot
  try dsimp only
  with_reducible repeat' first
    | assumption | intro _ | (simp only [stored_mk, kept_fold, cstored_mk, keptC_fold]) | apply stored_ite | apply answerTest_stored
    | apply answer_stored | apply emptySlot_stored | apply releaseDomains_stored | apply setSlot_stored
    | apply foldl_keeps (P := State.stored) | split

theorem boundaryActs_stored {s : State} (p : Fin 8) (c : Nat) (hs : s.stored) : (boundaryActs s p c).stored := by
  unfold boundaryActs
  try dsimp only
  with_reducible repeat' first
    | assumption | apply stored_ite | apply park_stored | apply detachSlot_stored | apply answer_stored | apply endRun_stored
    | apply finishBoundary_stored | split

theorem afterLoad_stored {s : State} (p : Fin 8) (hs : s.stored) : (afterLoad s p).stored := by
  unfold afterLoad
  try dsimp only
  with_reducible repeat' first
    | assumption | apply stored_ite | apply boundaryActs_stored | split

theorem replyOnly_stored {s : State} (p : Fin 8) (b : Bytes) (status : Nat) (hs : s.stored) : (replyOnly s p b status).stored := by
  unfold replyOnly
  try dsimp only
  with_reducible repeat' first
    | assumption | apply writeReply_stored

theorem countReject_stored {s : State} (p : Fin 8) (hs : s.stored) : (countReject s p).stored := by
  unfold countReject
  try dsimp only
  with_reducible repeat' first
    | assumption | (simp only [stored_mk, kept_fold, cstored_mk, keptC_fold]) | apply setLed_stored

theorem repeatTicket_stored {s : State} (p : Fin 8) (b : Bytes) (hs : s.stored) : (repeatTicket s p b).stored := by
  unfold repeatTicket
  try dsimp only
  with_reducible repeat' first
    | assumption | (simp only [stored_mk, kept_fold, cstored_mk, keptC_fold]) | apply stored_ite | apply logSch_stored
    | apply setLed_stored | apply writeReply_stored | split

theorem acceptTicket_stored {s : State} (p : Fin 8) (b : Bytes) (hs : s.stored) : (acceptTicket s p b).stored := by
  unfold acceptTicket
  try dsimp only
  with_reducible repeat' first
    | assumption | (simp only [stored_mk, kept_fold, cstored_mk, keptC_fold]) | apply setLed_stored | apply putStored_stored

theorem answerClaim_stored {s : State} (p : Fin 8) (high : Nat) (w : Option Ticket) (hs : s.stored) :
    (answerClaim s p high w).stored := by
  cases w with
  | none => exact hs
  | some t => exact syncHdr_stored p (answer_stored p t stDone 0 high hs)

theorem claimTicket_stored {s : State} (p : Fin 8) (b : Bytes) (hs : s.stored) : (claimTicket s p b).stored := by
  unfold claimTicket
  try dsimp only
  with_reducible repeat' first
    | assumption | (simp only [stored_mk, kept_fold, cstored_mk, keptC_fold]) | apply stored_ite | apply acceptTicket_stored
    | apply setSlot_stored | apply answerClaim_stored | split

theorem examine_stored {s : State} (p : Fin 8) (b : Bytes) (hs : s.stored) : (examine s p b).stored := by
  unfold examine
  try dsimp only
  with_reducible repeat' first
    | assumption | apply stored_ite | apply logSch_stored | apply countReject_stored | apply replyOnly_stored | apply repeatTicket_stored
    | apply claimTicket_stored | apply acceptTicket_stored | split

theorem headNext_stored {s : State} (p : Fin 8) (hs : s.stored) : (headNext s p).stored := by
  unfold headNext
  try dsimp only
  with_reducible repeat' first
    | assumption | (simp only [stored_mk, kept_fold, cstored_mk, keptC_fold]) | apply setLed_stored

theorem lapse_stored {s : State} (p : Fin 8) (hs : s.stored) : (lapse s p).stored := by
  unfold lapse
  try dsimp only
  with_reducible repeat' first
    | assumption | (simp only [stored_mk, kept_fold, cstored_mk, keptC_fold]) | apply stored_ite | apply logSch_stored
    | apply setLed_stored | apply setSlot_stored | apply park_stored | split

theorem readLease_stored {s : State} (p : Fin 8) (hs : s.stored) : (readLease s p).stored := by
  unfold readLease
  try dsimp only
  with_reducible repeat' first
    | assumption | (simp only [stored_mk, kept_fold, cstored_mk, keptC_fold]) | apply stored_ite | apply setLed_stored | split

theorem afterLease_stored {before : State} {s : State} (p : Fin 8) (_hbefore : before.stored) (hs : s.stored) :
    (afterLease before s p).stored := by
  unfold afterLease
  try dsimp only
  with_reducible repeat' first
    | assumption | apply stored_ite | apply lapse_stored | split

theorem sampleSlots_stored (p : Fin 8) : ∀ (n : Nat) {s : State}, s.stored → (sampleSlots p n s).stored
  | 0, _, hs => hs
  | n + 1, s, hs => by
    unfold sampleSlots
    dsimp only
    apply stored_ite hs
    apply stored_ite
    · exact sampleSlots_stored p n (examine_stored p _ (headNext_stored p hs))
    · apply stored_ite
      · exact setLed_stored p _ hs
      · exact sampleSlots_stored p n (logSch_stored _ _ _ (countReject_stored p (headNext_stored p hs)))

theorem sampleLedger_stored {s : State} (p : Fin 8) (hs : s.stored) : (sampleLedger s p).stored := by
  unfold sampleLedger
  try dsimp only
  with_reducible repeat' first
    | assumption | (simp only [stored_mk, kept_fold, cstored_mk, keptC_fold]) | apply stored_ite | apply readLease_stored
    | apply afterLease_stored | apply logSch_stored | apply setLed_stored | apply syncHdr_stored | apply sampleSlots_stored | split

theorem sampleAll_stored {s : State} (hs : s.stored) : (sampleAll s).stored := by
  unfold sampleAll
  try dsimp only
  with_reducible repeat' first
    | assumption | intro _ | (simp only [stored_mk, kept_fold, cstored_mk, keptC_fold]) | apply stored_ite | apply sampleLedger_stored
    | apply foldl_keeps (P := State.stored) | split

theorem restartSched_stored {s : State} (savePoisoned : Bool) (hs : s.stored) : (restartSched s savePoisoned).stored := by
  unfold restartSched
  try dsimp only
  with_reducible repeat' first
    | assumption | intro _ | (simp only [stored_mk, kept_fold, cstored_mk, keptC_fold]) | apply stored_ite | apply logEv_stored
    | apply setLed_stored | apply logSch_stored | apply foldl_keeps (P := State.stored) | split

theorem answerKat_stored {s : State} (p : Fin 8) (k : KatWait) (status : Nat) (detail : Nat) (value : Nat) (hs : s.stored) :
    (answerKat s p k status detail value).stored := by
  unfold answerKat
  try dsimp only
  with_reducible repeat' first
    | assumption | apply answerTest_stored

theorem katEnds_stored {s : State} (c : Fin 64) (result : Nat) (hs : s.stored) : (katEnds s c result).stored := by
  unfold katEnds
  try dsimp only
  with_reducible repeat' first
    | assumption | apply stored_ite | apply logSch_stored | apply twinKat_stored | apply spareCluster_stored | split

theorem deferKat_stored {s : State} (p : Fin 8) (k : KatWait) (test : Nat) (token : Nat) (hs : s.stored) :
    (deferKat s p k test token).stored := by
  unfold deferKat
  try dsimp only
  with_reducible repeat' first
    | assumption | (simp only [stored_mk, kept_fold, cstored_mk, keptC_fold]) | apply stored_ite | apply logSch_stored
    | apply setSlot_stored | split

theorem refuseKat_stored {s : State} (p : Fin 8) (k : KatWait) (hs : s.stored) : (refuseKat s p k).stored := by
  unfold refuseKat
  try dsimp only
  with_reducible repeat' first
    | assumption | intro _ | (simp only [stored_mk, kept_fold, cstored_mk, keptC_fold]) | apply stored_ite | apply setSlot_stored
    | apply answerKat_stored | apply logSch_stored | split

theorem scrubTest_stored {s : State} (g : Fin 8) (p : Fin 8) (ticket : Option Nat) (mgmt : Option MgmtReq) (result : Nat) (hs : s.stored) :
    (scrubTest s g p ticket mgmt result).stored := by
  unfold scrubTest
  try dsimp only
  with_reducible repeat' first
    | assumption | (simp only [stored_mk, kept_fold, cstored_mk, keptC_fold]) | apply stored_ite | apply setMg_stored
    | apply answerTest_stored | split

theorem startRun_stored {s : State} (p : Fin 8) (i : Img) (t : Ticket) (buddyCopy : Option Marked) (hs : s.stored) :
    (startRun s p i t buddyCopy).stored := by
  unfold startRun
  try dsimp only
  with_reducible repeat' first
    | assumption | (simp only [stored_mk, kept_fold, cstored_mk, keptC_fold]) | apply stored_ite | apply fresh_stored
    | apply beginTicket_stored | apply setSlot_stored | apply meterTag_stored | apply setPState_stored | apply logSch_stored
    | apply answer_stored | apply restoreCkpt_stored | apply restartPolicy_stored | apply freshPolicy_stored | apply freshTables_stored
    | split

theorem stageB3_stored {s : State} (p : Fin 8) (c : Nat) (hs : s.stored) : (stageB3 s p c).stored := by
  unfold stageB3
  try dsimp only
  with_reducible repeat' first
    | assumption | intro _ | (simp only [stored_mk, kept_fold, cstored_mk, keptC_fold]) | apply stored_ite | apply sampleAll_stored
    | apply activateCores_stored | apply setSlot_stored | apply boundaryActs_stored | split

theorem dropHint_stored {s : State} (p : Fin 8) (n : Nat) (hs : s.stored) : (dropHint s p n).stored := by
  unfold dropHint
  try dsimp only
  with_reducible repeat' first
    | assumption | intro _ | (simp only [stored_mk, kept_fold, cstored_mk, keptC_fold]) | apply setSlot_stored

theorem tktBaseWrite_stored {s : State} (who : Requester) (p : Fin 8) (part : RegPart) (val : W64) (hs : s.stored) :
    (tktBaseWrite s who p part val).stored := by
  unfold tktBaseWrite
  try dsimp only
  with_reducible repeat' first
    | assumption | (simp only [stored_mk, kept_fold, cstored_mk, keptC_fold]) | apply stored_ite | apply halfWrite_stored
    | apply setLed_stored | apply syncHdr_stored | split

theorem mgmtServe_stored {s : State} (r : MgmtReq) (op : Nat) (f : State → State) (hs : s.stored) (hf : ∀ y : State, y.stored → (f y).stored) :
    (mgmtServe s r op f).stored := by
  unfold mgmtServe
  extract_lets seen
  generalize seen = b
  apply stored_ite hs
  apply stored_ite
  · split
    · exact emit_stored _ _ _ hs
    · exact emit_stored _ _ _ (logSch_stored _ _ _ hs)
  · exact hf _ hs

theorem mgmtAnswer_stored {s : State} (r : MgmtReq) (op : Nat) (status : Nat) (detail : Nat) (data : Bytes) (hs : s.stored) :
    (mgmtAnswer s r op status detail data).stored := by
  unfold mgmtAnswer
  try dsimp only
  with_reducible repeat' first
    | assumption | apply mgmtReply_stored

theorem commitBundle_stored {s : State} (b : Bytes) (hs : s.stored) : (commitBundle s b).stored := by
  unfold commitBundle
  try dsimp only
  with_reducible repeat' first
    | assumption | intro _ | (simp only [stored_mk, kept_fold, cstored_mk, keptC_fold]) | apply stored_ite | apply copyResident_stored
    | apply measureBundle_stored | apply restartCore_stored | apply logSch_stored | apply foldl_keeps (P := State.stored) | split

theorem coreWatchdog_stored {s : State} (c : Fin 64) (savePoisoned : Bool) (hs : s.stored) : (coreWatchdog s c savePoisoned).stored := by
  unfold coreWatchdog
  try dsimp only
  with_reducible repeat' first
    | assumption | apply stored_ite | apply dropPend_stored | apply restartCore_stored | apply setCl_stored | apply cl_stored | split

theorem forwardRecover_stored {s : State} (p : Fin 8) (reason : Nat) (r : Nat) (gen : Nat) (target : Nat) (hs : s.stored) : (forwardRecover s p reason r gen target).stored := by
  unfold forwardRecover
  try dsimp only
  with_reducible repeat' first
    | assumption | apply sendTwin_stored

theorem adoptRecover_stored {s : State} (p : Fin 8) (reason : Nat) (r : Nat) (gen : Nat) (target : Nat) (hs : s.stored) :
    (adoptRecover s p reason r gen target).stored := by
  unfold adoptRecover
  try dsimp only
  with_reducible repeat' first
    | assumption | (simp only [stored_mk, kept_fold, cstored_mk, keptC_fold]) | apply stored_ite | apply forwardRecover_stored
    | apply setTwin_stored | apply noCheckpoint_stored | apply dropStream_stored | apply logSch_stored | apply sendRecover_stored
    | apply setPState_stored | split

theorem sendJoin_stored {s : State} (p : Fin 8) (j : Nat) (hs : s.stored) : (sendJoin s p j).stored := by
  unfold sendJoin
  try dsimp only
  with_reducible repeat' first
    | assumption | apply sendTwin_stored

theorem rejoin_stored {s : State} (p : Fin 8) (j : Nat) (hs : s.stored) : (rejoin s p j).stored := by
  unfold rejoin
  try dsimp only
  with_reducible repeat' first
    | assumption | (simp only [stored_mk, kept_fold, cstored_mk, keptC_fold]) | apply logTwin_stored | apply setTwin_stored

theorem runOn_stored {s : State} (p : Fin 8) (i : Img) (r : Run) (j : Nat) (hs : s.stored) : (runOn s p i r j).stored := by
  unfold runOn
  try dsimp only
  with_reducible repeat' first
    | assumption | (simp only [stored_mk, kept_fold, cstored_mk, keptC_fold]) | apply stored_ite | apply endRun_stored
    | apply restartPolicy_stored | apply setSlot_stored | split

theorem restoreTo_stored {s : State} (p : Fin 8) (i : Img) (r : Run) (tgt : Nat) (b : Marked) (hs : s.stored) :
    (restoreTo s p i r tgt b).stored := by
  unfold restoreTo
  try dsimp only
  with_reducible repeat' first
    | assumption | intro _ | (simp only [stored_mk, kept_fold, cstored_mk, keptC_fold]) | apply stored_ite | apply restartPolicy_stored
    | apply restoreCkpt_stored | apply haltClusters_stored | apply setSlot_stored | apply logSch_stored | apply park_stored | split

theorem clkSel_stored {s : State} (k : Clock) (code : BitVec 2) (hs : s.stored) : (clkSel s k code).stored := by
  unfold clkSel
  try dsimp only
  with_reducible repeat' first
    | assumption | (simp only [stored_mk, kept_fold, cstored_mk, keptC_fold]) | apply stored_ite | apply logEv_stored | split

theorem autoFall_stored {s : State} (hs : s.stored) : (autoFall s).stored := by
  unfold autoFall
  try dsimp only
  with_reducible repeat' first
    | assumption | intro _ | apply stored_ite | apply clkSel_stored | split

theorem loseRef_stored {s : State} (code : BitVec 2) (hs : s.stored) : (loseRef s code).stored := by
  unfold loseRef
  try dsimp only
  with_reducible repeat' first
    | assumption | intro _ | (simp only [stored_mk, kept_fold, cstored_mk, keptC_fold]) | apply stored_ite | apply autoFall_stored
    | apply logEv_stored | split

theorem handoverCl_stored {s : State} (c : Fin 64) (hs : s.stored) : (handoverCl s c).stored := by
  unfold handoverCl
  try dsimp only
  with_reducible repeat' first
    | assumption | (simp only [stored_mk, kept_fold, cstored_mk, keptC_fold]) | apply stored_ite | apply cstored_ite | apply setCl_stored
    | apply cl_stored | split

theorem handover_stored {s : State} (k : Clock) (hs : s.stored) : (handover s k).stored := by
  unfold handover
  try dsimp only
  with_reducible repeat' first
    | assumption | intro _ | (simp only [stored_mk, kept_fold, cstored_mk, keptC_fold]) | apply stored_ite | apply handoverCl_stored
    | apply setLed_stored | apply foldl_keeps (P := State.stored) | split

theorem powerUpUe_stored {s : State} (e : Fin 4) (hs : s.stored) : (powerUpUe s e).stored := by
  unfold powerUpUe
  try dsimp only
  with_reducible repeat' first
    | assumption | intro _ | apply stored_ite | apply setOn_stored | apply setUe_stored | apply creset_stored | apply setCol_stored
    | apply imageEngine_stored | split

theorem powerUpLg_stored {s : State} (g : Nat) (hs : s.stored) : (powerUpLg s g).stored := by
  unfold powerUpLg
  try dsimp only
  with_reducible repeat' first
    | assumption | intro _ | (simp only [stored_mk, kept_fold, cstored_mk, keptC_fold]) | apply stored_ite | apply setOn_stored
    | apply startPort_stored | apply foldl_keeps (P := State.stored) | split

theorem powerUpDom_stored {s : State} (i : Nat) (hs : s.stored) : (powerUpDom s i).stored := by
  unfold powerUpDom
  try dsimp only
  with_reducible repeat' first
    | assumption | apply stored_ite | apply powerUpCl_stored | apply powerUpSp_stored | apply powerUpMg_stored | apply powerUpLg_stored
    | apply powerUpUe_stored | apply setOn_stored | split

theorem app1Write_stored {s : State} (who : Requester) (on : Bool) (hs : s.stored) : (app1Write s who on).stored := by
  unfold app1Write
  try dsimp only
  with_reducible repeat' first
    | assumption | (simp only [stored_mk, kept_fold, cstored_mk, keptC_fold]) | apply stored_ite | apply wantOn_stored
    | apply powerDownApp1_stored | split

theorem appStart_stored {s : State} (who : Requester) (harts : BitVec 16) (hs : s.stored) : (appStart s who harts).stored := by
  unfold appStart
  try dsimp only
  with_reducible repeat' first
    | assumption | apply stored_ite | apply releaseHarts_stored | split

theorem bucketStep_stored {s : State} (p1 : Nat) (hs : s.stored) : (bucketStep s p1).stored := by
  unfold bucketStep
  try dsimp only
  with_reducible repeat' first
    | assumption | (simp only [stored_mk, kept_fold, cstored_mk, keptC_fold]) | apply stored_ite | apply logRated_stored | split

theorem noteDyn_stored {s : State} (l : List (Fin 64 × Nat)) (hs : s.stored) : (noteDyn s l).stored := by
  unfold noteDyn
  try dsimp only
  with_reducible repeat' first
    | assumption | intro _ | (simp only [stored_mk, kept_fold, cstored_mk, keptC_fold]) | apply stored_ite | apply setCl_stored
    | apply cl_stored | apply foldl_keeps (P := State.stored) | split

theorem toggleHot_stored {s : State} (budget : Nat) (hs : s.stored) : ((toggleHot s budget).1).stored := by
  unfold toggleHot
  refine foldl_keeps (P := fun a : State × Nat => a.1.stored) hs (fun a x ha => ?_)
  dsimp only
  split
  · exact ha
  · exact stored_ite (releaseCl_stored _ _ ha) (freezeCl_stored _ _ ha)

theorem unthrottle_stored {s : State} (c : Fin 64) (hs : s.stored) : (unthrottle s c).stored := by
  unfold unthrottle
  try dsimp only
  with_reducible repeat' first
    | assumption | intro _ | (simp only [stored_mk, kept_fold, cstored_mk, keptC_fold]) | apply releaseCl_stored

theorem throttleCl_stored {s : State} (c : Fin 64) (hs : s.stored) : (throttleCl s c).stored := by
  unfold throttleCl
  try dsimp only
  with_reducible repeat' first
    | assumption | (simp only [stored_mk, kept_fold, cstored_mk, keptC_fold]) | apply freezeCl_stored

theorem throttleMore_stored : ∀ (l : List (Fin 64)) {s : State} (swap need budget : Nat), s.stored → (throttleMore s swap need budget l).stored
  | [], s, _, _, _, hs => by
    unfold throttleMore
    exact hs
  | c :: r, s, swap, need, budget, hs => by
    unfold throttleMore
    split
    · exact hs
    · split
      · exact throttleMore_stored r _ _ _ (throttleCl_stored c hs)
      · split
        · exact hs
        · exact throttleMore_stored r _ _ _ (throttleCl_stored c hs)

theorem noteReading_stored {s : State} (x : Sensor × Int) (hs : s.stored) : (noteReading s x).stored := by
  unfold noteReading
  try dsimp only
  with_reducible repeat' first
    | assumption | intro _ | (simp only [stored_mk, kept_fold, cstored_mk, keptC_fold])

theorem noteHottest_stored {s : State} (hs : s.stored) : (noteHottest s).stored := by
  unfold noteHottest
  try dsimp only
  with_reducible repeat' first
    | assumption | intro _ | (simp only [stored_mk, kept_fold, cstored_mk, keptC_fold]) | apply stored_ite
    | apply foldl_keeps (P := State.stored) | split

theorem hotStep_stored {s : State} (rs : List (Sensor × Int)) (hs : s.stored) : (hotStep s rs).stored := by
  unfold hotStep
  try dsimp only
  with_reducible repeat' first
    | assumption | intro _ | (simp only [stored_mk, kept_fold, cstored_mk, keptC_fold]) | apply stored_ite | apply releaseCl_stored
    | apply fresh_stored | apply freezeCl_stored | apply logRated_stored | apply foldl_keeps (P := State.stored) | split

theorem untrip_stored {s : State} (hs : s.stored) : (untrip s).stored := by
  unfold untrip
  try dsimp only
  with_reducible repeat' first
    | assumption | intro _ | (simp only [stored_mk, kept_fold, cstored_mk, keptC_fold]) | apply stored_ite | apply releaseCl_stored
    | apply setCl_stored | apply cl_stored | apply foldl_keeps (P := State.stored) | split

theorem cmdReply_stored {s : State} (code : Nat) (st : Nat) (data : Bytes) (hs : s.stored) : (cmdReply s code st data).stored := by
  unfold cmdReply
  try dsimp only
  with_reducible repeat' first
    | assumption | apply emit_stored

theorem refuseCmd_stored {s : State} (code : Nat) (st : Nat) (hs : s.stored) : (refuseCmd s code st).stored := by
  unfold refuseCmd
  try dsimp only
  with_reducible repeat' first
    | assumption | apply logRefused_stored | apply cmdReply_stored

theorem secCommand_stored {s : State} (role : Role) (may : Bool) (code : Nat) (f : State → State) (hs : s.stored) (hf : ∀ y : State, y.stored → (f y).stored) :
    (secCommand s role may code f).stored := by
  unfold secCommand
  split
  · exact hs
  · split
    · exact refuseCmd_stored code 1 hs
    · split
      · exact refuseCmd_stored code 3 hs
      · exact hf s hs

theorem signOnce_stored {s t : State} (hs : s.stored) (h : signOnce s = some t) : t.stored := by
  unfold signOnce at h
  split at h
  · cases h; exact hs
  · cases h

theorem freeBytes_stored {s : State} (n : Nat) (hs : s.stored) : ((freeBytes s n).1).stored := by
  unfold freeBytes
  try dsimp only
  with_reducible repeat' first
    | assumption | apply fresh_stored

theorem writeOwner_stored {s : State} (b : Bytes) (hs : s.stored) : (writeOwner s b).stored := by
  unfold writeOwner
  try dsimp only
  with_reducible repeat' first
    | assumption | (simp only [stored_mk, kept_fold, cstored_mk, keptC_fold]) | apply logEv_stored

theorem presentToken_stored {s : State} (k : Token) (digest : Bytes) (sigOk : Bool) (hs : s.stored) :
    ((presentToken s k digest sigOk).1).stored := by
  unfold presentToken
  try dsimp only
  with_reducible repeat' first
    | assumption | (simp only [stored_mk, kept_fold, cstored_mk, keptC_fold]) | apply stored_ite | apply newNonce_stored
    | apply logEv_stored | apply authFailure_stored | split

theorem measurement_stored {s : State} (i : Nat) (hs : s.stored) : ((measurement s i).1).stored := by
  unfold measurement
  try dsimp only
  with_reducible repeat' first
    | assumption | intro _ | apply stored_ite | apply freeBytes_stored | split

theorem spdmSend_stored {s : State} (via : Option (Fin 16)) (b : Bytes) (hs : s.stored) : (spdmSend s via b).stored := by
  unfold spdmSend
  try dsimp only
  with_reducible repeat' first
    | assumption | (simp only [stored_mk, kept_fold, cstored_mk, keptC_fold]) | apply stored_ite | apply emit_stored | split

theorem spdmError_stored {s : State} (via : Option (Fin 16)) (code : Nat) (hs : s.stored) : (spdmError s via code).stored := by
  unfold spdmError
  try dsimp only
  with_reducible repeat' first
    | assumption | apply spdmSend_stored

theorem spdmSigned_stored {s : State} (via : Option (Fin 16)) (session : Option Nat) (b : Bytes) (hs : s.stored) :
    (spdmSigned s via session b).stored := by
  unfold spdmSigned
  dsimp only
  split
  · exact logRefused_stored 0 (spdmError_stored via 1 hs)
  · split
    · exact spdmError_stored via 1 hs
    · rename_i s1 h1
      have h2 : s1.stored := signOnce_stored hs h1
      exact spdmSend_stored via _ (freeBytes_stored 96 (show State.stored _ from h2))

theorem nextRequest_stored {s : State} (session : Option Nat) (hs : s.stored) : (nextRequest s session).stored := by
  unfold nextRequest
  try dsimp only
  with_reducible repeat' first
    | assumption | intro _ | (simp only [stored_mk, kept_fold, cstored_mk, keptC_fold]) | apply stored_ite | split

theorem spdmHeard_stored {s : State} (session : Option Nat) (hs : s.stored) : (spdmHeard s session).stored := by
  unfold spdmHeard
  try dsimp only
  with_reducible repeat' first
    | assumption | apply nextRequest_stored | apply fwTracePoint_stored

theorem zeroiseWrite_stored {s : State} (who : Requester) (level : BitVec 3) (hs : s.stored) : (zeroiseWrite s who level).stored := by
  unfold zeroiseWrite
  try dsimp only
  with_reducible repeat' first
    | assumption | apply stored_ite | apply logDenied_stored | apply raiseAlarm_stored | split

theorem afterAlarm_stored {s : State} (hs : s.stored) : (afterAlarm s).stored := by
  unfold afterAlarm
  try dsimp only
  with_reducible repeat' first
    | assumption | (simp only [stored_mk, kept_fold, cstored_mk, keptC_fold]) | apply stored_ite | apply startNet_stored
    | apply finishStage6_stored | apply finishFull_stored | split

theorem setDie_stored {s : State} (d : MeterDie) (hs : s.stored) : (setDie s d).stored := by
  unfold setDie
  try dsimp only
  with_reducible repeat' first
    | assumption | (simp only [stored_mk, kept_fold, cstored_mk, keptC_fold])

theorem setWin_stored {s : State} (w : MeterWin) (hs : s.stored) : (setWin s w).stored := by
  unfold setWin
  try dsimp only
  with_reducible repeat' first
    | assumption | (simp only [stored_mk, kept_fold, cstored_mk, keptC_fold])

theorem sendRecord_stored {s : State} (r : Bytes) (hs : s.stored) : (sendRecord s r).stored := by
  unfold sendRecord
  try dsimp only
  with_reducible repeat' first
    | assumption | (simp only [stored_mk, kept_fold, cstored_mk, keptC_fold]) | apply setDie_stored

theorem sendResponse_stored {s : State} (kind : Nat) (body : List (Nat × Bytes)) (hs : s.stored) : (sendResponse s kind body).stored := by
  unfold sendResponse
  try dsimp only
  with_reducible repeat' first
    | assumption | apply fresh_stored | apply sendRecord_stored

theorem meterReq_stored {s : State} (who : Requester) (cmd : Nat) (p : Fin 8) (hs : s.stored) : (meterReq s who cmd p).stored := by
  unfold meterReq
  try dsimp only
  with_reducible repeat' first
    | assumption | (simp only [stored_mk, kept_fold, cstored_mk, keptC_fold]) | apply stored_ite | apply setWin_stored | split

theorem meterServe_stored {s : State} (cmd : Nat) (p : Fin 8) (ticket : W64) (hs : s.stored) : (meterServe s cmd p ticket).stored := by
  unfold meterServe
  try dsimp only
  with_reducible repeat' first
    | assumption | (simp only [stored_mk, kept_fold, cstored_mk, keptC_fold]) | apply stored_ite | apply sendResponse_stored
    | apply meterTag_stored | apply fresh_stored | apply setDie_stored | split

theorem meterAccept_stored {s : State} (cmd : Nat) (hs : s.stored) : (meterAccept s cmd).stored := by
  unfold meterAccept
  try dsimp only
  with_reducible repeat' first
    | assumption | (simp only [stored_mk, kept_fold, cstored_mk, keptC_fold]) | apply stored_ite | apply meterServe_stored
    | apply setWin_stored | split

theorem storeEnergy_stored {s : State} (r : Bytes) (hs : s.stored) : (storeEnergy s r).stored := by
  unfold storeEnergy
  try dsimp only
  with_reducible repeat' first
    | assumption | (simp only [stored_mk, kept_fold, cstored_mk, keptC_fold]) | apply stored_ite | apply setWin_stored
    | apply logEv_stored | split

theorem dumpTicket_stored {s : State} (p : Fin 8) (t : Ticket) (hs : s.stored) : (dumpTicket s p t).stored := by
  unfold dumpTicket
  try dsimp only
  with_reducible repeat' first
    | assumption | (simp only [stored_mk, kept_fold, cstored_mk, keptC_fold]) | apply stored_ite | apply answer_stored
    | apply beginTicket_stored | apply setSlot_stored | split

theorem captureDump_stored {s : State} (p : Fin 8) (c : Fin 64) (point : Nat) (step : Nat) (hs : s.stored) :
    (captureDump s p c point step).stored := by
  unfold captureDump
  try dsimp only
  with_reducible repeat' first
    | assumption | intro _ | (simp only [stored_mk, kept_fold, cstored_mk, keptC_fold]) | apply stored_ite | apply planksNow_stored
    | apply pCommit_stored | apply setSlot_stored | apply setCl_stored | apply cl_stored | split

theorem tracePoint_stored {s : State} (c : Fin 64) (point : Nat) (hs : s.stored) : (tracePoint s c point).stored := by
  unfold tracePoint
  try dsimp only
  with_reducible repeat' first
    | assumption | intro _ | (simp only [stored_mk, kept_fold, cstored_mk, keptC_fold]) | apply stored_ite | apply setSlot_stored
    | apply captureDump_stored | apply setCl_stored | apply cl_stored | apply foldl_keeps (P := State.stored) | split

theorem traceBody_stored (c : Fin 64) {s : State} (w : IWord) (hs : s.stored) : (traceBody c s w).stored := by
  unfold traceBody
  try dsimp only
  with_reducible repeat' first
    | assumption | apply advanceWord_stored | apply tracePoint_stored | apply traceRec_stored

theorem drainOne_stored {s : State} (p : Fin 8) (c : Fin 64) (n : Nat) (hs : s.stored) : (drainOne s p c n).stored := by
  unfold drainOne
  try dsimp only
  with_reducible repeat' first
    | assumption | (simp only [stored_mk, kept_fold, cstored_mk, keptC_fold]) | apply hostWrite_stored | apply setSlot_stored
    | apply setCl_stored | apply cl_stored

theorem clkField_stored {s : State} (k : Clock) (v : Nat) (lo : Nat) (hs : s.stored) : (clkField s k v lo).stored := by
  unfold clkField
  try dsimp only
  with_reducible repeat' first
    | assumption | apply clkSel_stored

theorem clkSelWrite_stored {s : State} (v : Nat) (hs : s.stored) : (clkSelWrite s v).stored := by
  unfold clkSelWrite
  try dsimp only
  with_reducible repeat' first
    | assumption | (simp only [stored_mk, kept_fold, cstored_mk, keptC_fold]) | apply clkField_stored

theorem wdogWrite_stored {s : State} (v : Nat) (hs : s.stored) : (wdogWrite s v).stored := by
  unfold wdogWrite
  try dsimp only
  with_reducible repeat' first
    | assumption | (simp only [stored_mk, kept_fold, cstored_mk, keptC_fold]) | apply stored_ite | split

theorem ckctlWrite_stored {s : State} (p : Fin 8) (v : Nat) (hs : s.stored) : (ckctlWrite s p v).stored := by
  unfold ckctlWrite
  try dsimp only
  with_reducible repeat' first
    | assumption | (simp only [stored_mk, kept_fold, cstored_mk, keptC_fold]) | apply stored_ite | apply setTwin_stored | split

theorem globPut_stored {s : State} (who : Requester) (o : Nat) (v : Nat) (hs : s.stored) : (globPut s who o v).stored := by
  unfold globPut
  try dsimp only
  with_reducible repeat' first
    | assumption | (simp only [stored_mk, kept_fold, cstored_mk, keptC_fold]) | apply stored_ite | apply clkSelWrite_stored
    | apply appStart_stored | apply app1Write_stored | apply wdogWrite_stored | apply meterReq_stored | apply ckctlWrite_stored | split

theorem plkPut_stored {s : State} (who : Requester) (c : Fin 64) (o : Nat) (v : Nat) (hs : s.stored) : (plkPut s who c o v).stored := by
  unfold plkPut
  try dsimp only
  with_reducible repeat' first
    | assumption | (simp only [stored_mk, kept_fold, cstored_mk, keptC_fold]) | apply stored_ite | apply cstored_ite
    | apply clrFaulted_stored | apply setCl_stored | apply cl_stored | split

theorem seqCtrlPut_stored {s : State} (c : Fin 64) (v : Nat) (hs : s.stored) : (seqCtrlPut s c v).stored := by
  unfold seqCtrlPut
  try dsimp only
  with_reducible repeat' first
    | assumption | intro _ | apply stored_ite | apply resumeCluster_stored | apply pauseCluster_stored | apply seqClrStop_stored
    | apply seqTrapDone_stored | apply seqRelease_stored | apply goCluster_stored | split

theorem seqPut_stored {s : State} (who : Requester) (c : Fin 64) (o : Nat) (v : Nat) (hs : s.stored) : (seqPut s who c o v).stored := by
  unfold seqPut
  try dsimp only
  with_reducible repeat' first
    | assumption | (simp only [stored_mk, kept_fold, cstored_mk, keptC_fold]) | apply stored_ite | apply cstored_ite
    | apply seqCtrlPut_stored | apply setCl_stored | apply cl_stored | split

theorem clPut_stored {s : State} (who : Requester) (c : Fin 64) (o : Nat) (v : Nat) (hs : s.stored) : (clPut s who c o v).stored := by
  unfold clPut
  try dsimp only
  with_reducible repeat' first
    | assumption | (simp only [stored_mk, kept_fold, cstored_mk, keptC_fold]) | apply stored_ite | apply cstored_ite | apply plkPut_stored
    | apply seqPut_stored | apply setCl_stored | apply cl_stored | split

theorem rebuildBit_stored {s : State} (who : Requester) (g : Fin 8) (m : Fin 2) (on : Bool) (hs : s.stored) :
    (rebuildBit s who g m on).stored := by
  unfold rebuildBit
  try dsimp only
  with_reducible repeat' first
    | assumption | apply stored_ite | apply fresh_stored | apply rebuildNow_stored | split

theorem mgPut_stored {s : State} (who : Requester) (g : Fin 8) (o : Nat) (v : Nat) (hs : s.stored) : (mgPut s who g o v).stored := by
  unfold mgPut
  try dsimp only
  with_reducible repeat' first
    | assumption | (simp only [stored_mk, kept_fold, cstored_mk, keptC_fold]) | apply stored_ite | apply rebuildBit_stored
    | apply setMg_stored | split

theorem portPut_stored {s : State} (who : Requester) (q : Fin 16) (o : Nat) (v : Nat) (hs : s.stored) : (portPut s who q o v).stored := by
  unfold portPut
  try dsimp only
  with_reducible repeat' first
    | assumption | (simp only [stored_mk, kept_fold, cstored_mk, keptC_fold]) | apply stored_ite | apply brmDisable_stored
    | apply brmFullWidth_stored | apply brmRetrain_stored | apply setPort_stored | split

theorem colPut_stored {s : State} (who : Requester) (e : Fin 4) (o : Nat) (v : Nat) (hs : s.stored) : (colPut s who e o v).stored := by
  unfold colPut
  try dsimp only
  with_reducible repeat' first
    | assumption | (simp only [stored_mk, kept_fold, cstored_mk, keptC_fold]) | apply stored_ite | apply setCol_stored
    | apply colAbort_stored | apply colStepWrite_stored | split

theorem updPut_stored {s : State} (who : Requester) (e : Fin 4) (o : Nat) (v : Nat) (hs : s.stored) : (updPut s who e o v).stored := by
  unfold updPut
  try dsimp only
  with_reducible repeat' first
    | assumption | (simp only [stored_mk, kept_fold, cstored_mk, keptC_fold]) | apply stored_ite | apply clrDiscord_stored
    | apply setUe_stored | split

theorem secPut_stored {s : State} (who : Requester) (o : Nat) (v : Nat) (hs : s.stored) : (secPut s who o v).stored := by
  unfold secPut
  try dsimp only
  with_reducible repeat' first
    | assumption | (simp only [stored_mk, kept_fold, cstored_mk, keptC_fold]) | apply stored_ite | apply zeroiseWrite_stored | split

theorem csrPut32_stored {s : State} (who : Requester) (off : Nat) (v : Nat) (hs : s.stored) : (csrPut32 s who off v).stored := by
  unfold csrPut32
  try dsimp only
  with_reducible repeat' first
    | assumption | apply stored_ite | apply globPut_stored | apply clPut_stored | apply mgPut_stored | apply portPut_stored
    | apply colPut_stored | apply updPut_stored | apply secPut_stored | apply setCl_stored | apply cl_stored | split

theorem put64_stored {s : State} (off : Nat) (who : Requester) (part : RegPart) (val old : W64) (rw : Bool) (put : State → W64 → State)
    (hs : s.stored) (hput : ∀ (y : State) (w : W64), y.stored → (put y w).stored) : (put64 s off who part val old rw put).stored := by
  unfold put64
  dsimp only
  split
  · exact halfWrite_stored _ who part val old rw hs
  · exact hput _ _ (halfWrite_stored _ who part val old rw hs)

theorem seqPut64_stored {s : State} (who : Requester) (c : Fin 64) (o : Nat) (off : Nat) (part : RegPart) (val : W64)
    (hs : s.stored) : (seqPut64 s who c o off part val).stored := by
  unfold seqPut64
  try dsimp only
  with_reducible repeat' first
    | assumption | intro _ | (simp only [stored_mk, kept_fold, cstored_mk, keptC_fold]) | apply stored_ite | apply cstored_ite
    | apply rngSeedWrite_stored | apply put64_stored | apply setCl_stored | apply cl_stored | split

theorem colPut64_stored {s : State} (who : Requester) (e : Fin 4) (o : Nat) (off : Nat) (part : RegPart) (val : W64) (hs : s.stored) :
    (colPut64 s who e o off part val).stored := by
  unfold colPut64
  try dsimp only
  with_reducible repeat' first
    | assumption | intro _ | (simp only [stored_mk, kept_fold, cstored_mk, keptC_fold]) | apply stored_ite | apply put64_stored
    | apply setCol_stored | split

theorem updPut64_stored {s : State} (who : Requester) (e : Fin 4) (o : Nat) (off : Nat) (part : RegPart) (val : W64) (hs : s.stored) :
    (updPut64 s who e o off part val).stored := by
  unfold updPut64
  try dsimp only
  with_reducible repeat' first
    | assumption | intro _ | (simp only [stored_mk, kept_fold, cstored_mk, keptC_fold]) | apply stored_ite | apply setUe_stored
    | apply put64_stored | apply updSeedWrite_stored | split

theorem globPut64_stored {s : State} (who : Requester) (o : Nat) (off : Nat) (part : RegPart) (val : W64) (hs : s.stored) :
    (globPut64 s who o off part val).stored := by
  unfold globPut64
  try dsimp only
  with_reducible repeat' first
    | assumption | intro _ | (simp only [stored_mk, kept_fold, cstored_mk, keptC_fold]) | apply stored_ite | apply put64_stored
    | apply setWin_stored | apply tktBaseWrite_stored | split

theorem dbgPut64_stored {s : State} (who : Requester) (o : Nat) (off : Nat) (part : RegPart) (val : W64) (hs : s.stored) :
    (dbgPut64 s who o off part val).stored := by
  unfold dbgPut64
  try dsimp only
  with_reducible repeat' first
    | assumption | intro _ | (simp only [stored_mk, kept_fold, cstored_mk, keptC_fold]) | apply stored_ite | apply setSlot_stored
    | apply put64_stored | split

theorem csrPut64_stored {s : State} (who : Requester) (off : Nat) (part : RegPart) (val : W64) (hs : s.stored) :
    (csrPut64 s who off part val).stored := by
  unfold csrPut64
  try dsimp only
  with_reducible repeat' first
    | assumption | apply stored_ite | apply globPut64_stored | apply seqPut64_stored | apply colPut64_stored | apply updPut64_stored
    | apply dbgPut64_stored | apply setCl_stored | apply cl_stored | split

theorem csrStore_stored {s : State} (who : Requester) (off : Nat) (width : Nat) (val : W64) (hs : s.stored) :
    (csrStore s who off width val).stored := by
  unfold csrStore
  try dsimp only
  with_reducible repeat' first
    | assumption | apply stored_ite | apply csrPut64_stored | apply csrPut32_stored | split

theorem zeroRead_stored {s : State} (isWrite : Bool) (hs : s.stored) : (zeroRead s isWrite).stored := by
  unfold zeroRead
  try dsimp only
  with_reducible repeat' first
    | assumption | apply stored_ite | apply emit_stored | split

theorem readAt_stored {s : State} (who : Requester) (a : Nat) (ecc : Ecc) (hs : s.stored) : (readAt s who a ecc).stored := by
  unfold readAt
  try dsimp only
  with_reducible repeat' first
    | assumption | apply stored_ite | apply emit_stored | apply checkAddr_stored | apply planksNow_stored | split

theorem writeAt_stored {s : State} (who : Requester) (a : Nat) (data : Bytes) (poison : Bool) (ecc : Ecc) (hs : s.stored) :
    (writeAt s who a data poison ecc).stored := by
  unfold writeAt
  try dsimp only
  with_reducible repeat' first
    | assumption | apply stored_ite | apply csrStore_stored | apply dramWrite_stored | apply devWrite_stored | apply planksNow_stored
    | split

end Sys2Proof.Machine
end

