-- ==== Sys2Proof/Machine/MemCrypt.lean ====
section
/-! DEFINITION. What the channels of main memory store (R242, R246): the ciphertext of each granule under the keys of its owner, by
AES-256-XTS (IEEE 1619), and the content of a parity channel, which follows from that of its 11 data channels. Reads and writes work on the
plaintext that State holds; here is the same memory as its devices hold it. -/

namespace Sys2Proof.Machine

/-- A tweak multiplied by the primitive element of the field of XTS. -/
def xtsDouble (t : Bytes) : Bytes :=
  let n := 2 * leNat t
  let r := n % 2 ^ 128
  natLe 16 (if 2 ^ 128 ≤ n then r ^^^ 0x87 else r)

/-- One block under a tweak. -/
def xtsBlock (w : List Bytes) (t b : Bytes) : Bytes := xorB (aesBlock w (xorB b t)) t

/-- A data unit of two blocks under the two keys of its owner and its tweak. -/
def xtsUnit (k : MemKey) (tweak : Nat) (b : Bytes) : Bytes :=
  let w := aesSchedule k.data
  let t := aesBlock (aesSchedule k.tweak) (natLe 16 tweak)
  xtsBlock w t (sliceB b 0 16) ++ xtsBlock w (xtsDouble t) (sliceB b 16 16)

/-- The tweak of a granule (R246): its number in the owner range, with the owner number in bits 127 to 124. -/
def xtsTweak (owner : Fin 9) (granule : Nat) : Nat := owner.val * 2 ^ 124 + granule

/-- The bits that a data channel stores at granule g, and their poison flag; none where no owner's keys are in force. -/
def storedGranule (m : Mem) (c g : Nat) : Option (Bytes × Bool) :=
  (List.finRange 9).findSome? (fun i => match m.owners.get i with
    | none => none
    | some o => match o.key, unlocate o.chans c (32 * g) with
      | some k, some a =>
        some (xtsUnit k (xtsTweak i (a / 32)) ((span (o.base + a) 32).map (dramGet m)), dramPoi m (o.base + a))
      | _, _ => none)

/-- What the parity channel of parity group pg, 0 to 15, holds at granule g (R242): the XOR of the stored bits of its 11 data channels, and
the OR of their poison flags. -/
def parityGranule (m : Mem) (pg g : Nat) : Bytes × Bool :=
  (List.range 11).foldl (fun (r : Bytes × Bool) i => match storedGranule m (12 * pg + i) g with
    | some x => (xorB r.1 x.1, r.2 || x.2)
    | none => r) (zeroB 32, false)

end Sys2Proof.Machine
end

