-- ==== Sys2Proof/Machine/Package.lean ====
section
/-! DEFINITION. The lands of the package (chapter 21: R532, R533): their names and groups. No command acts on them. -/

namespace Sys2Proof.Machine

/-- The row letters (R532). -/
def landLetters : List Char := "ABCDEFGHJKLMNPTUVWY".toList

/-- The name of a row, by its index n, 1 to 123. -/
def landRowName (n : Nat) : String :=
  let l (i : Nat) : Char := landLetters.getD i 'A'
  if n ≤ 19 then String.ofList [l (n - 1)] else String.ofList [l ((n - 20) / 19), l ((n - 20) % 19)]

/-- The groups of lands (R533). -/
inductive LandGroup where
  | mem (g : Fin 8)
  | brimL
  | brimR
  | linkPwr
  | sideband
  | meter
  | corePwr
deriving DecidableEq, Repr

/-- The quarter of a row of 123 columns that serves a memory-controller group: 31 columns each, and 30 in the last. -/
def landQuarter (col : Nat) : Nat := min 3 ((col - 1) / 31)

/-- The group of the land at row index and column, 1 to 123 each. -/
def landGroup (row col : Nat) : LandGroup :=
  if row ≤ 19 then .mem ⟨landQuarter col % 4, by omega⟩
  else if 105 ≤ row then .mem ⟨4 + landQuarter col % 4, by omega⟩
  else if col ≤ 14 then .brimL
  else if 110 ≤ col then .brimR
  else if col ≤ 22 ∨ 102 ≤ col then .linkPwr
  else if row ≤ 24 ∧ col ≤ 40 then .sideband
  else if row ≤ 24 ∧ 84 ≤ col then .meter
  else .corePwr

end Sys2Proof.Machine
end

