-- ==== Sys2Proof/WellFormed.lean ====
section
/-! DEFINITION. Which operands a command can have at all: the widths that the manual gives the fields of a bus access, a flit, a message, a
request or a record. A well-formed command may still be refused or have no effect; that is its meaning. -/

namespace Sys2Proof

def isByte (n : Nat) : Bool := decide (n < 2 ^ 8)
def isU16 (n : Nat) : Bool := decide (n < 2 ^ 16)
def isU32 (n : Nat) : Bool := decide (n < 2 ^ 32)
def isU64 (n : Nat) : Bool := decide (n < 2 ^ 64)

/-- A device physical address has 48 bits (R23). -/
def isAddr (a : Nat) : Bool := decide (a < 2 ^ 48)

/-- A bus access covers 1, 2, 4 or 8 bytes (R11: the narrower ones are not performed). -/
def isWidth (w : Nat) : Bool := w == 1 || w == 2 || w == 4 || w == 8

/-- A tile fits byte 8 of a fault's payload (R111). -/
def isTile (n : Nat) : Bool := isByte n

/-- A write by one granule: between 1 and 32 bytes of one 32-byte granule (R239). -/
def inGranule (a : Nat) (data : Bytes) : Bool := decide (1 ≤ data.length) && decide (a % 32 + data.length ≤ 32)

/-- A granule offset in a channel of 16 GiB (R235). -/
def inChannel (off : Nat) : Bool := decide (off < 2 ^ 34)

/-- A hatband flit holds at most 256 bytes in whole granules (R251). -/
def isHatband (a : Nat) (data : Bytes) : Bool := decide (data.length ≤ 256) && a % 32 == 0 && data.length % 32 == 0

/-- An offset in an on-die store (R248). -/
def inStore (st : Store) (off : Nat) : Bool :=
  match st with
  | .operand _ => decide (off < 0xA00000)
  | .bankA _ | .bankB _ => decide (off < 0x100000)
  | .vreg _ => decide (off < 0x8000)
  | .spine _ => decide (off < 0x4000000)

/-- A flit sequence number has 48 bits (R263). -/
def isSeq (n : Nat) : Bool := decide (n < 2 ^ 48)

/-- A flit carries 224 bytes of data and two sequence numbers (R263). -/
def isFlit (f : Flit) : Bool := isSeq f.seq && isSeq f.ack && f.data.length == 224

/-- A contribution's header fields have their widths, and the poisoned granules lie in its data (R279). -/
def isMessage (h : ContribHdr) (data : Bytes) (poisoned : List Nat) : Bool :=
  decide (h.hop < 2 ^ 14) && isU32 h.chunk && isU32 data.length && poisoned.all (fun g => decide (g * 32 < data.length))

/-- A request number has 64 bits and a request's ARGS at most 1,200 bytes (R381). -/
def isReq (r : MgmtReq) : Bool := isU64 r.reqId
def isArgs (b : Bytes) : Bool := decide (b.length ≤ 1200)

/-- A SHA-384 digest (R347, R399). -/
def isDigest (b : Bytes) : Bool := b.length == 48

/-- An ECDSA P-384 signature (R494). -/
def isSig (b : Bytes) : Bool := b.length == 96

/-- An owner record without its HMAC: bytes 0 to 2,223 (R476). -/
def isRecord (b : Bytes) : Bool := b.length == 2224

/-- The values of a binding exchange (R478). -/
def isBind (request qd ct ss1 ss2 : Bytes) : Bool :=
  decide (1665 ≤ request.length) && qd.length == 97 && ct.length == 1568 && ss1.length == 48 && ss2.length == 32

/-- The fields of a debug token have their widths (R480). -/
def isToken (k : Token) : Bool := isByte k.issuer && isByte k.part && isU32 k.boot && isU32 k.life

/-- A TFTP data packet holds at most 8,192 bytes (R324). -/
def isBlock (b : Bytes) : Bool := decide (b.length ≤ 8192)

/-- Strictly rising: nothing is named twice. -/
def rises : List Nat → Bool
  | [] => true
  | [_] => true
  | a :: b :: r => decide (a < b) && rises (b :: r)

/-- The operands of a command fit the fields that carry them. -/
def Instr.wf : Instr → Bool
  | .csrWrite _ _ addr width _ => isAddr addr && isWidth width
  | .unmappedAccess _ _ addr _ => isAddr addr
  | .deniedAccess _ _ addr _ => isAddr addr
  | .shadowParity _ _ _ tile => isTile tile
  | .plankResidue _ _ _ tile => isTile tile
  | .accEcc _ _ _ tile => isTile tile
  | .memRead _ _ addr _ => isAddr addr
  | .memWrite _ _ addr data _ _ => isAddr addr && inGranule addr data
  | .scrub _ _ _ off _ => inChannel off
  | .hatbandFlit _ _ addr data _ _ => isAddr addr && isHatband addr data
  | .sramAccess _ store off _ => inStore store off
  | .flitReceive _ _ f _ _ => isFlit f
  | .nak _ _ ack => isSeq ack
  | .time _ _ peerNs => isU64 peerNs
  | .contribution _ _ h data poisoned => isMessage h data poisoned
  | .selftest _ _ result => isU32 result
  | .load _ _ _ trained => rises (trained.map (fun x => x.group.val))
  | .status _ r => isReq r
  | .logRead _ r start count => isReq r && isU64 start && isU32 count
  | .traceSet _ r proc _ => isReq r && isU16 proc
  | .mgmtSelftest _ r test target timeoutMs _ _ result => isReq r && isByte test && isU16 target && isU32 timeoutMs && isU32 result
  | .fwBegin _ r total => isReq r && isU32 total
  | .fwData _ r off data => isReq r && isU32 off && isArgs data
  | .fwCommit _ r _ => isReq r
  | .fwAbort _ r => isReq r
  | .procRestart _ r proc _ => isReq r && isU16 proc
  | .cntRead _ r bank first count => isReq r && isU16 bank && isU16 first && isU16 count
  | .clusterKat _ _ result => isU32 result
  | .hello _ _ _ finger => isDigest finger
  | .digest _ _ _ step _ => isU32 step
  | .recover _ _ _ reason r gen target => isByte reason && isU32 r && isU32 gen && isU32 target
  | .join _ _ _ j => isU32 j
  | .powerDecision _ _ dyn => rises (dyn.map (fun x => x.1.val))
  | .setOwner _ _ newRecord _ => isRecord newRecord
  | .authKey _ _ keyDigest _ => isDigest keyDigest
  | .revokeKey _ _ keyDigest => isDigest keyDigest
  | .grantSlot _ _ _ keyDigest => isDigest keyDigest
  | .bindTenant _ keyDigest _ request qd ct ss1 ss2 _ => isDigest keyDigest && isBind request qd ct ss1 ss2
  | .raiseFloor _ _ floor => isU32 floor
  | .debugOpen _ _ tok tokDigest _ => isToken tok && isDigest tokDigest
  | .tokenLoad _ tok tokDigest _ => isToken tok && isDigest tokDigest
  | .tftpData _ block data _ => isU16 block && isBlock data
  | .energy _ _ _ _ sg => isSig sg
  | .nop _ _ | .endstep _ _ | .jump _ _ | .callv _ _ | .ret _ _ | .loop _ _ | .trap _ _ | .pass _ _ | .copy _ _ | .fill _ _
  | .moveDone _ _ | .sig _ _ | .sigDelivery _ _ _ _ _ | .sigRepeat _ _ _ _ _ | .wait _ _ | .bar _ _ | .flush _ _ | .trace _ _
  | .seqCtrlGo _ _ _ | .seqCtrlRelease _ _ _ | .seqCtrlTrapDone _ _ _ | .seqCtrlClrStop _ _ _ | .seqCtrlPause _ _ _
  | .seqCtrlResume _ _ _ | .pausePoint _ _ | .plkCtrlClrFaulted _ _ _ | .passCommit _ _ | .pounceCheckDone _ _
  | .passReexecute _ _ | .freezeRequest _ _ _ | .freezeRelease _ _ _ | .vecComplete _ _ | .add _ _ | .sub _ _ | .mul _ _
  | .fma _ _ | .neg _ _ | .abs _ _ | .min _ _ | .max _ _ | .cmpeq _ _ | .cmplt _ _ | .cmple _ _ | .iadd _ _ | .isub _ _
  | .imul _ _ | .mulbs _ _ | .and _ _ | .or _ _ | .xor _ _ | .shl _ _ | .shr _ _ | .sra _ _ | .cvt _ _ | .cvtsr _ _ | .split3 _ _
  | .exp2 _ _ | .log2 _ _ | .rcp _ _ | .rsqrt _ _ | .redsum _ _ | .redprod _ _ | .redmax _ _ | .redmin _ _ | .argmax _ _
  | .argmin _ _ | .dropout _ _ | .streamsoftmax _ _ | .turn _ _ | .rngSeed _ _ _ _ _ | .mgTrain _ _ _ | .rebuildRetry _ _ _ _
  | .memCtrlRebuildNow0 _ _ _ _ | .memCtrlRebuildNow1 _ _ _ _ | .rebuildDone _ _ _ | .periodicRetraining _ _ _ _
  | .linkTrain _ _ _ _ | .trainRetry _ _ _ _ | .attest _ _ _ | .retrain _ _ _ _ | .keyUpdate _ _ _ | .brmCtrlRetrain _ _ _
  | .brmCtrlFullWidth _ _ _ | .timeExchange _ | .colStep _ _ _ _ | .colCtrlAbort _ _ _ | .collectiveStart _ _ | .notify _ _
  | .collTimeout _ _ | .battReceive _ _ | .close _ _ | .updCtrlClrDiscord _ _ _ | .updSeed _ _ _ _ _ | .decide _ _ | .stageB5 _ _
  | .ledgerSample _ | .run _ _ _ | .pause _ _ | .resume _ _ | .checkpoint _ _ | .dump _ _ | .claim _ _ | .detach _ _
  | .partialReload _ _ | .tktBase _ _ _ _ _ | .leaseLapsed _ _ | .schedulerWatchdog _ _ | .clusterWatchdog _ _ _ | .fwActivate _
  | .slack _ _ _ | .wakeOnPoint _ _ _ | .sleepOnPoint _ _ _ | .parked _ _ _ | .fenced _ _ _ | .rebuild _ _ _ | .waitRejoin _ _
  | .twinRebuildDone _ _ _ | .twinSolo _ _ | .buddyRequest _ _ _ _ | .ckptDone _ _ | .restore _ _ _ | .clkSelArr _ _ _
  | .clkSelFab _ _ _ | .clkSelCtl _ _ _ | .clkSelApp _ _ _ | .clkSwitch _ _ | .refLost _ _ | .clkFallbackRetry _
  | .arrPllStop _ _ | .powerUp _ _ | .powerFault _ _ | .hwIlimit _ | .hwLimitRelease _ | .thermalRead _ _ | .thermTrip _ _ _
  | .pwrReqApp1On _ _ _ | .pwrAppStart _ _ _ | .debugClose _ | .enableRetire _ _ | .pqSig _ _ | .spdmMessage _ _ _ _ | .alarm _ _
  | .alarmEnd _ | .secZeroise _ _ _ | .coldReset _ | .strapLatch _ _ | .ctlPllLock _ _ | .mgtLinkUp _ | .dhcpack _ _ _ _
  | .dhcpRetry _ | .tftpError _ | .tftpRetransmit _ | .bootRetry _ | .bootDone _ | .hostPortSample _ | .hostFrameReceive _ _ _
  | .hostFrameSent _ | .firmwareFrame _ _ | .dhcpRenew _ _ | .mgtLinkLost _ | .i3cPrivateRead _ | .meterPowerUp _ | .ident _ _
  | .setTag _ _ _ | .readStatus _ _ | .selfCheck _ _ | .periodicSelfCheck _ | .check _ _ _ | .meterRecord _ | .meterSilent _
  | .traceDrain _ _ | .dumpDeliver _ _ | .powerLoss _ | .loadAlarmTimeout _ _ | .selftestTimeout _ _ | .brmCtrlDisable _ _ _ _
  | .pgoodOrResetNLow _ _ _ => true

end Sys2Proof
end

