-- ==== Sys2Proof/Tests/Slice0.lean ====
section
/-! SUPPORT. Small states, the smoke test of WellFormed, tests against worked values of the manual, and for every statement with hypotheses
states and operands that meet them, clause by clause. -/

set_option maxRecDepth 20000
set_option linter.unusedVariables false
set_option Elab.async false

namespace Sys2Proof.Tests
open Sys2Proof Sys2Proof.Machine

-- Small states

def word (fs : List (Nat × Nat)) : IWord := BitVec.ofNat 128 (fs.foldl (fun a x => a + x.2 * 2 ^ x.1) 0)
/-- An instruction word of a class and operation that waits for nothing. -/
def iw (cls op : Nat) (fs : List (Nat × Nat)) : IWord := word ([(125, cls), (121, op), (118, 7), (115, 7), (112, 7)] ++ fs)
def endW : IWord := iw 0 1 []
def nopW : IWord := iw 0 0 []
def bytes (n : Nat) (fs : List (Nat × Bytes)) : Bytes := fs.foldl (fun b x => patchB b x.1 x.2) (zeroB n)

def img : Img :=
  { imageId := 1, digest := zeroB 48, keyDigest := zeroB 48, finger := zeroB 48, loadArea := 0x100000, total := 4096
    part := bytes 128 [(4, natLe 2 1), (7, natLe 1 1), (28, natLe 2 3)], clusters := zeroB 32, layers := zeroB 64, ladders := zeroB 64
    streams := zeroB 64, groups := zeroB 64
    links := bytes 320 [(16, natLe 1 1), (32, natLe 1 2)], barriers := bytes 128 [(0, natLe 8 3)]
    symbols := [], wake := [], scheds := [], gtab := 0, dests := [] }

def chan1 : Chan := { Chan.reset with state := 1, owner := 0 }
def mg1 : Mg := { Mg.reset with trained := true, chans := Vector.replicate 24 chan1 }
/-- Keys of zeros. -/
def ky (n : Nat) : MemKey := { num := n, data := zeroB 32, tweak := zeroB 32 }
def mem1 : Mem :=
  { mgs := Vector.replicate 8 mg1
    owners := vset (vset (Vector.replicate 9 none) 0 (some { base := 0, chans := [0], key := some (ky 0) })) 8
      (some { base := 2 ^ 34, chans := [1], key := some (ky 1) })
    cells := [], poison := [], sramCe := Vector.replicate 258 0 }

/-- A package that serves: every domain powered, partition 0 idle with clusters 0 and 1, one channel of main memory for it and one for the host. -/
def up : State :=
  { State.reset with
    now := 0
    pwr := { Pwr.reset with on := BitVec.allOnes 96 }
    boot := { Boot.reset with stage := 7, running := 1 }
    clk := { Clk.reset with cool := some 1, en := 0x7F, run := Vector.replicate 5 true }
    mem := mem1
    slots := vset (Vector.replicate 8 Slot.reset) 0 { Slot.reset with st := .idle, img := some img, asg := { Assign.none with cmap := [0, 1] } } }

def setC (s : State) (c : Fin 64) (f : Cluster → Cluster) : State := s.setCl c (f (s.cl c))
def setS (s : State) (p : Fin 8) (f : Slot → Slot) : State := s.setSlot p (f (s.slot p))
def setP (s : State) (p : Fin 16) (f : Port → Port) : State := s.setPort p (f (s.port p))
def setL (s : State) (p : Fin 16) (f : LinkL → LinkL) : State := s.setLink p (f (s.link p))
def setK (s : State) (e : Fin 4) (f : Col → Col) : State := s.setCol e (f (s.col e))
def setU (s : State) (e : Fin 4) (f : Ue → Ue) : State := s.setUe e (f (s.ue e))
def setG (s : State) (g : Fin 8) (f : Mg → Mg) : State := s.setMg g (f (s.mg g))
def off (s : State) (i : Nat) : State := { s with pwr := { s.pwr with on := setDom s.pwr.on i false } }
/-- No partition holds any slot. -/
def alone (s : State) : State := { s with slots := Vector.replicate 8 Slot.reset }
/-- Cells of byte strings at rising addresses; for an SRAM without the zeros. -/
def mcells (l : List (Nat × Bytes)) : List Host.Cell := l.flatMap (fun x => x.2.zipIdx.map (fun y => (x.1 + y.2, y.1)))
def scells (l : List (Nat × Bytes)) : List Host.Cell := (mcells l).filter (fun y => y.2 != 0)
/-- Cluster 0 about to issue word i of a block. -/
def at' (ws : List IWord) (i : Nat := 0) (f : Cluster → Cluster := id) : State :=
  setC up 0 (fun k => f { k with seq := { k.seq with mode := .run, block := some { addr := 0x1000, words := ws, tgts := [] }, idx := i } })
/-- The state after a command. -/
def nx (i : Instr) (s : State) : State :=
  match exec i s with
  | .next u => u
  | _ => s

/-- A PASS word with its fields beside those that every one here has. -/
def pw (m : Nat) (l : List (Nat × Nat)) : IWord := iw 1 0 ([(104, 1), (99, 1), (98, m), (96, 1), (86, 3), (82, 1), (74, 3), (51, 0), (33, 2)] ++ l)
/-- One pass in flight, and two. -/
def fly : State := nx (.pass 5 0) (at' [pw 0 [], pw 0 [], endW])
def fly2 : State := nx (.pass 6 0) fly
theorem length_natLe (n v : Nat) : (natLe n v).length = n := by
  induction n generalizing v with
  | zero => rfl
  | succ n ih => simp [natLe, ih]
theorem length_sliceB (b : Bytes) (o n : Nat) : (sliceB b o n).length = n := by
  simp only [sliceB, List.length_append, List.length_take, List.length_drop, List.length_replicate]
  omega
/-- Safety's Issues, evaluated. -/
def issuesB (s : State) (c : Fin 64) (w : IWord) (cls op : Nat) : Bool :=
  mayIssue s c && (s.cl c).seq.word == some w && wordValid w && wCls w == cls && wOp w == op && waitsMet (s.cl c) w &&
    ((s.cl c).seq.idx + 1 != (((s.cl c).seq.block.map (fun b => b.words.length)).getD 0) || endsBlock w)
theorem issuesB_iff (s : State) (c : Fin 64) (w : IWord) (cls op : Nat) : issuesB s c w cls op = true ↔ Issues s c w cls op := by
  simp [issuesB, Issues, and_assoc]
/-- The byte x of main memory is present. -/
def held (m : Mem) (x : Nat) : Bool :=
  match dramAt m x with
  | .held _ => true
  | _ => false
/-- Cluster 0 after a PAUSE has been noted. -/
def asked (s : State) : State :=
  (tick 5 s).setCl 0 { s.cl 0 with seq := { (s.cl 0).seq with pauseReq := true, pauseC := arrCyc (tick 5 s) 0 } }
/-- Cluster 0 once it has joined a generation of barrier b. -/
def joins (s : State) (b : Nat) : State :=
  (tick 5 s).setCl 0 { s.cl 0 with
    seq := { (s.cl 0).seq with mode := .wait, barWait := some b, barGen := alPut (s.cl 0).seq.barGen b (some (barCount (s.cl 0) b + 1)) } }
/-- The state with request 3 of session 7 noted. -/
def served (s : State) : State := { tick 2000000000 s with sched := { s.sched with highest := alPut s.sched.highest 7 (some 3) } }
def pick (l : List State) (i : Nat) : State := l.getD i up
def pickK (l : List Ticket) (i : Nat) : Ticket := l.getD i { num := 0, epoch := 0, typ := 0, raw := [], begun := false, ord := 0 }
def pickI (l : List Instr) (i : Nat) : Instr := l.getD i (.nop 0 0)
def pickM (l : List Img) (i : Nat) : Img := l.getD i img
def pickZ {α : Type} [Inhabited α] (l : List α) (i : Nat) : α := l.getD i default

/- A ticket, a partition 0 with a live ledger that holds tickets, a RUN of it, and parts of its twin and checkpoint state. -/
def tk (num typ : Nat) (l : List (Nat × Bytes) := []) (begun : Bool := false) (ep : Nat := 3) : Ticket :=
  let b := bytes 64 ([(0, natLe 8 num), (8, natLe 4 ep), (12, natLe 1 typ)] ++ l)
  let b := patchB b 60 (natLe 4 (crc32 (b.take 60)))
  { num := num, epoch := ep, typ := typ, raw := b, begun := begun, ord := 0 }
def q (s : State) (ks : List Ticket) (f : Slot → Slot := id) : State := setS s 0 (fun x => f { x with led := { x.led with base := 2 ^ 63 + 0x100000, queue := ks, high := 9, epoch := 3, claimed := true, live := true } })
def rn (st : Stage) (n : Nat := 9) : Run := { num := n, left := 3, step := 5, stage := st, fresh := true, started := true, dueAt := 0, applied := false }
def pst (p : PState) (r : Option Run) (x : Slot) : Slot := { x with st := p, run := r }
def T0 : Nat := 2000000000
def w (f : Twin → Twin) (x : Slot) : Slot := { x with twin := f x.twin }
def ck (f : Ckpt → Ckpt) (x : Slot) : Slot := { x with ck := f x.ck }
def ports (s : State) (n : BitVec 3 := 3) : State := [0, 1, 2].foldl (fun (t : State) (p : Fin 16) => t.setPort p { t.port p with state := n, width := 3 }) s
def img3 : Img := { img with links := patchB img.links 48 (natLe 1 3) }
def im (x : Slot) : Slot := { x with img := some img3 }
def b (f : Slot → Slot) : State := ports (q up [tk 9 1 [] true] (f ∘ im))
def rr (n : Nat) : Slot → Slot := pst .running (some { rn .atB5 with step := n })
def shard : Marked := { bytes := List.replicate 329 7, poison := [] }
def good : Marked := ckptOf img3 0 3 4 shard
def sk (f : Sec → Sec) (s : State := up) : State := { s with sec := f s.sec }
def bk (f : Boot → Boot) (s : State := up) : State := { s with boot := f s.boot }
def nk (f : Net → Net) (s : State := up) : State := { s with net := f s.net }
def al (l : Nat) (s : State) : State := sk (fun k => { k with alarms := [{ sensor := 1, level := l, since := 0 }] }) s
def pl : List (BitVec 32) := [0x0A000001]

-- WellFormed refuses an ill-formed term for each of its checks

theorem test_wf_accepts : (Instr.memRead 5 .sched 0x1000 .clean).wf = true ∧ (Instr.csrWrite 5 .sched csrBase 8 3).wf = true ∧
    (Instr.hello 5 0 0 (zeroB 48)).wf = true := by decide

def req0 : MgmtReq := { session := 1, reqId := 5, addr := 1, port := 7 }
def tok0 : Token := { magic := 0x4742444B, ver := 1, issuer := 1, part := 0xFF, serial := 0, boot := 0, scope := 3, nonce := 0, life := 10 }
def flit0 : Flit := { seq := 0, typ := 1, vc := 0, key := true, poison := 0, ack := 0, cvc := 0, credit := 0, data := zeroB 224 }
def hdr0 : ContribHdr := ⟨0, 0, 1, 77, 1, 5, false⟩

theorem test_wf_isAddr : (Instr.memRead 5 .sched (2 ^ 48) .clean).wf = false := by decide
theorem test_wf_isWidth : (Instr.csrWrite 5 .sched csrBase 3 7).wf = false := by decide
theorem test_wf_isTile : (Instr.accEcc 5 0 0 256).wf = false := by decide
theorem test_wf_inGranule : (Instr.memWrite 5 .sched 0x101F [1, 2] false .clean).wf = false := by decide
theorem test_wf_inChannel : (Instr.scrub 5 0 0 (2 ^ 34) .clean).wf = false := by decide
theorem test_wf_isHatband : (Instr.hatbandFlit 5 0 0x1010 (zeroB 32) 0 0).wf = false := by decide
theorem test_wf_inStore : (Instr.sramAccess 5 (.vreg 0) 0x8000 .clean).wf = false := by decide
theorem test_wf_isSeq : (Instr.nak 5 0 (2 ^ 48)).wf = false := by decide
theorem test_wf_isFlit : (Instr.flitReceive 5 0 { flit0 with data := zeroB 223 } true true).wf = false := by decide +kernel
theorem test_wf_isMessage : (Instr.contribution 5 0 hdr0 (zeroB 32) [1]).wf = false := by decide
theorem test_wf_rises : (Instr.powerDecision 5 0 [(3, 1), (3, 2)]).wf = false := by decide
theorem test_wf_isReq : (Instr.status 5 { req0 with reqId := 2 ^ 64 }).wf = false := by decide
theorem test_wf_isArgs : (Instr.fwData 5 req0 0 (zeroB 1201)).wf = false := by decide +kernel
theorem test_wf_isByte : (Instr.recover 5 0 0 256 0 0 0).wf = false := by decide
theorem test_wf_isU16 : (Instr.traceSet 5 req0 65536 0).wf = false := by decide
theorem test_wf_isU32 : (Instr.join 5 0 0 (2 ^ 32)).wf = false := by decide
theorem test_wf_isU64 : (Instr.time 5 0 (2 ^ 64)).wf = false := by decide
theorem test_wf_isDigest : (Instr.hello 5 0 0 (zeroB 47)).wf = false := by decide
theorem test_wf_isRecord : (Instr.setOwner 5 .owner [] true).wf = false := by decide
theorem test_wf_isBind : (Instr.bindTenant 5 (zeroB 48) 0 [] [] [] [] [] []).wf = false := by decide
theorem test_wf_isToken : (Instr.tokenLoad 5 { tok0 with issuer := 256 } (zeroB 48) true).wf = false := by decide
theorem test_wf_isBlock : (Instr.tftpData 5 1 (zeroB 8193) ⟨true, true⟩).wf = false := by decide +kernel
theorem test_wf_isSig : (Instr.energy 5 0 0 false (zeroB 95)).wf = false := by decide

-- Worked values of the manual

/-- Chapter 2, FP32P to BF16: 1 + 2^-8 + 2^-40 rounds once, to 0x3F81. -/
theorem test_pair_rounds_once : (roundFp false (2 ^ 40 + 2 ^ 32 + 1) (-40) fpBF16 .rne).1 = 0x3F81 := by decide +kernel
/-- Chapter 2, one E4M3 batt with peeling: the sidecar is 0x4396_0776. -/
theorem test_peeled_sidecar : (quantiseBatt [0, 0, 0, 0x43960000, 0, 0, 0, 0, 0, 0x3F000000, 0, 0, 0, 0, 0, 0, 0, 0xBF400000, 0, 0, 0, 0, 0, 0, 0,
    0x3A6BEDFA, 0, 0, 0, 0, 0, 0] .e4m3 true 4 (fun _ => .rne)).sidecar = 0x43960776 := by decide +kernel
/-- Chapter 2, TT8: the weight 0.9 becomes the code 0x5A. -/
theorem test_tt8_code : (tt8Nearest false 0x39999999A (-34)).1 = 0x5A := by decide +kernel
/-- Chapter 7, exact cases: EXP2(3.0), EXP2(-1.0), RCP(3.0), and RSQRT(4.0), LOG2(8.0). -/
theorem test_transcendentals : (exp2V 0x40400000).1 = 0x41000000 ∧ (exp2V 0xBF800000).1 = 0x3F000000 ∧ (rcpV 0x40400000).1 = 0x3EAAAAAB ∧
    (trans .rsqrt .fp32 fpFP32 (dec32 0x40800000).1).1 = 0x3F000000 ∧ (trans .log2 .fp32 fpFP32 (dec32 0x41000000).1).1 = 0x40400000 := by
  decide +kernel
/-- Chapter 10, ring order: 2^-7 + 1.0 is FP32 0x3F81_0000. -/
theorem test_ring_add : (add32 0x3C000000 0x3F800000).1 = 0x3F810000 := by decide +kernel
/-- Chapter 8, the pounce draw with words 0x1234_5678, 0x0005_0000, 7 and 3. -/
theorem test_pounce_draw : (let g : Gen4 := ⟨0x12345678, 0x00050000, 7, 3⟩
    drawSamples g 3 = true ∧ drawTile g 1 = 0 ∧ drawCols g 192 = (160, 32) ∧ (drawRows g 100).getD 0 0 = 1 ∧ (drawRows g 100).getD 1 0 = 4 ∧
    (drawRows g 100).getD 7 0 = 21 ∧ (drawRows g 100).getD 31 0 = 96) := by decide +kernel
/-- Chapter 9, locating a unit: channel 38 at 0x1_2300, and with parity channel 36 at 0xD300. -/
theorem test_locate : locate (dataChans 0b11000 0) 0x123400 = (38, 0x12300) ∧ locate (dataChans 0b111000 0b1100) 0x123400 = (36, 0xD300) := by
  decide +kernel
/-- Chapter 6, a disagreement exponent: D²/W² = 10^-8 gives -27. -/
theorem test_disagreement : log2Ratio 1 (10 ^ 8) = -27 := by decide
/-- Chapter 5, encoding a PASS: the word of the example has its fields. -/
theorem test_pass_word : (let w : IWord := 0x21F80319FFDAFC090004820000000000
    wordValid w = true ∧ wCls w = 1 ∧ wOp w = 0 ∧ wWaitP w = 7 ∧ wWaitV w = 7 ∧ wWaitD w = 0 ∧ (passFields w).m = 1024 ∧ (passFields w).n = 192) := by
  decide +kernel
/-- Chapter 0, addresses of cluster 5: its CSR block and bank B of its window. -/
theorem test_cluster5 : locOf 0x400005B00000 = .bankB 5 0 ∧ locOf 0x7F0001050000 = .csr 0x1050000 := by decide +kernel

-- Commands on a small state

/-- R147, R148: a SIG of 3 on a semaphore at 0xFFFE saturates it and sets SEM_OVF. -/
def sigSt (g : SigOut) (seen : Bool) (v : BitVec 16) : State :=
  setC (setC up 0 (fun k => { k with seq := { k.seq with sigOut := [g] } })) g.tgt
    (fun k => { k with seq := { k.seq with sigSeen := if seen then [(0, 5)] else [], sems := vset k.seq.sems 2 v } })
def sig1 : SigOut := { tgt := 1, seq := 5, sem := 2, inc := 3 }
theorem test_sig_saturates : ((nx (.sigDelivery 5 0 1 5 true) (sigSt sig1 false 0xFFFE)).cl 1).seq.sems.get 2 = 0xFFFF ∧
    ((nx (.sigDelivery 5 0 1 5 true) (sigSt sig1 false 0xFFFE)).cl 1).sreg.semOvf = true := by decide +kernel
/-- R343: STRAP_LATCH shows in PWR_BOOT as stage 1 with COOL. -/
theorem test_strap_latch : csrRead (nx (.strapLatch 5 2) State.reset) (.app 0) 0x100 4 = 0x20001 := by decide +kernel
/-- R25: an address between the map's regions is a DECODE_MISS, which reads as zeros. -/
theorem test_decode_miss : (nx (.unmappedAccess 5 (.app 0) 0x600000000000 false) up).out = [{ kind := .read, dest := 0, data := zeroB 32 }] ∧
    (nx (.unmappedAccess 5 (.app 0) 0x600000000000 false) up).log.count = 1 := by decide +kernel
/-- R18: a byte of cluster 5's operand store is written through its window. -/
theorem test_window_write : devGet (devWrite up 0x400005000003 [7] false) 0x400005000003 = 7 := by decide +kernel

-- For every statement with hypotheses: states and operands that meet them, clause by clause (a comment names the command of the clause)

theorem wit_EveryStepKeepsTheMemoriesCanonical : up.stored ∧ State.reset.stored := by
  unfold State.stored Kept Cluster.stored
  decide +kernel

namespace Flow

namespace A
def sam2 : List (State) := [up, { up with pending := [.nop 5 0] }]

theorem wit_StepRunsTheFrontCommand :
    ((pick sam2 1).pending = [Instr.nop 5 0]) := by
  decide +kernel

theorem wit_EmptyQueueIdles :
    (up.pending = []) := by
  decide +kernel
end A

namespace B
def n : IWord := iw 0 0 []
def lp (i left : Nat) (r : List LoopFrame) := at' [n, n, n, endW] i (fun k => { k with seq := { k.seq with loops := { first := 1, last := 2, left := left } :: r } })

theorem wit_NopAdvances :
    (issuesB (at' [n, endW]) 0 n 0 0 = true ∧ ((at' [n, endW]).cl 0).seq.loops = []) ∧
    (issuesB (lp 1 3 []) 0 n 0 0 = true ∧
      (match ((lp 1 3 []).cl 0).seq.loops with | l :: r => decide (((lp 1 3 []).cl 0).seq.idx ≠ l.last) | _ => false) = true) ∧
    (issuesB (lp 2 3 []) 0 n 0 0 = true ∧
      (match ((lp 2 3 []).cl 0).seq.loops with | l :: r => decide (((lp 2 3 []).cl 0).seq.idx = l.last ∧ 0 < l.left) | _ => false) = true) ∧
    (issuesB (lp 2 0 []) 0 n 0 0 = true ∧
      (match ((lp 2 0 []).cl 0).seq.loops with | [l] => decide (((lp 2 0 []).cl 0).seq.idx = l.last ∧ l.left = 0) | _ => false) = true) := by
  refine ⟨?_, ?_, ?_, ?_⟩ <;> decide +kernel
end B

namespace C
def nw : IWord := iw 0 0 []
def j : IWord := iw 0 2 [(0, 2 ^ 63 + 2 ^ 48 + 0x2000)]
def cv : IWord := iw 0 3 [(94, 1)]
def cv3 : IWord := iw 0 3 [(94, 3)]
def rt : IWord := iw 0 4 []
def good : Target := { idx := 0, fail := none, addr := 0x2000, words := [nw, endW] }
def bad : Target := { idx := 0, fail := some 4, addr := 0, words := [] }
def back : RetPoint := { block := { addr := 0x9000, words := [endW, endW], tgts := [] }, idx := 1, layer := 3, ladder := 1 }
def base (w : IWord) (g : List Target) (r : List RetPoint) (rst : Bool) : State :=
  at' [w, endW] 0 (fun k => { k with seq := { k.seq with block := some { addr := 0x1000, words := [w, endW], tgts := g }, calls := r, coreRst := rst } })

theorem wit_FlowTransfers :
    (issuesB (base j [bad] [] false) 0 j 0 2 = true ∧
      (match ((base j [bad] [] false).cl 0).seq.block with | some cur => (match List.find? (fun x => x.idx == ((base j [bad] [] false).cl 0).seq.idx) cur.tgts with | some g => (match g.fail with | some e => true | _ => false) | _ => false) | _ => false) = true) ∧
    (issuesB (base j [good] [] false) 0 j 0 2 = true ∧ ((base j [good] [] false).cl 0).seq.coreRst = false ∧
      (match ((base j [good] [] false).cl 0).seq.block with | some cur => (match List.find? (fun x => x.idx == ((base j [good] [] false).cl 0).seq.idx) cur.tgts with | some g => decide (g.fail = none) | _ => false) | _ => false) = true) ∧
    (issuesB (base j [good] [] true) 0 j 0 2 = true ∧ ((base j [good] [] true).cl 0).seq.coreRst = true ∧
      (match ((base j [good] [] true).cl 0).seq.block with | some cur => (match List.find? (fun x => x.idx == ((base j [good] [] true).cl 0).seq.idx) cur.tgts with | some g => decide (g.fail = none) | _ => false) | _ => false) = true) ∧
    (issuesB (base cv [good] [back] false) 0 cv 0 3 = true ∧ bitsAt (BitVec.toNat cv) 94 2 ≠ 3 ∧
      ((base cv [good] [back] false).cl 0).seq.calls.length < 4 ∧ ((base cv [good] [back] false).cl 0).seq.coreRst = false ∧
      (match ((base cv [good] [back] false).cl 0).seq.block with | some cur => (match List.find? (fun x => x.idx == ((base cv [good] [back] false).cl 0).seq.idx) cur.tgts with | some g => decide (g.fail = none) | _ => false) | _ => false) = true) ∧
    (issuesB (base cv [good] [] true) 0 cv 0 3 = true ∧ bitsAt (BitVec.toNat cv) 94 2 ≠ 3 ∧ ((base cv [good] [] true).cl 0).seq.calls.length < 4 ∧
      ((base cv [good] [] true).cl 0).seq.coreRst = true ∧
      (match ((base cv [good] [] true).cl 0).seq.block with | some cur => (match List.find? (fun x => x.idx == ((base cv [good] [] true).cl 0).seq.idx) cur.tgts with | some g => decide (g.fail = none) | _ => false) | _ => false) = true) ∧
    (issuesB (base cv3 [] [] false) 0 cv3 0 3 = true ∧ (bitsAt (BitVec.toNat cv3) 94 2 = 3 ∨ 4 ≤ ((base cv3 [] [] false).cl 0).seq.calls.length)) ∧
    (issuesB (base rt [] [back] false) 0 rt 0 4 = true ∧ ((base rt [] [back] false).cl 0).seq.coreRst = false ∧
      (match ((base rt [] [back] false).cl 0).seq.calls with | r :: rs => true | _ => false) = true) ∧
    (issuesB (base rt [] [back] true) 0 rt 0 4 = true ∧ ((base rt [] [back] true).cl 0).seq.coreRst = true ∧
      (match ((base rt [] [back] true).cl 0).seq.calls with | r :: rs => true | _ => false) = true) ∧
    (issuesB (base rt [] [] false) 0 rt 0 4 = true ∧ ((base rt [] [] false).cl 0).seq.calls = []) := by
  refine ⟨?_, ?_, ?_, ?_, ?_, ?_, ?_, ?_, ?_⟩ <;> decide +kernel
end C

end Flow

namespace Words

namespace A
def nopw : IWord := iw 0 0 []
def lp (n : Nat) : IWord := iw 0 5 [(90, n), (96, 7)]
def tr : IWord := iw 0 6 [(96, 9)]
def sem (s : State) (v : BitVec 16) := setC s 0 (fun k => { k with seq := { k.seq with sems := vset k.seq.sems 3 v } })
def trd := setC (at' [tr, endW]) 0 (fun k => { k with seq := { k.seq with trap := some 9 } })

theorem wit_LoopsTrapsAndEndsteps :
    (issuesB (at' [lp 0, nopw, nopw, endW]) 0 (lp 0) 0 5 = true ∧
      (((at' [lp 0, nopw, nopw, endW]).cl 0).seq.loops = [] ∨ (match ((at' [lp 0, nopw, nopw, endW]).cl 0).seq.loops with | [l] => decide (((at' [lp 0, nopw, nopw, endW]).cl 0).seq.idx + 1 + bitsAt (BitVec.toNat (lp 0)) 90 6 ≤ l.last) | _ => false) = true) ∧
      (match ((at' [lp 0, nopw, nopw, endW]).cl 0).seq.block with | some b => decide (((at' [lp 0, nopw, nopw, endW]).cl 0).seq.idx + 1 + bitsAt (BitVec.toNat (lp 0)) 90 6 < b.words.length ∧ (List.take (((at' [lp 0, nopw, nopw, endW]).cl 0).seq.idx + 1 + bitsAt (BitVec.toNat (lp 0)) 90 6 + 1 - (((at' [lp 0, nopw, nopw, endW]).cl 0).seq.idx + 1)) (List.drop (((at' [lp 0, nopw, nopw, endW]).cl 0).seq.idx + 1) b.words)).any isFlow = false) | _ => false) = true) ∧
    (issuesB (at' [lp 5, nopw, nopw, endW]) 0 (lp 5) 0 5 = true ∧
      (match ((at' [lp 5, nopw, nopw, endW]).cl 0).seq.block with | some b => decide (¬(((at' [lp 5, nopw, nopw, endW]).cl 0).seq.idx + 1 + bitsAt (BitVec.toNat (lp 5)) 90 6 < b.words.length ∧ (List.take (((at' [lp 5, nopw, nopw, endW]).cl 0).seq.idx + 1 + bitsAt (BitVec.toNat (lp 5)) 90 6 + 1 - (((at' [lp 5, nopw, nopw, endW]).cl 0).seq.idx + 1)) (List.drop (((at' [lp 5, nopw, nopw, endW]).cl 0).seq.idx + 1) b.words)).any isFlow = false ∧ (((at' [lp 5, nopw, nopw, endW]).cl 0).seq.loops = [] ∨ (match ((at' [lp 5, nopw, nopw, endW]).cl 0).seq.loops with | [l] => decide (((at' [lp 5, nopw, nopw, endW]).cl 0).seq.idx + 1 + bitsAt (BitVec.toNat (lp 5)) 90 6 ≤ l.last) | _ => false) = true))) | _ => false) = true) ∧
    (issuesB (at' [tr, endW]) 0 tr 0 6 = true ∧ ((at' [tr, endW]).cl 0).seq.trap = none) ∧
    (issuesB trd 0 tr 0 6 = true ∧ (match (trd.cl 0).seq.trap with | some n => true | _ => false) = true) ∧
    (seqWriter (Requester.clcore 0) 0 = true ∧ clOn trd 0 = true ∧ (match (trd.cl 0).seq.trap with | some n => true | _ => false) = true) ∧
    (issuesB (at' [endW]) 0 endW 0 1 = true ∧ idleUnits ((at' [endW]).cl 0) = true ∧ ((at' [endW]).cl 0).seq.sigOut = [] ∧
      ((at' [endW]).cl 0).plk.checks = []) := by
  refine ⟨?_, ?_, ?_, ?_, ?_, ?_⟩ <;> decide +kernel
end A

namespace B
def bad : IWord := iw 0 0 [(3, 1)]

theorem wit_InvalidWordsStop :
    (mayIssue (at' [bad, endW]) 0 = true ∧ (match ((at' [bad, endW]).cl 0).seq.word with | some w => decide (wordValid w = false) | _ => false) = true) /- Instr.nop 5 0 -/ := by
  decide +kernel
end B

namespace S
def sg (inc tgt : Nat) : IWord := iw 4 0 [(106, tgt), (101, 2), (93, inc)]
def o (g : SigOut) (seen : Bool) (v : BitVec 16) := setC (setC up 0 (fun k => { k with seq := { k.seq with sigOut := [g] } })) g.tgt (fun k => { k with seq := { k.seq with sigSeen := if seen then [(0, 5)] else [], sems := vset k.seq.sems 2 v } })
def sam11 : List (State) := [at' [sg 3 1, endW], at' [sg 3 5, endW], at' [sg 0 1, endW], o { tgt := 1, seq := 5, sem := 2, inc := 3 } false 4, o { tgt := 1, seq := 5, sem := 2, inc := 3 } false 0xFFFE,
  o { tgt := 1, seq := 5, sem := 2, inc := 3 } true 4, o { tgt := 0, seq := 5, sem := 2, inc := 3 } false 4]

theorem wit_SignalsArriveOnce :
    (issuesB (at' [sg 3 1, endW]) 0 (sg 3 1) 4 0 = true ∧ bitsAt (BitVec.toNat (sg 3 1)) 93 8 ≠ 0 ∧
      (match physOf (at' [sg 3 1, endW]) (clPart ((at' [sg 3 1, endW]).cl 0)) (bitsAt (BitVec.toNat (sg 3 1)) 106 6) with | some g => true | _ => false) = true) ∧
    (issuesB (at' [sg 3 5, endW]) 0 (sg 3 5) 4 0 = true ∧
      (physOf (at' [sg 3 5, endW]) (clPart ((at' [sg 3 5, endW]).cl 0)) (bitsAt (BitVec.toNat (sg 3 5)) 106 6) = none ∨ bitsAt (BitVec.toNat (sg 3 5)) 93 8 = 0)) ∧
    (clOn (pick sam11 6) 0 = true ∧ clOn (pick sam11 6) 0 = true ∧
      (match List.find? (fun x => x.tgt == 0 && x.seq == 5) ((pick sam11 6).cl 0).seq.sigOut with | some g => decide (((pick sam11 6).cl 0).seq.sigSeen.contains (↑0, g.seq) = false) | _ => false) = true) /- Instr.sigDelivery 5 0 0 5 true -/ ∧
    (clOn (o { tgt := 1, seq := 5, sem := 2, inc := 3 : SigOut } true 4) 0 = true ∧
      clOn (o { tgt := 1, seq := 5, sem := 2, inc := 3 : SigOut } true 4) 1 = true ∧
      (match List.find? (fun x => x.tgt == 1 && x.seq == 5) ((o { tgt := 1, seq := 5, sem := 2, inc := 3 : SigOut } true 4).cl 0).seq.sigOut with | some g => decide (((o { tgt := 1, seq := 5, sem := 2, inc := 3 : SigOut } true 4).cl 1).seq.sigSeen.contains (↑0, g.seq) = true) | _ => false) = true) /- Instr.sigDelivery 5 0 1 5 true -/ ∧
    (clOn (pick sam11 3) 0 = true ∧ clOn (pick sam11 3) 1 = true ∧ 0 ≠ 1 ∧ ((pick sam11 3).cl 0).seq.stopPend = none ∧
      ((pick sam11 3).cl 0).seq.draining = false ∧
      (match List.find? (fun x => x.tgt == 1 && x.seq == 5) ((pick sam11 3).cl 0).seq.sigOut with | some g => true | _ => false) = true) /- Instr.sigDelivery 5 0 1 5 false -/ := by
  refine ⟨?_, ?_, ?_, ?_, ?_⟩ <;> decide +kernel
end S

namespace V
def wt (n : Nat) : IWord := iw 4 1 [(101, 2), (85, n)]
def br (b : Nat) : IWord := iw 4 2 [(108, b)]
def sem (s : State) (v : BitVec 16) := setC s 0 (fun k => { k with seq := { k.seq with sems := vset k.seq.sems 2 v } })
def part (s : State) := setC (setC s 0 (fun k => { k with sreg := { k.sreg with lcl := 0 } })) 1 (fun k => { k with sreg := { k.sreg with lcl := 1 } })
def joined (s : State) := setC s 1 (fun k => { k with seq := { k.seq with barGen := [(0, 1)], barWait := some 0, mode := .wait, block := some { addr := 0x1000, words := [br 0, endW], tgts := [] } } })

theorem wit_WaitsAndBarriersHold :
    (issuesB (sem (at' [wt 3, endW]) 3) 0 (wt 3) 4 1 = true ∧ bitsAt (BitVec.toNat (wt 3)) 85 16 ≠ 0 ∧
      bitsAt (BitVec.toNat (wt 3)) 85 16 ≤ (((sem (at' [wt 3, endW]) 3).cl 0).seq.sems.get (⟨bitsAt (BitVec.toNat (wt 3)) 101 5 % 32, (Nat.mod_lt _ (by decide))⟩ : Fin 32)).toNat) ∧
    (issuesB (sem (at' [wt 3, endW]) 2) 0 (wt 3) 4 1 = true ∧
      (((sem (at' [wt 3, endW]) 2).cl 0).seq.sems.get (⟨bitsAt (BitVec.toNat (wt 3)) 101 5 % 32, (Nat.mod_lt _ (by decide))⟩ : Fin 32)).toNat < bitsAt (BitVec.toNat (wt 3)) 85 16) ∧
    (issuesB (at' [wt 0, endW]) 0 (wt 0) 4 1 = true ∧ bitsAt (BitVec.toNat (wt 0)) 85 16 = 0) ∧
    (issuesB (part (at' [br 1, endW])) 0 (br 1) 4 2 = true ∧
      bitAt (barrierMask (part (at' [br 1, endW])) (clPart ((part (at' [br 1, endW])).cl 0)) (bitsAt (BitVec.toNat (br 1)) 108 4)) (clLcl ((part (at' [br 1, endW])).cl 0)) = false) ∧
    (issuesB (part (at' [br 0, endW])) 0 (br 0) 4 2 = true ∧
      bitAt (barrierMask (part (at' [br 0, endW])) (clPart ((part (at' [br 0, endW])).cl 0)) (bitsAt (BitVec.toNat (br 0)) 108 4)) (clLcl ((part (at' [br 0, endW])).cl 0)) = true ∧
      ((part (at' [br 0, endW])).cl 0).seq.barWait = none ∧
      ((List.range 64).any (fun l => bitAt (barrierMask (part (at' [br 0, endW])) (clPart ((part (at' [br 0, endW])).cl 0)) (bitsAt (BitVec.toNat (br 0)) 108 4)) l && (match physOf (part (at' [br 0, endW])) (clPart ((part (at' [br 0, endW])).cl 0)) l with | some g => decide (g ≠ 0 ∧ barCount ((part (at' [br 0, endW])).cl g) (bitsAt (BitVec.toNat (br 0)) 108 4) < barCount ((part (at' [br 0, endW])).cl 0) (bitsAt (BitVec.toNat (br 0)) 108 4) + 1) | none => false))) = true) ∧
    (issuesB (joined (part (at' [br 0, endW]))) 0 (br 0) 4 2 = true ∧
      bitAt (barrierMask (joined (part (at' [br 0, endW]))) (clPart ((joined (part (at' [br 0, endW]))).cl 0)) (bitsAt (BitVec.toNat (br 0)) 108 4)) (clLcl ((joined (part (at' [br 0, endW]))).cl 0)) = true ∧
      ((joined (part (at' [br 0, endW]))).cl 0).seq.barWait = none ∧
      ((List.range 64).all (fun l => !bitAt (barrierMask (joined (part (at' [br 0, endW]))) (clPart ((joined (part (at' [br 0, endW]))).cl 0)) (bitsAt (BitVec.toNat (br 0)) 108 4)) l || (match physOf (joined (part (at' [br 0, endW]))) (clPart ((joined (part (at' [br 0, endW]))).cl 0)) l with | some g => decide (barCount ((joined (part (at' [br 0, endW]))).cl 0) (bitsAt (BitVec.toNat (br 0)) 108 4) + 1 ≤ barCount ((joins (joined (part (at' [br 0, endW]))) 0).cl g) 0) | none => false))) = true) := by
  refine ⟨?_, ?_, ?_, ?_, ?_, ?_⟩ <;> decide +kernel
end V

namespace F
def fl (a : Nat) : IWord := iw 5 0 [(96, 3), (0, a)]
def tc : IWord := iw 5 1 [(96, 3), (0, 77)]

theorem wit_StatWordsAct :
    (issuesB (at' [fl 4097, endW]) 0 (fl 4097) 5 0 = true ∧ outD ((at' [fl 4097, endW]).cl 0) < 6 ∧
      ¬(bitsAt (BitVec.toNat (fl 4097)) 0 48 % 256 = 0 ∧ bitsAt (BitVec.toNat (fl 4097)) 0 48 + 768 ≤ dramEnd ∧ partOwns (at' [fl 4097, endW]) (clPart ((at' [fl 4097, endW]).cl 0)) (bitsAt (BitVec.toNat (fl 4097)) 0 48) 768 = true)) ∧
    (issuesB (at' [fl 4096, endW]) 0 (fl 4096) 5 0 = true ∧ outD ((at' [fl 4096, endW]).cl 0) < 6 ∧ bitsAt (BitVec.toNat (fl 4096)) 0 48 % 256 = 0 ∧
      bitsAt (BitVec.toNat (fl 4096)) 0 48 + 768 ≤ dramEnd ∧
      partOwns (at' [fl 4096, endW]) (clPart ((at' [fl 4096, endW]).cl 0)) (bitsAt (BitVec.toNat (fl 4096)) 0 48) 768 = true) ∧
    (issuesB (at' [tc, endW]) 0 tc 5 1 = true) := by
  refine ⟨?_, ?_, ?_⟩ <;> decide +kernel
end F

namespace G
def prog : Bytes := natLe 16 (iw 0 0 []).toNat ++ natLe 16 endW.toNat
def ptr (a : Nat) : Nat := 2 ^ 63 + 1 * 2 ^ 48 + a / 256 * 256
def st (m : SeqMode) := setC (pWrite up 0 0x2000 prog false) 0 (fun k => { k with sreg := { k.sreg with entry := BitVec.ofNat 64 (ptr 0x2000) }, seq := { k.seq with mode := m, sems := vset k.seq.sems 3 3, passIdx := [(1,2)] } })

theorem wit_GoStartsTheProgram :
    (seqWriter (Requester.clcore 0) 1 = false) ∧
    (seqWriter (Requester.clcore 0) 0 = true ∧ clOn (st SeqMode.run) 0 = true ∧ ((st SeqMode.run).cl 0).seq.paused = false ∧
      ((st SeqMode.run).cl 0).seq.pauseReq = false ∧ ((st SeqMode.run).cl 0).seq.draining = false ∧ ((st SeqMode.run).cl 0).seq.mode ≠ SeqMode.idle ∧
      ((st SeqMode.run).cl 0).seq.mode ≠ SeqMode.done) ∧
    (seqWriter (Requester.clcore 0) 0 = true ∧ clOn (st SeqMode.idle) 0 = true ∧ ((st SeqMode.idle).cl 0).seq.paused = false ∧
      ((st SeqMode.idle).cl 0).seq.pauseReq = false ∧ ((st SeqMode.idle).cl 0).seq.draining = false ∧
      (((st SeqMode.idle).cl 0).seq.mode = SeqMode.idle ∨ ((st SeqMode.idle).cl 0).seq.mode = SeqMode.done) ∧
      (match fetchBlock ((tick 5 (st SeqMode.idle)).setCl 0 { ops := ((st SeqMode.idle).cl 0).ops, bankA := ((st SeqMode.idle).cl 0).bankA, bankB := ((st SeqMode.idle).cl 0).bankB, vreg := ((st SeqMode.idle).cl 0).vreg, trace := ((st SeqMode.idle).cl 0).trace, plk := ((st SeqMode.idle).cl 0).plk, cnt := ((st SeqMode.idle).cl 0).cnt, seq := { mode := SeqMode.run, pauseReq := ((st SeqMode.idle).cl 0).seq.pauseReq, paused := ((st SeqMode.idle).cl 0).seq.paused, pauseC := ((st SeqMode.idle).cl 0).seq.pauseC, block := none, idx := 0, calls := [], loops := [], coreRst := ((st SeqMode.idle).cl 0).seq.coreRst, released := false, trap := none, barWait := none, sems := Vector.replicate 32 0, sigNext := [], sigOut := [], sigSeen := [], barGen := [], passIdx := [], draining := ((st SeqMode.idle).cl 0).seq.draining, stopPend := none : Machine.Seq }, sreg := ((st SeqMode.idle).cl 0).sreg, vec := { jobs := ((st SeqMode.idle).cl 0).vec.jobs, index := 0, vop := ((st SeqMode.idle).cl 0).vec.vop, done := ((st SeqMode.idle).cl 0).vec.done, sat := ((st SeqMode.idle).cl 0).vec.sat, nan := ((st SeqMode.idle).cl 0).vec.nan, stall := ((st SeqMode.idle).cl 0).vec.stall : Vec }, dma := ((st SeqMode.idle).cl 0).dma, card := { slots := [], ovf := ((st SeqMode.idle).cl 0).card.ovf, ovfCond := false, layer := ((st SeqMode.idle).cl 0).card.layer, d4 := ((st SeqMode.idle).cl 0).card.d4, ladder := ((st SeqMode.idle).cl 0).card.ladder, dropped := ((st SeqMode.idle).cl 0).card.dropped : Carder }, rng := ((st SeqMode.idle).cl 0).rng, trc := ((st SeqMode.idle).cl 0).trc, core := ((st SeqMode.idle).cl 0).core, frz := ((st SeqMode.idle).cl 0).frz, frzAt := ((st SeqMode.idle).cl 0).frzAt, stlAt := ((st SeqMode.idle).cl 0).stlAt : Cluster }) (clPart ((st SeqMode.idle).cl 0)) (BitVec.toNat ((st SeqMode.idle).cl 0).sreg.entry) with | .inl b => true | _ => false) = true) ∧
    (seqWriter (Requester.clcore 0) 0 = true ∧ clOn (setC up 0 id) 0 = true ∧ ((setC up 0 id).cl 0).seq.paused = false ∧
      ((setC up 0 id).cl 0).seq.pauseReq = false ∧ ((setC up 0 id).cl 0).seq.draining = false ∧
      (((setC up 0 id).cl 0).seq.mode = SeqMode.idle ∨ ((setC up 0 id).cl 0).seq.mode = SeqMode.done) ∧
      (match fetchBlock ((tick 5 (setC up 0 id)).setCl 0 { ops := ((setC up 0 id).cl 0).ops, bankA := ((setC up 0 id).cl 0).bankA, bankB := ((setC up 0 id).cl 0).bankB, vreg := ((setC up 0 id).cl 0).vreg, trace := ((setC up 0 id).cl 0).trace, plk := ((setC up 0 id).cl 0).plk, cnt := ((setC up 0 id).cl 0).cnt, seq := { mode := SeqMode.run, pauseReq := ((setC up 0 id).cl 0).seq.pauseReq, paused := ((setC up 0 id).cl 0).seq.paused, pauseC := ((setC up 0 id).cl 0).seq.pauseC, block := none, idx := 0, calls := [], loops := [], coreRst := ((setC up 0 id).cl 0).seq.coreRst, released := false, trap := none, barWait := none, sems := Vector.replicate 32 0, sigNext := [], sigOut := [], sigSeen := [], barGen := [], passIdx := [], draining := ((setC up 0 id).cl 0).seq.draining, stopPend := none : Machine.Seq }, sreg := ((setC up 0 id).cl 0).sreg, vec := { jobs := ((setC up 0 id).cl 0).vec.jobs, index := 0, vop := ((setC up 0 id).cl 0).vec.vop, done := ((setC up 0 id).cl 0).vec.done, sat := ((setC up 0 id).cl 0).vec.sat, nan := ((setC up 0 id).cl 0).vec.nan, stall := ((setC up 0 id).cl 0).vec.stall : Vec }, dma := ((setC up 0 id).cl 0).dma, card := { slots := [], ovf := ((setC up 0 id).cl 0).card.ovf, ovfCond := false, layer := ((setC up 0 id).cl 0).card.layer, d4 := ((setC up 0 id).cl 0).card.d4, ladder := ((setC up 0 id).cl 0).card.ladder, dropped := ((setC up 0 id).cl 0).card.dropped : Carder }, rng := ((setC up 0 id).cl 0).rng, trc := ((setC up 0 id).cl 0).trc, core := ((setC up 0 id).cl 0).core, frz := ((setC up 0 id).cl 0).frz, frzAt := ((setC up 0 id).cl 0).frzAt, stlAt := ((setC up 0 id).cl 0).stlAt : Cluster }) (clPart ((setC up 0 id).cl 0)) (BitVec.toNat ((setC up 0 id).cl 0).sreg.entry) with | .inr r => true | _ => false) = true) := by
  refine ⟨?_, ?_, ?_, ?_⟩ <;> decide +kernel
end G

end Words

namespace Passes

namespace A
def bad : IWord := pw 0 [(99, 30)]

theorem wit_PassEntersThePlank :
    (issuesB (at' [pw 0 [], endW]) 0 (pw 0 []) 1 0 = true ∧ outP ((at' [pw 0 [], endW]).cl 0) < 6 ∧ ((at' [pw 0 [], endW]).cl 0).frozen = false ∧
      passCheck (rowsNow (tick 5 (at' [pw 0 [], endW])) 0) 0 (pw 0 []) = none ∧ ((at' [pw 0 [], endW]).cl 0).plk.checks = []) ∧
    (issuesB (at' [bad, endW]) 0 bad 1 0 = true ∧ outP ((at' [bad, endW]).cl 0) < 6 ∧ ((at' [bad, endW]).cl 0).frozen = false ∧
      (match passCheck (rowsNow (tick 5 (at' [bad, endW])) 0) 0 bad with | some r => true | _ => false) = true) := by
  refine ⟨?_, ?_⟩ <;> decide +kernel
end A

end Passes

namespace Moves

namespace M
def cp : IWord := iw 3 0 []
def fi : IWord := iw 3 1 [(32, 0x12345678)]
def d (n : Nat) (src dst : Nat) : Bytes := bytes 128 [(0, natLe 6 src), (8, natLe 6 dst), (33, [1]), (64, natLe 4 n), (80, natLe 4 1), (96, natLe 4 1), (112, natLe 4 1)]
def w (s : State) (b : Bytes) := setC s 0 (fun k => { k with ops := { k.ops with cells := scells [(0, b)] } })
def sts (x : IWord) (n : Nat) (dst : Nat) : State := w (at' [x, endW]) (d n (winBase + 0x1000) dst)
def mid (s : State) : State := nx (.copy 5 0) (nx (.fill 5 0) s)
def paused (s : State) : State := setC s 0 (fun k => { k with seq := { k.seq with paused := true } })
def sam6 : List (State) := let l := [sts cp 64 (winBase + 0x2000), sts cp 0 (winBase + 0x2000), sts cp 64 (winBase + 0x1010), sts fi 64 (winBase + 0x2000), sts fi 64 0x9000, sts fi 4160 0x9000]; l ++ l.map mid ++ (l.map mid).map paused

theorem wit_MovesRunInOrder :
    (outD ((pick sam6 2).cl 0) < 6 ∧ issuesB (pick sam6 2) 0 cp 3 0 = true ∧
      (match dmaCheck (rowsNow (tick 5 (pick sam6 2)) 0) 0 cp with | some r => true | _ => false) = true) /- (Instr.copy 5 0, 0) -/ ∧
    (outD ((pick sam6 1).cl 0) < 6 ∧ issuesB (pick sam6 1) 0 cp 3 0 = true ∧ dmaCheck (rowsNow (tick 5 (pick sam6 1)) 0) 0 cp = none ∧
      moveEmpty (((rowsNow (tick 5 (pick sam6 1)) 0).cl 0).ops.read (moveDoff cp) 128) = true) /- (Instr.copy 5 0, 0) -/ ∧
    (outD ((pick sam6 0).cl 0) < 6 ∧ issuesB (pick sam6 0) 0 cp 3 0 = true ∧ dmaCheck (rowsNow (tick 5 (pick sam6 0)) 0) 0 cp = none ∧
      moveEmpty (((rowsNow (tick 5 (pick sam6 0)) 0).cl 0).ops.read (moveDoff cp) 128) = false) /- (Instr.copy 5 0, 0) -/ ∧
    (clOn (pick sam6 12) 0 = true ∧
      (match frontMove ((pick sam6 12).cl 0).dma with | some (w, d, b, some n) => decide ((((pick sam6 12).cl 0).seq.paused = true ∨ ((pick sam6 12).cl 0).seq.pauseReq = true ∧ n < b)) | _ => false) = true) ∧
    (clOn (pick sam6 6) 0 = true ∧ ((pick sam6 6).cl 0).seq.paused = false ∧ ((pick sam6 6).cl 0).seq.pauseReq = false ∧
      (match frontMove ((pick sam6 6).cl 0).dma with | some (w, d, b, some n) => true | _ => false) = true) := by
  refine ⟨?_, ?_, ?_, ?_, ?_⟩ <;> decide +kernel
end M

namespace Q
def sam8 : List (State) := let ps := nx (.seqCtrlPause 6 (.clcore 0) 0) (at' [iw 0 0 [], endW])
  [at' [iw 0 0 [], endW], { at' [iw 0 0 [], endW] with slots := Vector.replicate 8 Slot.reset }, nx (.seqCtrlPause 6 (.clcore 0) 0) { at' [iw 0 0 [], endW] with slots := Vector.replicate 8 Slot.reset }, fly, { fly with now := 40 }, nx (.seqCtrlPause 40 (.clcore 0) 0) fly, ps,
   nx (.passCommit 400 0) (nx (.seqCtrlPause 40 (.clcore 0) 0) { fly with slots := Vector.replicate 8 Slot.reset }),
   setC (at' [endW]) 0 (fun k => { k with seq := { k.seq with mode := .held, coreRst := true } }), setC (at' [endW]) 0 (fun k => { k with seq := { k.seq with mode := .stopped } }),
   M.mid (M.sts M.fi 4160 0x9000), M.paused (M.mid (M.sts M.fi 4160 0x9000))]

theorem wit_SeqCtrlBitsAct :
    (seqWriter (Requester.clcore 0) 0 = true ∧ clOn (pick sam8 8) 0 = true ∧ ((pick sam8 8).cl 0).seq.mode = SeqMode.held ∧
      ((pick sam8 8).cl 0).seq.paused = false ∧ ((pick sam8 8).cl 0).seq.pauseReq = false) ∧
    (seqWriter (Requester.clcore 0) 0 = true ∧ clOn (pick sam8 0) 0 = true ∧ ((pick sam8 0).cl 0).seq.mode ≠ SeqMode.held) ∧
    (seqWriter (Requester.clcore 0) 0 = true ∧ clOn (pick sam8 9) 0 = true ∧ ((pick sam8 9).cl 0).seq.mode = SeqMode.stopped) ∧
    (seqWriter (Requester.clcore 0) 0 = true ∧ clOn (pick sam8 0) 0 = true ∧ ((pick sam8 0).cl 0).seq.mode ≠ SeqMode.stopped) ∧
    (seqWriter (Requester.clcore 0) 0 = true ∧ clOn (pick sam8 10) 0 = true ∧ ((pick sam8 10).cl 0).seq.paused = false ∧
      ((pick sam8 10).cl 0).seq.pauseReq = false ∧
      (match frontMove ((pick sam8 10).cl 0).dma with | some (w, d, b, some n) => decide (n < b) | _ => false) = true) ∧
    (seqWriter (Requester.clcore 0) 0 = true ∧ clOn (pick sam8 4) 0 = true ∧ ((pick sam8 4).cl 0).seq.paused = false ∧
      ((pick sam8 4).cl 0).seq.pauseReq = false ∧
      (match frontMove ((pick sam8 4).cl 0).dma with | some (_, _, _, some _) => false | _ => true) = true ∧
      atPausePoint ((rowsNow (tick 5 (pick sam8 4)) 0).setCl 0 { ops := ((rowsNow (tick 5 (pick sam8 4)) 0).cl 0).ops, bankA := ((rowsNow (tick 5 (pick sam8 4)) 0).cl 0).bankA, bankB := ((rowsNow (tick 5 (pick sam8 4)) 0).cl 0).bankB, vreg := ((rowsNow (tick 5 (pick sam8 4)) 0).cl 0).vreg, trace := ((rowsNow (tick 5 (pick sam8 4)) 0).cl 0).trace, plk := { passes := List.map (fun q => if arrCyc (tick 5 (pick sam8 4)) 0 < q.firstC then { word := q.word, tile := q.tile, recs := q.recs, plans := q.plans, seqNo := q.seqNo, layer := q.layer, ladder := q.ladder, index := q.index, draw := q.draw, zskip := q.zskip, step := q.step, chain := q.chain, issueC := q.issueC, stagedC := q.stagedC, firstC := q.firstC, attempt := q.attempt, aband := q.aband, kinds := q.kinds, ecc := q.ecc, counted := q.counted, run := PassRun.idle : Pass } else q) ((rowsNow (tick 5 (pick sam8 4)) 0).cl 0).plk.passes, last := ((rowsNow (tick 5 (pick sam8 4)) 0).cl 0).plk.last, brk := ((rowsNow (tick 5 (pick sam8 4)) 0).cl 0).plk.brk, faulted := ((rowsNow (tick 5 (pick sam8 4)) 0).cl 0).plk.faulted, claims := ((rowsNow (tick 5 (pick sam8 4)) 0).cl 0).plk.claims, nextAcc := ((rowsNow (tick 5 (pick sam8 4)) 0).cl 0).plk.nextAcc, checks := ((rowsNow (tick 5 (pick sam8 4)) 0).cl 0).plk.checks, accSel := ((rowsNow (tick 5 (pick sam8 4)) 0).cl 0).plk.accSel, retryMax := ((rowsNow (tick 5 (pick sam8 4)) 0).cl 0).plk.retryMax, zskipEn := ((rowsNow (tick 5 (pick sam8 4)) 0).cl 0).plk.zskipEn, retries := ((rowsNow (tick 5 (pick sam8 4)) 0).cl 0).plk.retries, fltExh := ((rowsNow (tick 5 (pick sam8 4)) 0).cl 0).plk.fltExh, fltShadow := ((rowsNow (tick 5 (pick sam8 4)) 0).cl 0).plk.fltShadow, fltEcc := ((rowsNow (tick 5 (pick sam8 4)) 0).cl 0).plk.fltEcc, fltRes := ((rowsNow (tick 5 (pick sam8 4)) 0).cl 0).plk.fltRes, fltSeq := ((rowsNow (tick 5 (pick sam8 4)) 0).cl 0).plk.fltSeq, issued := ((rowsNow (tick 5 (pick sam8 4)) 0).cl 0).plk.issued, dropped := ((rowsNow (tick 5 (pick sam8 4)) 0).cl 0).plk.dropped, fusion := ((rowsNow (tick 5 (pick sam8 4)) 0).cl 0).plk.fusion, shape := ((rowsNow (tick 5 (pick sam8 4)) 0).cl 0).plk.shape, edges := ((rowsNow (tick 5 (pick sam8 4)) 0).cl 0).plk.edges, overridden := ((rowsNow (tick 5 (pick sam8 4)) 0).cl 0).plk.overridden : Plank }, cnt := ((rowsNow (tick 5 (pick sam8 4)) 0).cl 0).cnt, seq := { mode := ((rowsNow (tick 5 (pick sam8 4)) 0).cl 0).seq.mode, pauseReq := true, paused := ((rowsNow (tick 5 (pick sam8 4)) 0).cl 0).seq.paused, pauseC := arrCyc (tick 5 (pick sam8 4)) 0, block := ((rowsNow (tick 5 (pick sam8 4)) 0).cl 0).seq.block, idx := ((rowsNow (tick 5 (pick sam8 4)) 0).cl 0).seq.idx, calls := ((rowsNow (tick 5 (pick sam8 4)) 0).cl 0).seq.calls, loops := ((rowsNow (tick 5 (pick sam8 4)) 0).cl 0).seq.loops, coreRst := ((rowsNow (tick 5 (pick sam8 4)) 0).cl 0).seq.coreRst, released := ((rowsNow (tick 5 (pick sam8 4)) 0).cl 0).seq.released, trap := ((rowsNow (tick 5 (pick sam8 4)) 0).cl 0).seq.trap, barWait := ((rowsNow (tick 5 (pick sam8 4)) 0).cl 0).seq.barWait, sems := ((rowsNow (tick 5 (pick sam8 4)) 0).cl 0).seq.sems, sigNext := ((rowsNow (tick 5 (pick sam8 4)) 0).cl 0).seq.sigNext, sigOut := ((rowsNow (tick 5 (pick sam8 4)) 0).cl 0).seq.sigOut, sigSeen := ((rowsNow (tick 5 (pick sam8 4)) 0).cl 0).seq.sigSeen, barGen := ((rowsNow (tick 5 (pick sam8 4)) 0).cl 0).seq.barGen, passIdx := ((rowsNow (tick 5 (pick sam8 4)) 0).cl 0).seq.passIdx, draining := ((rowsNow (tick 5 (pick sam8 4)) 0).cl 0).seq.draining, stopPend := ((rowsNow (tick 5 (pick sam8 4)) 0).cl 0).seq.stopPend : Machine.Seq }, sreg := ((rowsNow (tick 5 (pick sam8 4)) 0).cl 0).sreg, vec := ((rowsNow (tick 5 (pick sam8 4)) 0).cl 0).vec, dma := ((rowsNow (tick 5 (pick sam8 4)) 0).cl 0).dma, card := ((rowsNow (tick 5 (pick sam8 4)) 0).cl 0).card, rng := ((rowsNow (tick 5 (pick sam8 4)) 0).cl 0).rng, trc := ((rowsNow (tick 5 (pick sam8 4)) 0).cl 0).trc, core := ((rowsNow (tick 5 (pick sam8 4)) 0).cl 0).core, frz := ((rowsNow (tick 5 (pick sam8 4)) 0).cl 0).frz, frzAt := ((rowsNow (tick 5 (pick sam8 4)) 0).cl 0).frzAt, stlAt := ((rowsNow (tick 5 (pick sam8 4)) 0).cl 0).stlAt : Cluster }) 0 = false) ∧
    (seqWriter (Requester.clcore 0) 0 = true ∧ clOn (pick sam8 1) 0 = true ∧ ((pick sam8 1).cl 0).seq.paused = false ∧
      ((pick sam8 1).cl 0).seq.pauseReq = false ∧
      (match frontMove ((pick sam8 1).cl 0).dma with | some (_, _, _, some _) => false | _ => true) = true ∧
      atPausePoint ((rowsNow (tick 5 (pick sam8 1)) 0).setCl 0 { ops := ((rowsNow (tick 5 (pick sam8 1)) 0).cl 0).ops, bankA := ((rowsNow (tick 5 (pick sam8 1)) 0).cl 0).bankA, bankB := ((rowsNow (tick 5 (pick sam8 1)) 0).cl 0).bankB, vreg := ((rowsNow (tick 5 (pick sam8 1)) 0).cl 0).vreg, trace := ((rowsNow (tick 5 (pick sam8 1)) 0).cl 0).trace, plk := { passes := List.map (fun q => if arrCyc (tick 5 (pick sam8 1)) 0 < q.firstC then { word := q.word, tile := q.tile, recs := q.recs, plans := q.plans, seqNo := q.seqNo, layer := q.layer, ladder := q.ladder, index := q.index, draw := q.draw, zskip := q.zskip, step := q.step, chain := q.chain, issueC := q.issueC, stagedC := q.stagedC, firstC := q.firstC, attempt := q.attempt, aband := q.aband, kinds := q.kinds, ecc := q.ecc, counted := q.counted, run := PassRun.idle : Pass } else q) ((rowsNow (tick 5 (pick sam8 1)) 0).cl 0).plk.passes, last := ((rowsNow (tick 5 (pick sam8 1)) 0).cl 0).plk.last, brk := ((rowsNow (tick 5 (pick sam8 1)) 0).cl 0).plk.brk, faulted := ((rowsNow (tick 5 (pick sam8 1)) 0).cl 0).plk.faulted, claims := ((rowsNow (tick 5 (pick sam8 1)) 0).cl 0).plk.claims, nextAcc := ((rowsNow (tick 5 (pick sam8 1)) 0).cl 0).plk.nextAcc, checks := ((rowsNow (tick 5 (pick sam8 1)) 0).cl 0).plk.checks, accSel := ((rowsNow (tick 5 (pick sam8 1)) 0).cl 0).plk.accSel, retryMax := ((rowsNow (tick 5 (pick sam8 1)) 0).cl 0).plk.retryMax, zskipEn := ((rowsNow (tick 5 (pick sam8 1)) 0).cl 0).plk.zskipEn, retries := ((rowsNow (tick 5 (pick sam8 1)) 0).cl 0).plk.retries, fltExh := ((rowsNow (tick 5 (pick sam8 1)) 0).cl 0).plk.fltExh, fltShadow := ((rowsNow (tick 5 (pick sam8 1)) 0).cl 0).plk.fltShadow, fltEcc := ((rowsNow (tick 5 (pick sam8 1)) 0).cl 0).plk.fltEcc, fltRes := ((rowsNow (tick 5 (pick sam8 1)) 0).cl 0).plk.fltRes, fltSeq := ((rowsNow (tick 5 (pick sam8 1)) 0).cl 0).plk.fltSeq, issued := ((rowsNow (tick 5 (pick sam8 1)) 0).cl 0).plk.issued, dropped := ((rowsNow (tick 5 (pick sam8 1)) 0).cl 0).plk.dropped, fusion := ((rowsNow (tick 5 (pick sam8 1)) 0).cl 0).plk.fusion, shape := ((rowsNow (tick 5 (pick sam8 1)) 0).cl 0).plk.shape, edges := ((rowsNow (tick 5 (pick sam8 1)) 0).cl 0).plk.edges, overridden := ((rowsNow (tick 5 (pick sam8 1)) 0).cl 0).plk.overridden : Plank }, cnt := ((rowsNow (tick 5 (pick sam8 1)) 0).cl 0).cnt, seq := { mode := ((rowsNow (tick 5 (pick sam8 1)) 0).cl 0).seq.mode, pauseReq := true, paused := ((rowsNow (tick 5 (pick sam8 1)) 0).cl 0).seq.paused, pauseC := arrCyc (tick 5 (pick sam8 1)) 0, block := ((rowsNow (tick 5 (pick sam8 1)) 0).cl 0).seq.block, idx := ((rowsNow (tick 5 (pick sam8 1)) 0).cl 0).seq.idx, calls := ((rowsNow (tick 5 (pick sam8 1)) 0).cl 0).seq.calls, loops := ((rowsNow (tick 5 (pick sam8 1)) 0).cl 0).seq.loops, coreRst := ((rowsNow (tick 5 (pick sam8 1)) 0).cl 0).seq.coreRst, released := ((rowsNow (tick 5 (pick sam8 1)) 0).cl 0).seq.released, trap := ((rowsNow (tick 5 (pick sam8 1)) 0).cl 0).seq.trap, barWait := ((rowsNow (tick 5 (pick sam8 1)) 0).cl 0).seq.barWait, sems := ((rowsNow (tick 5 (pick sam8 1)) 0).cl 0).seq.sems, sigNext := ((rowsNow (tick 5 (pick sam8 1)) 0).cl 0).seq.sigNext, sigOut := ((rowsNow (tick 5 (pick sam8 1)) 0).cl 0).seq.sigOut, sigSeen := ((rowsNow (tick 5 (pick sam8 1)) 0).cl 0).seq.sigSeen, barGen := ((rowsNow (tick 5 (pick sam8 1)) 0).cl 0).seq.barGen, passIdx := ((rowsNow (tick 5 (pick sam8 1)) 0).cl 0).seq.passIdx, draining := ((rowsNow (tick 5 (pick sam8 1)) 0).cl 0).seq.draining, stopPend := ((rowsNow (tick 5 (pick sam8 1)) 0).cl 0).seq.stopPend : Machine.Seq }, sreg := ((rowsNow (tick 5 (pick sam8 1)) 0).cl 0).sreg, vec := ((rowsNow (tick 5 (pick sam8 1)) 0).cl 0).vec, dma := ((rowsNow (tick 5 (pick sam8 1)) 0).cl 0).dma, card := ((rowsNow (tick 5 (pick sam8 1)) 0).cl 0).card, rng := ((rowsNow (tick 5 (pick sam8 1)) 0).cl 0).rng, trc := ((rowsNow (tick 5 (pick sam8 1)) 0).cl 0).trc, core := ((rowsNow (tick 5 (pick sam8 1)) 0).cl 0).core, frz := ((rowsNow (tick 5 (pick sam8 1)) 0).cl 0).frz, frzAt := ((rowsNow (tick 5 (pick sam8 1)) 0).cl 0).frzAt, stlAt := ((rowsNow (tick 5 (pick sam8 1)) 0).cl 0).stlAt : Cluster }) 0 = true ∧
      (∀ (p : Fin 8), ¬0 ∈ ((pick sam8 1).slot p).asg.cmap)) ∧
    (seqWriter (Requester.clcore 0) 0 = true ∧ clOn (pick sam8 2) 0 = true ∧ ((pick sam8 2).cl 0).seq.paused = true ∧
      ((pick sam8 2).cl 0).plk.passes = [] ∧ ((pick sam8 2).cl 0).vec.jobs = [] ∧ ((pick sam8 2).cl 0).dma = [] ∧
      ((pick sam8 2).cl 0).seq.mode ≠ SeqMode.held ∧ ((pick sam8 2).cl 0).seq.stopPend = none ∧ ((pick sam8 2).cl 0).seq.draining = false ∧
      ((pick sam8 2).cl 0).seq.pauseReq = false) ∧
    (clOn (pick sam8 7) 0 = true ∧ ((pick sam8 7).cl 0).seq.pauseReq = true ∧ atPausePoint (tick 5 (pick sam8 7)) 0 = true ∧
      (∀ (p : Fin 8), ¬0 ∈ ((pick sam8 7).slot p).asg.cmap)) ∧
    (clOn (pick sam8 5) 0 = true ∧ ((pick sam8 5).cl 0).seq.pauseReq = true ∧ atPausePoint (tick 5 (pick sam8 5)) 0 = false) := by
  refine ⟨?_, ?_, ?_, ?_, ?_, ?_, ?_, ?_, ?_, ?_⟩ <;> decide +kernel
end Q

end Moves

namespace Commits

namespace C
def chk0 : Check := { seqNo := 0, layer := 0, ladder := 0, d4 := some 3 }
def sam10 : List (State) := [fly, fly2, setC up 0 (fun k => { k with plk := { k.plk with checks := [chk0] } }), up]

theorem wit_PassesAndChecksComplete :
    ((match inFlight (tick 40 fly) 0 with | q :: r => decide ((arrCyc (tick 40 fly) 0 < q.commitC ∨ (fly.cl 0).frozen = true)) | _ => false) = true) ∧
    (clOn fly 0 = true ∧ (fly.cl 0).frozen = false ∧ (fly.cl 0).dma = [] ∧ (fly.cl 0).seq.stopPend = none ∧ (fly.cl 0).seq.draining = false ∧
      (match inFlight (tick 500 fly) 0 with | q :: r => decide (q.commitC ≤ arrCyc (tick 500 fly) 0) | _ => false) = true) ∧
    ((fly.cl 0).plk.checks = []) ∧
    (clOn (pick sam10 2) 0 = true ∧ ((pick sam10 2).cl 0).frozen = false ∧ ((pick sam10 2).cl 0).dma = [] ∧
      ((pick sam10 2).cl 0).seq.stopPend = none ∧ ((pick sam10 2).cl 0).seq.draining = false ∧
      (match ((pick sam10 2).cl 0).plk.checks with | h :: r => true | _ => false) = true) := by
  refine ⟨?_, ?_, ?_, ?_⟩ <;> decide +kernel
end C

end Commits

namespace Faults

namespace R
def free (s : State) : State := { s with slots := Vector.replicate 8 Slot.reset }
def late := setC fly2 0 (fun k => { k with plk := { k.plk with passes := k.plk.passes.map (fun q => { q with attempt := 2 }) } })

theorem wit_FaultsAbandonAndRetry :
    (((free fly2).cl 0).plk.faulted = false ∧ ((free fly2).cl 0).frozen = false ∧
      ((inFlight (rowsNow (tick 300 (free fly2)) 0) 0).any fun y => y.seqNo == 0) = true ∧ (∀ (p : Fin 8), ¬0 ∈ ((free fly2).slot p).asg.cmap) ∧
      (match List.find? (fun x => x.seqNo == 0) ((rowsNow (tick 300 (free fly2)) 0).cl 0).plk.passes with | some q => decide (q.faultC 0 ≤ arrCyc (tick 300 (free fly2)) 0) | _ => false) = true) /- (Instr.plankResidue 300 0 0 300, 0) -/ ∧
    (clOn (nx (Instr.plankResidue 300 0 0 1) (free fly2)) 0 = true ∧ ((nx (Instr.plankResidue 300 0 0 1) (free fly2)).cl 0).frozen = false ∧
      ((nx (Instr.plankResidue 300 0 0 1) (free fly2)).cl 0).plk.faulted = false ∧
      ((nx (Instr.plankResidue 300 0 0 1) (free fly2)).cl 0).seq.pauseReq = false ∧
      ((nx (Instr.plankResidue 300 0 0 1) (free fly2)).cl 0).seq.paused = false ∧
      inFlight (tick 300 (nx (Instr.plankResidue 300 0 0 1) (free fly2))) 0 = [] ∧
      (((nx (Instr.plankResidue 300 0 0 1) (free fly2)).cl 0).plk.passes.any fun q => q.aband.isSome) = true) ∧
    (plkWriter (Requester.clcore 0) 1 = false) ∧
    (plkWriter (Requester.clcore 0) 0 = true ∧ clOn (nx (Instr.plankResidue 300 0 0 1) (free late)) 0 = true ∧
      ((nx (Instr.plankResidue 300 0 0 1) (free late)).cl 0).plk.faulted = true ∧
      ((nx (Instr.plankResidue 300 0 0 1) (free late)).cl 0).vec.jobs = [] ∧ ((nx (Instr.plankResidue 300 0 0 1) (free late)).cl 0).dma = [] ∧
      ((nx (Instr.plankResidue 300 0 0 1) (free late)).cl 0).seq.paused = false ∧
      ((nx (Instr.plankResidue 300 0 0 1) (free late)).cl 0).seq.pauseReq = false) := by
  refine ⟨?_, ?_, ?_, ?_⟩ <;> decide +kernel
end R

namespace Z
def sam16 : List (State) := [up, setC up 0 (fun k => { k with frz := [.throttle], frzAt := 3 }), setC up 0 (fun k => { k with frz := [.throttle, .trip], frzAt := 3 })]

theorem wit_FreezesHoldTheCluster :
    (clOn (pick sam16 1) 0 = true ∧ ((pick sam16 1).cl 0).frz.contains FreezeCause.throttle = true) ∧
    (clOn up 0 = true ∧ (up.cl 0).frz.contains FreezeCause.throttle = false) := by
  refine ⟨?_, ?_⟩ <;> decide +kernel
end Z

end Faults

namespace Vectors

namespace V
def vw (v : Nat) (l : List (Nat × Nat) := []) : IWord := iw 2 0 ([(104, v)] ++ l)
def vops : List Nat := [0x01,0x02,0x03,0x04,0x05,0x06,0x07,0x08,0x09,0x0A,0x0B,0x10,0x11,0x12,0x13,0x14,0x15,0x16,0x17,0x18,0x19,0x20,0x22,0x28,0x29,0x2A,0x2B,0x30,0x31,0x32,0x33,0x34,0x35,0x40,0xF0,0x21,0x38]
def samW : List IWord := vops.map (fun v => vw v)
def fm (v : Nat) : Bytes := match vopCat v with
  | some .int => [12, 12, 12, 12] | some .split => [1, 0, 0, 0] | some .red => if v = 0x34 ∨ v = 0x35 then [12, 0, 0, 0] else [0, 0, 0, 0] | _ => [0, 0, 0, 0]
def ds (v : Nat) : Bytes :=
  if v = 0x40 then bytes 128 [(0, natLe 4 0x1000), (4, natLe 4 64), (16, natLe 4 0x2000), (20, natLe 4 0x3000), (24, natLe 4 0x4000), (28, natLe 4 0x5000), (32, natLe 4 0x6000), (36, natLe 4 0x7000), (40, natLe 4 0x8000), (44, natLe 4 0x800), (48, natLe 4 2), (52, natLe 4 2), (56, natLe 2 2)]
  else if v = 0xF0 then bytes 128 [(0, natLe 4 0x1000), (4, natLe 4 64), (16, natLe 4 0x2000), (20, natLe 4 64), (32, natLe 4 2), (36, natLe 4 2)]
  else bytes 128 [(0, natLe 4 0x1000), (4, natLe 4 0x2000), (8, natLe 4 0x3000), (12, natLe 4 0x4000), (20, natLe 4 0x800), (32, fm v), (38, [if vopCat v = some .red then 1 else 0]), (40, natLe 4 4), (44, natLe 4 1), (48, natLe 4 1), (52, natLe 4 1), (64, natLe 4 4), (68, natLe 4 4), (72, natLe 4 4), (76, natLe 4 4)]
def img2 (cls : Nat) (own : Nat) : Img := { img with streams := bytes 64 [(8, natLe 4 99), (12, natLe 1 cls), (13, natLe 1 2), (14, natLe 2 own)] }
def sv (v : Nat) (cls : Nat := 0) (own : Nat := 0): State :=
  let w := if v = 0xF0 then vw v [(0, 0x800)] else vw v
  setS (setC (at' [w, endW]) 0 (fun k => { k with rng := { k.rng with valid := true }, ops := { k.ops with cells := scells [(0, ds v)] }, seq := { k.seq with calls := [{ block := { addr := 0x9000, words := [endW], tgts := [] }, idx := 0, layer := 0, ladder := 1 }] } }))
    0 (fun x => { x with img := some (img2 cls own) })
def samW2 : List IWord := samW ++ [vw 0xF0 [(0, 0x800)]]
def samS : List State := samW.map (fun w => at' [w, endW]) ++ vops.map (fun v => sv v) ++ [sv 0x21 1 0, sv 0x21 1 5, sv 0x38 0 5, sv 0x21 0 0]

theorem wit_VectorWordsAreQueued :
    (issuesB (pick samS 11) 0 (pickZ samW2 11) 2 0 = true ∧ vecVop (pickZ samW2 11) = 16 ∧ outV ((pick samS 11).cl 0) < 6 ∧
      (match vecIssueCheck ((rowsNow (tick 5 (pick samS 11)) 0).cl 0) (pickZ samW2 11) with | some r => true | _ => false) = true) /- (Instr.iadd 5 0, 16) -/ ∧
    (issuesB (pick samS 0) 0 (pickZ samW2 0) 2 0 = true ∧ vecVop (pickZ samW2 0) = 1 ∧ outV ((pick samS 0).cl 0) < 6 ∧
      vecIssueCheck ((rowsNow (tick 5 (pick samS 0)) 0).cl 0) (pickZ samW2 0) = none) /- (Instr.add 5 0, 1) -/ ∧
    (issuesB (pick samS 35) 0 (pickZ samW2 35) 2 0 = true ∧ vecVop (pickZ samW2 35) = 33 ∧ outV ((pick samS 35).cl 0) < 6 ∧
      vecIssueCheck ((rowsNow (tick 5 (pick samS 35)) 0).cl 0) (pickZ samW2 35) = none ∧ drawTag (pick samS 35) 0 (pickZ samW2 35) = none) /- (Instr.cvtsr 5 0, 33) -/ ∧
    (issuesB (pick samS 73) 0 (pickZ samW2 36) 2 0 = true ∧ vecVop (pickZ samW2 36) = 56 ∧ outV ((pick samS 73).cl 0) < 6 ∧
      vecIssueCheck ((rowsNow (tick 5 (pick samS 73)) 0).cl 0) (pickZ samW2 36) = none ∧
      (match drawTag (pick samS 73) 0 (pickZ samW2 36) with | some ((tag, g0)) => decide (g0 = false) | _ => false) = true) /- (Instr.dropout 5 0, 56) -/ ∧
    (issuesB (pick samS 75) 0 (pickZ samW2 35) 2 0 = true ∧ vecVop (pickZ samW2 35) = 33 ∧ outV ((pick samS 75).cl 0) < 6 ∧
      vecIssueCheck ((rowsNow (tick 5 (pick samS 75)) 0).cl 0) (pickZ samW2 35) = none ∧
      (match drawTag (pick samS 75) 0 (pickZ samW2 35) with | some ((tag, g0)) => decide (g0 = true) | _ => false) = true) /- (Instr.cvtsr 5 0, 33) -/ := by
  refine ⟨?_, ?_, ?_, ?_, ?_⟩ <;> decide +kernel
end V

namespace X
def samS : List State := V.vops.map (fun v => nx (.add 5 0) (V.sv v)) ++ V.vops.map (fun v => nx (.turn 5 0) (V.sv v)) ++ V.vops.map (fun v => nx (.streamsoftmax 5 0) (V.sv v)) ++ V.vops.map (fun v => nx (.redmax 5 0) (V.sv v))

theorem wit_VectorInstructionCompletes :
    (clOn (pick samS 0) 0 = true ∧ ((pick samS 0).cl 0).stalled = false ∧ ((pick samS 0).cl 0).dma = [] ∧ ((pick samS 0).cl 0).seq.stopPend = none ∧
      ((pick samS 0).cl 0).seq.draining = false ∧
      (match ((pick samS 0).cl 0).vec.jobs with | [j] => (match j.start with | some (rec0, active, sat, nan) => true | _ => false) | _ => false) = true) := by
  decide +kernel
end X

namespace S

theorem wit_SeedsAreWrittenByHalves :
    (rngWriter (Requester.app 3) = false) ∧
    (rngWriter Requester.sched = true ∧ clOn up 0 = true) ∧
    (rngWriter Requester.sched = true ∧ clOn (nx (Instr.rngSeed 5 Requester.sched 0 RegPart.lower 77) up) 0 = true ∧
      (match List.find? (fun x => x.addr == csrBase + 16777216 + ↑0 * 65536 + 1032 && x.who == Requester.sched) (nx (Instr.rngSeed 5 Requester.sched 0 RegPart.lower 77) up).low with | some lo => true | _ => false) = true) ∧
    (engWriter Requester.sched = true ∧ ueOn up 0 = true) := by
  refine ⟨?_, ?_, ?_, ?_⟩ <;> decide +kernel
end S

end Vectors

namespace Accesses

namespace D

theorem wit_DeviceWritesChangeTheirBytes :
    ((up.stored)) := by
  unfold State.stored Kept Cluster.stored
  decide +kernel
end D

namespace P

theorem wit_WritesCarryTheirPoison :
    (mem1.wf = true ∧ ((List.range (List.replicate 32 3).length).all (fun x => held mem1 (0 + x))) = true ∧ held mem1 (32 * 0) = true ∧ 0 ≤ 32 * 0 ∧
      32 * 0 + 32 ≤ 0 + (List.replicate 32 3).length) ∧
    (mem1.wf = true ∧ ((List.range [1].length).all (fun x => held mem1 (0 + x))) = true ∧ held mem1 (32 * 1) = true ∧
      (0 + [1].length ≤ 32 * 1 ∨ 32 * 1 + 32 ≤ 0)) ∧
    (mem1.wf = true ∧ ((List.range [1].length).all (fun x => held mem1 (0 + x))) = true ∧ held mem1 (32 * 0) = true ∧ [1] ≠ [] ∧
      (32 * 0 < 0 ∨ 0 + [1].length < 32 * 0 + 32) ∧ 0 < 32 * 0 + 32 ∧ 32 * 0 < 0 + [1].length) := by
  refine ⟨?_, ?_, ?_⟩ <;> decide +kernel
end P

namespace H

theorem wit_ReservedBytesReadZero :
    (12599296 ≤ 12599296 ∧ 12599296 ≤ 16777215 ∧ (up.stored)) := by
  unfold State.stored Kept Cluster.stored
  decide +kernel
end H

namespace T

theorem wit_AccessesReachTheirTarget :
    (hitOf (tick 5 up) Requester.sched 105553116266496 1 = Hit.miss) ∧
    (hitOf (tick 5 up) (Requester.app 3) (2 ^ 34) 1 = Hit.denied) ∧
    (locOf 4096 = Loc.dram 4096 ∧ 4096 % 32 = 0 ∧ hitOf (tick 5 up) Requester.sched 4096 1 = Hit.ok 4096 ∧
      (match ownerOf up.mem 4096 with | some (_, o) => (match chanAt (locate o.chans (4096 - o.base)).fst with | some (g, n) => decide (((up.mg g).chans.get n).state = 1) | none => true) | none => true) = true) ∧
    (locOf 4096 = Loc.dram 4096 ∧ 4096 % 32 = 0 ∧ (List.replicate 32 7).length = 32 ∧ hitOf (tick 5 up) Requester.sched 4096 32 = Hit.ok 4096) ∧
    (locOf (csrBase + 260) = Loc.csr 260 ∧ hitOf (tick 5 up) Requester.sched (csrBase + 260) 1 = Hit.ok (csrBase + 260) ∧ 5 ≠ 4 ∧ 5 ≠ 8) ∧
    (locOf (csrBase + 261) = Loc.csr 261 ∧ hitOf (tick 5 up) Requester.sched (csrBase + 261) 1 = Hit.ok (csrBase + 261) ∧ 261 % 4 ≠ 0) ∧
    (locOf (csrBase + 260) = Loc.csr 260 ∧ hitOf (tick 5 up) Requester.sched (csrBase + 260) 1 = Hit.ok (csrBase + 260) ∧
      (match csrReg (tick 5 up) 260 with | some (n, _) => n != 64 | none => true) = true) := by
  refine ⟨?_, ?_, ?_, ?_, ?_, ?_, ?_⟩ <;> decide +kernel
end T

end Accesses

namespace Memory
def prot (st : BitVec 2) (r : Nat) (s : State) : State := setG s 0 (fun k => { k with pgrps := vset k.pgrps 0 { Pgrp.reset with enabled := true, state := st, failed := 0, retries := r } })

namespace M

theorem wit_MemoryErrorsAreHandled :
    (mgOn up 0 = true ∧ (up.mg 0).trained = true ∧ ((up.mg 0).scrubEn = true ∨ (up.mg 0).tests ≠ []) ∧ ((up.mg 0).chans.get 0).state = 1 ∧
      scrubNext (up.mg 0) 0 5 = false) ∧
    (mgOn up 0 = true ∧ (up.mg 0).trained = true ∧ ((up.mg 0).scrubEn = true ∨ (up.mg 0).tests ≠ []) ∧ ((up.mg 0).chans.get 0).state = 1 ∧
      scrubNext (up.mg 0) 0 0 = true ∧ (up.mg 0).tests = [] ∧ ((up.mg 0).pgrps.get (chanPgrp 0)).enabled = false ∧ ((up.mg 0).chans.get 0).ueAt = []) ∧
    (0 % 32 = 0 ∧ List.length (zeroB 32) ≤ 256 ∧ unmapped up 0 = false ∧ 0 < 8) ∧
    (2 ^ 45 % 32 = 0 ∧ List.length (zeroB 32) ≤ 256 ∧ unmapped up (2 ^ 45) = true ∧ 3 < 8) ∧
    (0 % 32 = 0 ∧ List.length (zeroB 32) ≤ 256 ∧ unmapped up 0 = false ∧ 8 ≤ 64) ∧
    (storeOn up (Store.operand 0) = true ∧ 0 < (storeSize (Store.operand 0)).fst) := by
  refine ⟨?_, ?_, ?_, ?_, ?_, ?_⟩ <;> decide +kernel
end M

namespace T
def raw : State := setG (setG up 0 (fun _ => Mg.reset)) 1 (fun _ => Mg.reset)

theorem wit_TrainingDecidesChannels :
    (mgOn raw 0 = true ∧ (raw.mg 0).trained = false ∧ (raw.mg 0).failed = false ∧ raw.boot.stage ≠ 6 ∧
      (0 = 0 ∨ (∀ (i : Fin 9), raw.mem.owners.get i = none) ∧ ∀ (m : Fin 2), ((raw.mg 0).pgrps.get m).enabled = false)) ∧
    (mgOn up 0 = true ∧ ((up.mg 0).chans.get 0).state = 1) ∧
    (mgOn (prot 0 0 up) 0 = true ∧ (((prot 0 0 up).mg 0).chans.get 0).state = 1 ∧ (((prot 0 0 up).mg 0).pgrps.get (chanPgrp 0)).enabled = true ∧
      (((prot 0 0 up).mg 0).pgrps.get (chanPgrp 0)).state = 0) ∧
    (mgOn (prot 1 0 up) 0 = true ∧ failedChan (((prot 1 0 up).mg 0).pgrps.get 0) 0 = some 0 ∧ (((prot 1 0 up).mg 0).pgrps.get 0).enabled = true ∧
      (((prot 1 0 up).mg 0).pgrps.get 0).state = 1 ∧
      (Instr.memCtrlRebuildNow0 5 Requester.sched 0 true = Instr.rebuildRetry 5 0 0 true ∧ ((prot 1 0 up).mg 0).rebuild = true ∧ (((prot 1 0 up).mg 0).pgrps.get 0).retries < 3 ∧ (((prot 1 0 up).mg 0).pgrps.get 0).retryAt + 100000000 ≤ max (prot 1 0 up).now 5 ∨ Instr.memCtrlRebuildNow0 5 Requester.sched 0 true = Instr.memCtrlRebuildNow0 5 Requester.sched 0 true ∧ 0 = 0 ∨ Instr.memCtrlRebuildNow0 5 Requester.sched 0 true = Instr.memCtrlRebuildNow1 5 Requester.sched 0 true ∧ 0 = 1)) ∧
    (mgOn (prot 2 0 up) 0 = true ∧ failedChan (((prot 2 0 up).mg 0).pgrps.get 0) 0 = some 0 ∧ (((prot 2 0 up).mg 0).pgrps.get 0).state = 2 ∧
      (((prot 2 0 up).mg 0).pgrps.get 0).since + rebuildNs ≤ max (prot 2 0 up).now (rebuildNs + 9)) := by
  refine ⟨?_, ?_, ?_, ?_, ?_⟩ <;> decide +kernel
end T

end Memory

namespace Ports
def st (n : BitVec 3) (s : State := up) : State := setP s 0 (fun k => { k with state := n, width := 3 })

namespace P
def ss : List State := [up, st 1, setP (st 1) 0 (fun k => { k with fails := 2, failAt := 5 }), setP (st 1) 0 (fun k => { k with fails := 1, failAt := 5 })]
def ii : List Instr := [0xFF, 0x0F, 0, 3, 1].flatMap (fun l => [.linkTrain 200000000 0 l true, .trainRetry 200000000 0 l true, .linkTrain 200000000 0 l false, .trainRetry 200000000 0 l false])

theorem wit_PortsTrain :
    ((pickI ii 0 = Instr.linkTrain 200000000 0 255 true ∧ lgOn up 0 = true ∧ (portDecl up 0).isSome = true ∧ (up.port 0).disable = false ∧ (up.port 0).state = 0 ∨ pickI ii 0 = Instr.linkTrain 200000000 0 255 true ∧ (up.port 0).state = 1 ∧ (up.port 0).fails = 0 ∨ pickI ii 0 = Instr.trainRetry 200000000 0 255 true ∧ (up.port 0).state = 1 ∧ 0 < (up.port 0).fails ∧ (up.port 0).failAt + 100000000 ≤ max up.now 200000000)) := by
  decide +kernel
end P

namespace A
def ss : List State := [st 2]

theorem wit_AttestationDecidesThePort :
    (((st 2).port 0).state = 2 ∧ alarmLevel (tick 20 (st 2)) = 0 ∧
      { authOk := false, peerPkg := 0, peerPort := 0, domain := 0, sameOwner := true : AttestResult }.authOk = false ∧
      (match portDecl (tick 20 (st 2)) 0 with | some (o, link) => true | _ => false) = true) ∧
    (((st 2).port 0).state = 2 ∧ alarmLevel (tick 20 (st 2)) = 0 ∧
      { authOk := true, peerPkg := 1, peerPort := 0, domain := 0, sameOwner := true : AttestResult }.authOk = true ∧
      (match portDecl (tick 20 (st 2)) 0 with | some (o, link) => decide (({ authOk := true, peerPkg := 1, peerPort := 0, domain := 0, sameOwner := true : AttestResult }.sameOwner = false ∨ { authOk := true, peerPkg := 1, peerPort := 0, domain := 0, sameOwner := true : AttestResult }.domain.toNat ≠ fieldU link 8 8 ∨ pkgId { authOk := true, peerPkg := 1, peerPort := 0, domain := 0, sameOwner := true : AttestResult }.peerPkg.toNat ≠ pkgId (fieldU link 2 2) ∨ { authOk := true, peerPkg := 1, peerPort := 0, domain := 0, sameOwner := true : AttestResult }.peerPort.toNat ≠ fieldU link 4 1)) | _ => false) = true) ∧
    (((st 2).port 0).state = 2 ∧ alarmLevel (tick 20 (st 2)) = 0 ∧
      { authOk := true, peerPkg := 0, peerPort := 0, domain := 0, sameOwner := true : AttestResult }.authOk = true ∧
      { authOk := true, peerPkg := 0, peerPort := 0, domain := 0, sameOwner := true : AttestResult }.sameOwner = true ∧
      (match portDecl (tick 20 (st 2)) 0 with | some (o, link) => decide ({ authOk := true, peerPkg := 0, peerPort := 0, domain := 0, sameOwner := true : AttestResult }.domain.toNat = fieldU link 8 8 ∧ pkgId { authOk := true, peerPkg := 0, peerPort := 0, domain := 0, sameOwner := true : AttestResult }.peerPkg.toNat = pkgId (fieldU link 2 2) ∧ { authOk := true, peerPkg := 0, peerPort := 0, domain := 0, sameOwner := true : AttestResult }.peerPort.toNat = fieldU link 4 1 ∧ roleOf (tick 20 (st 2)) o 0 ≠ 2) | _ => false) = true) := by
  refine ⟨?_, ?_, ?_⟩ <;> decide +kernel
end A

namespace F
def fl (q : Nat) (ty : BitVec 4) : Flit := { seq := q, typ := ty, vc := 0, key := true, poison := 0, ack := 0, cvc := 0, credit := 0, data := zeroB 224 }
def tx (q : Nat) : TxFlit := { seq := q, bytes := zeroB 240 }
def ss : List State := [st 2, st 3, setL (st 3) 0 (fun k => { k with rxSeq := 4, txSeq := 5, replay := [tx 1, tx 2, tx 3, tx 4] }), setL (st 2) 0 (fun k => { k with rxSeq := 4, txSeq := 5, replay := [tx 1, tx 2, tx 3, tx 4] })]

theorem wit_FlitsAreTakenInOrder :
    ((((st 2).port 0).state = 2 ∨ ((st 2).port 0).state = 3 ∧ true = true)) ∧
    (((st 3).port 0).state = 3 ∧ (fl 0 1).typ.toNat < 7 ∧ ((st 3).link 0).tagFails = []) ∧
    ((((st 2).port 0).state = 2 ∨ ((st 2).port 0).state = 3) ∧ ((st 2).link 0).waiting = []) := by
  refine ⟨?_, ?_, ?_⟩ <;> decide +kernel
end F

namespace R
def ss : List State := [st 0, st 3, st 5, st 6, setL (st 3) 0 (fun k => { k with keyFlits := 2 ^ 40, rxSeq := 3 }), setP (st 3) 1 (fun k => { k with state := 3, width := 3 }),
  setS (st 3) 0 (fun x => { x with img := none }),  { st 3 with clk := { (st 3).clk with en := 0x7F, src := Vector.replicate 4 1 } }, setS (st 3) 0 (fun x => { x with img := x.img.map (fun i => { i with links := bytes 320 [(16, natLe 1 1), (17, natLe 1 0xFF), (18, natLe 1 0xFF), (32, natLe 1 2), (3, natLe 1 1), (4, natLe 1 1), (21, [1])] }) })]

theorem wit_PortsRetrainAndRekey :
    (((st 3).port 0).state = 3 ∧ ((st 3).port 0).allLanes = false) ∧
    (brmWriter Requester.sched = true ∧ lgOn (st 3) 0 = true ∧ ((st 3).port 0).state = 3) ∧
    (brmWriter Requester.sched = true ∧ lgOn (st 5) 0 = true ∧ (((st 5).port 0).state = 5 ∨ ((st 5).port 0).state = 6)) ∧
    (brmWriter Requester.sched = true ∧ lgOn (st 0) 0 = true) ∧
    (brmWriter Requester.sched = true ∧ lgOn (pick ss 6) 0 = true ∧ portDecl (pick ss 6) 0 = none) ∧
    (brmWriter (Requester.app 3) = false) ∧
    (((pick ss 4).port 0).state = 3 ∧ (2 ^ 40 ≤ ((pick ss 4).link 0).keyFlits ∨ ((pick ss 4).link 0).keyAt + 86400000000000 ≤ max (pick ss 4).now 20)) ∧
    (((st 3).port 0).state = 3 ∧ ((st 3).link 0).keyFlits < 2 ^ 40 ∧ max (st 3).now 20 < ((st 3).link 0).keyAt + 86400000000000) ∧
    (((pick ss 8).port 0).state = 3 ∧ primaryPort (pick ss 8) = some 0) := by
  refine ⟨?_, ?_, ?_, ?_, ?_, ?_, ?_, ?_, ?_⟩ <;> decide +kernel
end R

namespace W
def ss : List State := [up, setK up 0 (fun k => { k with count := 2, base := 0x100 }), setK up 0 (fun k => { k with state := 2 }), setU up 0 (fun k => { k with regs := { k.regs with state := 3 } })]

theorem wit_WalksStartAndAbort :
    (engWriter (Requester.app 3) = false) ∧
    (engWriter Requester.sched = true ∧ ueOn (pick ss 2) 0 = true ∧ ((pick ss 2).col 0).state ≠ 0) ∧
    (engWriter Requester.sched = true ∧ ueOn up 0 = true ∧ (up.col 0).state = 0 ∧ (up.col 0).held = []) ∧
    (engWriter Requester.sched = true ∧ ueOn (pick ss 3) 0 = true ∧ ((pick ss 3).ue 0).regs.state = 3) ∧
    (engWriter Requester.sched = true ∧ ueOn up 0 = true ∧ (up.ue 0).regs.state ≠ 3) := by
  refine ⟨?_, ?_, ?_, ?_, ?_⟩ <;> decide +kernel
end W

end Ports

namespace Collectives
def ring : Img := { img with links := patchB img.links 272 [0, 0, 0, 0, 2, 0, 0, 0] }
def desc (l : List (Nat × Bytes)) : Bytes := bytes 128 ([(0, natLe 4 77), (16, natLe 8 64), (24, natLe 8 0x9000), (32, natLe 8 0xA000)] ++ l)
def base (i : Img) (d : Bytes) (n : BitVec 16) (more : List (Nat × Bytes) := []) : State :=
  let s := setS up 0 (fun x => { x with img := some i })
  let s1 := { s with mem := { mem1 with cells := mcells ([(0x8000, d.take 56), (0x8080, natLe 4 78)] ++ more) } }
  setP (setK s1 0 (fun k => { k with count := n, base := 0x100, step := 5, state := 1 })) 0 (fun k => { k with state := 3, width := 3 })
def loc := base img (desc []) 2
def rin := base ring (desc [(12, natLe 4 1)]) 2
def rdy := base ring (desc [(12, natLe 4 1), (11, [1]), (40, natLe 8 0xB000)]) 2 [(0xB000, natLe 4 4)]
def tgt := base img (desc [(48, natLe 2 (2 ^ 15 + 1 * 32 + 6))]) 2
def started := nx (.collectiveStart 20 0) rin

namespace C
def ss : List State := [loc, rin, rdy, started, setK rin 0 (fun k => { k with state := 3 }), setK rin 0 (fun k => { k with state := 0 })]

theorem wit_CollectivesTakeTheirInput :
    (ueOn loc 0 = true ∧ ((loc.col 0).state = 1 ∨ (loc.col 0).state = 2) ∧ (loc.col 0).fly.length < 2 ∧ (loc.col 0).next < (loc.col 0).count.toNat ∧
      (loc.col 0).held = [] ∧
      (match enginePart loc 0 with | some (p, i) => decide (readyWords loc p (schedDesc loc p 0 (loc.col 0).next) (loc.col 0).step = true) | _ => false) = true) ∧
    ((loc.port 0).state = 3 ∧
      (match portDecl loc 0 with | some (o, link) => (match (loc.slot o).img with | some i => (match contribEngine loc o i 0 { src := 0, phase := 0, hop := 1, collId := 99, chunk := 1, step := 5, discord := false : ContribHdr }.collId.toNat with | some e => decide (List.idxOf? { src := 0, phase := 0, hop := 1, collId := 99, chunk := 1, step := 5, discord := false : ContribHdr }.collId.toNat (schedIds loc o e) = none) | _ => false) | _ => false) | _ => false) = true) ∧
    (((pick ss 4).port 0).state = 3 ∧
      (match portDecl (pick ss 4) 0 with | some (o, link) => (match ((pick ss 4).slot o).img with | some i => (match contribEngine (pick ss 4) o i 0 { src := 0, phase := 0, hop := 1, collId := 77, chunk := 1, step := 5, discord := false : ContribHdr }.collId.toNat with | some e => decide (((pick ss 4).col e).state = 3 ∧ { src := 0, phase := 0, hop := 1, collId := 77, chunk := 1, step := 5, discord := false : ContribHdr }.step = ((pick ss 4).col e).step ∧ (match List.idxOf? { src := 0, phase := 0, hop := 1, collId := 77, chunk := 1, step := 5, discord := false : ContribHdr }.collId.toNat (schedIds (pick ss 4) o e) with | some n => true | _ => false) = true) | _ => false) | _ => false) | _ => false) = true) ∧
    (((pick ss 4).port 0).state = 3 ∧
      (match portDecl (pick ss 4) 0 with | some (o, link) => (match ((pick ss 4).slot o).img with | some i => (match contribEngine (pick ss 4) o i 0 { src := 0, phase := 0, hop := 1, collId := 77, chunk := 0, step := 6, discord := false : ContribHdr }.collId.toNat with | some e => decide (((pick ss 4).col e).state = 3 ∧ { src := 0, phase := 0, hop := 1, collId := 77, chunk := 0, step := 6, discord := false : ContribHdr }.step ≠ ((pick ss 4).col e).step ∧ (match List.idxOf? { src := 0, phase := 0, hop := 1, collId := 77, chunk := 0, step := 6, discord := false : ContribHdr }.collId.toNat (schedIds (pick ss 4) o e) with | some n => true | _ => false) = true) | _ => false) | _ => false) | _ => false) = true) ∧
    ((loc.port 0).state = 3 ∧
      (match portDecl loc 0 with | some (o, link) => (match (loc.slot o).img with | some i => (match contribEngine loc o i 0 { src := 0, phase := 0, hop := 1, collId := 77, chunk := 1, step := 5, discord := false : ContribHdr }.collId.toNat with | some e => decide (((loc.col e).state = 1 ∨ (loc.col e).state = 2) ∧ (match List.idxOf? { src := 0, phase := 0, hop := 1, collId := 77, chunk := 1, step := 5, discord := false : ContribHdr }.collId.toNat (schedIds loc o e) with | some n => decide (List.find? (fun x => x.entry == n) (loc.col e).fly = none ∧ (loc.col e).next ≤ n) | _ => false) = true) | _ => false) | _ => false) | _ => false) = true) ∧
    ((started.port 0).state = 3 ∧
      (match portDecl started 0 with | some (o, link) => (match (started.slot o).img with | some i => (match contribEngine started o i 0 { src := 0, phase := 0, hop := 1, collId := 77, chunk := 1, step := 5, discord := false : ContribHdr }.collId.toNat with | some e => decide (((started.col e).state = 1 ∨ (started.col e).state = 2) ∧ (match List.idxOf? { src := 0, phase := 0, hop := 1, collId := 77, chunk := 1, step := 5, discord := false : ContribHdr }.collId.toNat (schedIds started o e) with | some n => (match List.find? (fun x => x.entry == n) (started.col e).fly with | some k => true | _ => false) | _ => false) = true) | _ => false) | _ => false) | _ => false) = true) := by
  refine ⟨?_, ?_, ?_, ?_, ?_, ?_⟩ <;> decide +kernel
end C

namespace E
def run0 (s : State) : State := setS s 0 (fun x => { x with st := .running, run := some { num := 1, left := 3, step := 5, stage := .inStep, fresh := true, started := true, dueAt := 0, applied := false } })
def w (s : State) (f : Twin → Twin) : State := setS s 0 (fun x => { x with twin := f x.twin })
def mid (s : State) : State :=
  let k := s.col 0
  let s1 := tick 200000000 s
  match k.fly with
  | y :: _ => logCol (setColErr (s1.setCol 0 { k with state := 3, fly := [], aborted := y.entry }) 0 3) 0 0x5023 (payload [(4, 4, fieldU y.desc 0 4), (12, 4, k.step.toNat)])
  | [] => s1
def ss0 : List State := [nx (.collectiveStart 20 0) loc, nx (.collectiveStart 20 0) tgt, started, run0 started, w (run0 started) (fun t => { t with timedOut := true }), w started (fun t => { t with timedOut := true })]
def ss : List State := ss0 ++ ss0.map mid

theorem wit_CollectivesEnd :
    ((match enginePart (pick ss 0) 0 with | some (p, i) => (match List.find? (fun k => k.complete (geoOf i k.desc) (tick 200000000 (pick ss 0)) 0) ((pick ss 0).col 0).fly with | some k => decide (notifyTargets (pick ss 0) p k.desc = [] ∧ fieldU k.desc 9 1 % 16 ≠ 1) | _ => false) | _ => false) = true) ∧
    ((match enginePart (pick ss 1) 0 with | some (p, i) => (match List.find? (fun k => k.complete (geoOf i k.desc) (tick 200000000 (pick ss 1)) 0) ((pick ss 1).col 0).fly with | some k => (match notifyTargets (pick ss 1) p k.desc with | [(c, n)] => decide (clOn (pick ss 1) c = true ∧ n < 32) | _ => false) | _ => false) | _ => false) = true) ∧
    ((match enginePart (pick ss 2) 0 with | some (p, i) => (match ((pick ss 2).col 0).fly with | y :: r => (match List.find? (fun z => elapsed (tick 200000000 (pick ss 2)).now z.since (((pick ss 2).col 0).timeout.toNat * 1000) && (expectedKeys (geoOf i z.desc)).any fun q => (z.msg q.fst q.snd.fst q.snd.snd.fst q.snd.snd.snd).isNone) ((pick ss 2).col 0).fly with | some x => true | _ => false) | _ => false) | _ => false) = true) := by
  refine ⟨?_, ?_, ?_⟩ <;> decide +kernel
end E

namespace B
def grp (l : List (Nat × Bytes)) : Bytes := bytes 160 ([(8, natLe 8 0), (16, natLe 8 100)] ++ l)
def ch (f : UChunk → UChunk) : UChunk := f { col := 0, entry := 0, batt := 0, step := 5, batts := [(List.replicate 32 0x3F800000, false)], discord := false, mult := 0, checked := false }
def sb (last : Nat) (f : UChunk → UChunk) (state : BitVec 3 := 1) : State :=
  setU (base img (desc [(9, [1])]) 1 [(0x20000, grp []), (0x30000, natLe 4 last ++ zeroB 12)]) 0
    (fun k => { k with regs := { k.regs with gcount := 1, gtab := 0x20000, stab := 0x30000, state := state }, st := { k.st with inbox := [ch f] } })
def fin (n : BitVec 3) (ds : List (Nat × Nat)) : State := setK (setU (base img (desc [(9, [1])]) 1) 0 (fun k => { k with regs := { k.regs with state := n }, st := { k.st with dones := ds } })) 0 (fun k => { k with next := 1 })
def two (s : State) : State := setS s 0 (fun x => { x with img := x.img.map (fun i => { i with part := patchB i.part 7 [3] }) })
def ss : List State := [sb 4 id, sb 4 id 3, sb 4 (fun c => { c with discord := true }), sb 3 id, sb 3 (fun c => { c with checked := true }), fin 1 [], fin 1 [(0, 0)], two (fin 1 [(0,0)]), fin 3 [(0,0)]]

theorem wit_BattsAreAppliedAndStepsClosed :
    (((sb 4 id 3).ue 0).regs.state = 3 ∧
      (match enginePart (sb 4 id 3) 0 with | some (p, i) => (match ((sb 4 id 3).ue 0).st.inbox with | c :: r => true | _ => false) | _ => false) = true) ∧
    (((pick ss 4).ue 0).regs.state ≠ 3 ∧
      (match enginePart (pick ss 4) 0 with | some (p, i) => (match ((pick ss 4).ue 0).st.inbox with | c :: r => decide (c.checked = true ∧ (match c.batts with | b :: rest => true | _ => false) = true) | _ => false) | _ => false) = true) ∧
    (((pick ss 2).ue 0).regs.state ≠ 3 ∧
      (match enginePart (pick ss 2) 0 with | some (p, i) => (match ((pick ss 2).ue 0).st.inbox with | c :: r => decide (c.checked = false ∧ c.discord = true ∧ (match groupOf (tick 20 (pick ss 2)) p 0 c.batt with | some (gi, g) => true | _ => false) = true) | _ => false) | _ => false) = true) ∧
    (((sb 4 id).ue 0).regs.state ≠ 3 ∧
      (match enginePart (sb 4 id) 0 with | some (p, i) => (match ((sb 4 id).ue 0).st.inbox with | c :: r => decide (c.checked = false ∧ c.discord = false ∧ counterFault (tick 20 (sb 4 id)) p 0 c = none ∧ (match c.batts with | b :: rest => true | _ => false) = true) | _ => false) | _ => false) = true) ∧
    (((sb 3 id).ue 0).regs.state ≠ 3 ∧
      (match enginePart (sb 3 id) 0 with | some (p, i) => (match ((sb 3 id).ue 0).st.inbox with | c :: r => decide (c.checked = false ∧ c.discord = false ∧ (match counterFault (tick 20 (sb 3 id)) p 0 c with | some y => true | _ => false) = true) | _ => false) | _ => false) = true) ∧
    ((match enginePart (sb 4 id) 0 with | some (p, i) => decide (¬(((sb 4 id).ue 0).regs.state = 1 ∧ ((closers (tick 20 (sb 4 id)) p i 0).all fun c => ((sb 4 id).ue 0).st.dones.contains c) = true)) | _ => false) = true) ∧
    (((fin 1 [(0, 0)]).ue 0).regs.state = 1 ∧
      (match enginePart (fin 1 [(0, 0)]) 0 with | some (p, i) => decide (((closers (tick 20 (fin 1 [(0, 0)])) p i 0).all fun c => ((fin 1 [(0, 0)]).ue 0).st.dones.contains c) = true) | _ => false) = true) := by
  refine ⟨?_, ?_, ?_, ?_, ?_, ?_, ?_⟩ <;> decide +kernel
end B

end Collectives

namespace Tickets

namespace T
def own (s : State) : State := setS s 0 (fun x => { x with img := x.img.map (fun i => { i with part := bytes 128 [(4, natLe 2 1), (7, natLe 1 1), (8, natLe 4 1), (28, natLe 2 3)] }) })
def scr : State := own (q up [tk 8 6 [(16, [2]), (17, [0])]])
def pa (k : Ticket) : List State := [q up [k], q up [k] (pst .empty none), q up [k] (pst .paused (some (rn .inStep))), q up [k] (pst .paused (some (rn .atB5))), q up [k, tk 9 1 [] true] (pst .paused (some (rn .atB5))),
  q up [k] (pst .running (some (rn .atB5))), q up [k] (pst .running (some (rn .atB3))), q up [k] (pst .running (some (rn .inStep)))]
def ss : List State := [scr, off scr 68] ++ pa (tk 8 2) ++ pa (tk 8 3) ++ pa (tk 8 8) ++ pa (tk 8 6 [(16, [2]), (17, [0])]) ++ pa (tk 8 6 [(16, [2]), (17, [7])])
def samK : List Ticket := (ss.flatMap (fun s => (s.slot 0).led.queue)).eraseDups

theorem wit_TicketsActOnTheirPartition :
    (serving (pick ss 2) = true ∧ turnOf (pick ss 2) 0 2 = some (pickK samK 1) ∧
      (((pick ss 2).slot 0).st = PState.empty ∨ ((pick ss 2).slot 0).st = PState.idle)) ∧
    (serving (pick ss 4) = true ∧ turnOf (pick ss 4) 0 2 = some (pickK samK 1) ∧ ((pick ss 4).slot 0).st = PState.paused ∧
      (match ((pick ss 4).slot 0).run with | some r => true | _ => false) = true) ∧
    (serving (pick ss 7) = true ∧ turnOf (pick ss 7) 0 2 = some (pickK samK 1) ∧ ((pick ss 7).slot 0).st = PState.running ∧
      ((pick ss 7).slot 0).pauseNum = none ∧ (match ((pick ss 7).slot 0).run with | some r => decide (r.stage = Stage.atB5) | _ => false) = true) ∧
    (serving (pick ss 8) = true ∧ turnOf (pick ss 8) 0 2 = some (pickK samK 1) ∧ ((pick ss 8).slot 0).st = PState.running ∧
      ((pick ss 8).slot 0).pauseNum = none ∧ (match ((pick ss 8).slot 0).run with | some r => decide (r.stage = Stage.atB3) | _ => false) = true) ∧
    (serving (pick ss 9) = true ∧ turnOf (pick ss 9) 0 2 = some (pickK samK 1) ∧ ((pick ss 9).slot 0).st = PState.running ∧
      ((pick ss 9).slot 0).pauseNum = none ∧ (match ((pick ss 9).slot 0).run with | some r => decide (r.stage = Stage.inStep) | _ => false) = true) ∧
    (serving (pick ss 15) = true ∧ turnOf (pick ss 15) 0 3 = some (pickK samK 3) ∧ ((pick ss 15).slot 0).st = PState.running) ∧
    (serving (pick ss 12) = true ∧ turnOf (pick ss 12) 0 3 = some (pickK samK 3) ∧ ((pick ss 12).slot 0).st = PState.paused ∧
      (match ((pick ss 12).slot 0).run with | some r => decide (r.stage = Stage.inStep) | _ => false) = true) ∧
    (serving (pick ss 14) = true ∧ turnOf (pick ss 14) 0 3 = some (pickK samK 3) ∧ ((pick ss 14).slot 0).st = PState.paused ∧
      (match ((pick ss 14).slot 0).run with | some r => decide (r.stage ≠ Stage.inStep ∧ (((pick ss 14).slot 0).led.queue.any fun x => x.num == r.num && x.num != (pickK samK 3).num) = true) | _ => false) = true) ∧
    (serving (pick ss 18) = true ∧ turnOf (pick ss 18) 0 8 = some (pickK samK 4) ∧
      (((pick ss 18).slot 0).st = PState.idle ∨ ((pick ss 18).slot 0).st = PState.paused) ∧ ((pick ss 18).slot 0).parking = false) ∧
    (serving (pick ss 26) = true ∧ turnOf (pick ss 26) 0 6 = some (pickK samK 0) ∧
      (((pick ss 26).slot 0).st = PState.idle ∨ ((pick ss 26).slot 0).st = PState.running) ∧ fieldU (pickK samK 0).raw 16 1 = 2 ∧
      List.find? (fun (g : Fin 8) => g.val == fieldU (pickK samK 0).raw 17 1) (pkgGroups (claimPkgs (slotPart (pick ss 26) 0))) = none) ∧
    (serving (pick ss 0) = true ∧ turnOf (pick ss 0) 0 6 = some (pickK samK 0) ∧
      (((pick ss 0).slot 0).st = PState.idle ∨ ((pick ss 0).slot 0).st = PState.running) ∧ fieldU (pickK samK 0).raw 16 1 = 2 ∧
      (match List.find? (fun (g : Fin 8) => g.val == fieldU (pickK samK 0).raw 17 1) (pkgGroups (claimPkgs (slotPart (pick ss 0) 0))) with | some g => decide (mgOn (pick ss 0) g = true ∧ ((pick ss 0).mg g).trained = true) | _ => false) = true) ∧
    (serving (pick ss 1) = true ∧ turnOf (pick ss 1) 0 6 = some (pickK samK 0) ∧
      (((pick ss 1).slot 0).st = PState.idle ∨ ((pick ss 1).slot 0).st = PState.running) ∧ fieldU (pickK samK 0).raw 16 1 = 2 ∧
      (match List.find? (fun (g : Fin 8) => g.val == fieldU (pickK samK 0).raw 17 1) (pkgGroups (claimPkgs (slotPart (pick ss 1) 0))) with | some g => decide (mgOn (pick ss 1) g = false) | _ => false) = true) := by
  refine ⟨?_, ?_, ?_, ?_, ?_, ?_, ?_, ?_, ?_, ?_, ?_, ?_⟩ <;> decide +kernel
end T

namespace R
def tw (t : TwinSt) (s : State) : State := setS s 0 (fun x => { x with twin := { x.twin with st := t } })
def dr0 : Ticket := tk 8 5 [(16, natLe 8 0), (24, natLe 4 7), (32, natLe 8 0x10000)]
def withSym (s : State) : State := setS s 0 (fun x => { x with img := x.img.map (fun i => { i with symbols := bytes 512 [(0, natLe 8 1)] }), obs := { x.obs with dumpLen := 2 ^ 40 } })
def dOk : State := let s := withSym (q up [dr0]); let k := { dr0 with raw := patchB dr0.raw 40 (dumpAuth s 0 dr0.raw) }; withSym (q up [k])
def ss : List State := [q up [tk 8 1 [(16, natLe 4 3)]], q up [tk 8 1 [(16, natLe 4 3), (20, natLe 4 0xFFFFFFFF)]], q up [tk 8 1 [(16, natLe 4 3), (20, natLe 4 7)]], tw .paired (q up [tk 8 1 [(20, natLe 4 7)]]), tw .fenced (q up [tk 8 1]),
  q up [tk 8 4 [(16, [1]), (24, natLe 8 0x50000)]], q up [dr0], q up [{ dr0 with raw := patchB dr0.raw 40 (List.replicate 16 0xAA) }], dOk]
def samK : List Ticket := (ss.flatMap (fun s => (s.slot 0).led.queue)).eraseDups

theorem wit_RunsCheckpointsAndDumpsBegin :
    (serving (q up [tk 8 1 [(16, natLe 4 3)]]) = true ∧ turnOf (q up [tk 8 1 [(16, natLe 4 3)]]) 0 1 = some (pickK samK 0) ∧
      ((q up [tk 8 1 [(16, natLe 4 3)]]).slot 0).st = PState.idle ∧ (q up [tk 8 1 [(16, natLe 4 3)]]).sched.job = none ∧
      (((q up [tk 8 1 [(16, natLe 4 3)]]).slot 0).twin.st = TwinSt.unpaired ∨ ((q up [tk 8 1 [(16, natLe 4 3)]]).slot 0).twin.st = TwinSt.paired ∨ ((q up [tk 8 1 [(16, natLe 4 3)]]).slot 0).twin.st = TwinSt.solo) ∧
      fieldU (pickK samK 0).raw 24 8 = 0 ∧ noneRuns (q up [tk 8 1 [(16, natLe 4 3)]]) 0 = true ∧
      (match ((q up [tk 8 1 [(16, natLe 4 3)]]).slot 0).img with | some i => true | _ => false) = true) ∧
    (serving (tw TwinSt.fenced (q up [tk 8 1])) = true ∧ turnOf (tw TwinSt.fenced (q up [tk 8 1])) 0 1 = some (pickK samK 4) ∧
      ((tw TwinSt.fenced (q up [tk 8 1])).slot 0).st = PState.idle ∧ ((tw TwinSt.fenced (q up [tk 8 1])).slot 0).twin.st = TwinSt.fenced ∧
      (match ((tw TwinSt.fenced (q up [tk 8 1])).slot 0).img with | some i => true | _ => false) = true) ∧
    (serving (q up [tk 8 4 [(16, [1]), (24, natLe 8 327680)]]) = true ∧
      turnOf (q up [tk 8 4 [(16, [1]), (24, natLe 8 327680)]]) 0 4 = some (pickK samK 5) ∧
      ((q up [tk 8 4 [(16, [1]), (24, natLe 8 327680)]]).slot 0).st = PState.idle ∧
      ((q up [tk 8 4 [(16, [1]), (24, natLe 8 327680)]]).slot 0).ck.stream = none ∧ fieldU (pickK samK 5).raw 16 1 = 1 ∧
      fieldU (pickK samK 5).raw 24 8 < dramEnd ∧
      (match ((q up [tk 8 4 [(16, [1]), (24, natLe 8 327680)]]).slot 0).img with | some i => decide (partOwns (q up [tk 8 4 [(16, [1]), (24, natLe 8 327680)]]) 0 (fieldU (pickK samK 5).raw 24 8) (4096 + shardSize i) = true) | _ => false) = true) ∧
    (serving (pick ss 7) = true ∧ turnOf (pick ss 7) 0 5 = some (pickK samK 7) ∧
      sliceB (pickK samK 7).raw 40 16 ≠ dumpAuth (pick ss 7) 0 (pickK samK 7).raw ∧
      (match ((pick ss 7).slot 0).img with | some i => true | _ => false) = true) ∧
    (serving dOk = true ∧ turnOf dOk 0 5 = some (pickK samK 6) ∧ sliceB (pickK samK 6).raw 40 16 = dumpAuth dOk 0 (pickK samK 6).raw ∧
      BitVec.toNat (dOk.slot 0).led.step < fieldU (pickK samK 6).raw 24 4 ∧ (dOk.slot 0).obs.dump = none ∧
      (match (dOk.slot 0).img with | some i => (match symEntry i (fieldU (pickK samK 6).raw 16 8) with | some e => decide (fieldU (pickK samK 6).raw 32 8 + symSize e ≤ partSize dOk 0 ∧ partOwns dOk 0 (fieldU (pickK samK 6).raw 32 8) (symSize e) = true ∧ dumpLen dOk 0 (symSize e) ≤ BitVec.toNat (dOk.slot 0).obs.dumpLen) | _ => false) | _ => false) = true) := by
  refine ⟨?_, ?_, ?_, ?_, ?_⟩ <;> decide +kernel
end R

namespace D
def drn (s : State) (en : Nat) : State := setS s 0 (fun x => { x with obs := { x.obs with drain := BitVec.ofNat 64 (en * 32 + 9 + 0x40000) }, led := { x.led with queue := [tk 8 5 [] true] } })
def trd (s : State) : State := nx (.trace 5 0) (setC s 0 (fun k => { k with seq := { k.seq with mode := .run, block := some { addr := 0x1000, words := [iw 5 1 [(96, 3)], endW], tgts := [] } } }))
def dj : DumpJob := { num := 8, entry := bytes 64 [], step := 5, dest := 0x10000, taken := some (zeroB 64, [1]) }
def ss : List State := [drn up 0, drn up 1, trd (drn up 1), setS (drn up 1) 0 (fun x => { x with obs := { x.obs with dump := some dj, dumpOut := 0x80000 } })]

theorem wit_DrainsAndDumpsReachTheHost :
    (claimOf (drn up 1) 0 = some (0, 0) ∧ bitAt (BitVec.toNat ((drn up 1).slot 0).obs.drain) 5 = true ∧ gateOn (drn up 1) 5 = true ∧
      clOn (drn up 1) 0 = true ∧ BitVec.toNat ((drn up 1).cl 0).trc.recno = ((drn up 1).cl 0).trc.drained ∧
      (match ((drn up 1).slot 0).img with | some i => true | _ => false) = true) ∧
    (claimOf (trd (drn up 1)) 0 = some (0, 0) ∧ bitAt (BitVec.toNat ((trd (drn up 1)).slot 0).obs.drain) 5 = true ∧ gateOn (trd (drn up 1)) 5 = true ∧
      clOn (trd (drn up 1)) 0 = true ∧ BitVec.toNat ((trd (drn up 1)).cl 0).trc.recno = ((trd (drn up 1)).cl 0).trc.drained + 1 ∧
      (match ((trd (drn up 1)).slot 0).img with | some i => true | _ => false) = true) ∧
    (bitAt (BitVec.toNat ((drn up 0).slot 0).obs.drain) 5 = false ∧ claimOf (drn up 0) 0 = some (0, 0) ∧
      (match ((drn up 0).slot 0).img with | some i => true | _ => false) = true) ∧
    (schedUp (tick 20 (pick ss 3)) = true ∧
      (match ((pick ss 3).slot 0).img with | some i => (match ((pick ss 3).slot 0).obs.dump with | some j => (match j.taken with | some (data, bad) => (match findTicket (pick ss 3) 0 j.num with | some k => true | _ => false) | _ => false) | _ => false) | _ => false) = true) := by
  refine ⟨?_, ?_, ?_, ?_⟩ <;> decide +kernel
end D

end Tickets

namespace Steps

namespace L
def lg (k : Ticket) (f : Slot → Slot := id) : State :=
  let a := 2 ^ 34 + 0x100000
  let s := setS up 0 (fun x => { x with led := { x.led with base := BitVec.ofNat 64 (2 ^ 63 + a), high := 4, epoch := 3, claimed := true, live := true, head := 7, lease := 9 } })
  let s := { s with mem := { s.mem with cells := mcells [(a, natLe 8 8 ++ zeroB 16 ++ natLe 8 9 ++ zeroB 32), (a + 0x1000 + 64 * 7, k.raw)] } }
  setS s 0 f
def noTk (f : Slot → Slot := id) : State := setS (lg (tk 8 1)) 0 (fun x => f { x with led := { x.led with head := 8 } })
def ss : List State := [lg (tk 8 1 [(16, natLe 4 1)]), lg (tk 8 1 [(16, natLe 4 1)] false 2), lg (tk 8 7 [] false 4), lg (tk 8 7 [] false 4) (fun x => { x with st := .parked, parkFrom := .paused }), lg (tk 8 7 [] false 4) (fun x => { x with st := .parked, parkFrom := .running }), { lg (tk 8 1) with sched := { Sched.reset with failed := true } },
  noTk, noTk (fun x => { x with st := .recovering }), noTk (fun x => { x with st := .empty, led := { x.led with queue := [tk 9 1, tk 10 6 [] true, tk 11 5] } }), noTk (fun x => { x with led := { x.led with claimed := false } }), noTk (fun x => { x with led := { x.led with leaseAt := 299999999 } })]

theorem wit_LedgersAndLeases :
    (serving (lg (tk 8 1 [(16, natLe 4 1)])) = true ∧ (∀ (q : Fin 8), q ≠ 0 → ((lg (tk 8 1 [(16, natLe 4 1)])).slot q).led.en = false) ∧
      ((lg (tk 8 1 [(16, natLe 4 1)])).slot 0).led.en = true ∧
      leNat (devRead (lg (tk 8 1 [(16, natLe 4 1)])) ((lg (tk 8 1 [(16, natLe 4 1)])).slot 0).led.addr 8) = ((lg (tk 8 1 [(16, natLe 4 1)])).slot 0).led.head + 1 ∧
      fieldU (ticketSlot (lg (tk 8 1 [(16, natLe 4 1)])) 0 ((lg (tk 8 1 [(16, natLe 4 1)])).slot 0).led.head) 60 4 = crc32 (List.take 60 (ticketSlot (lg (tk 8 1 [(16, natLe 4 1)])) 0 ((lg (tk 8 1 [(16, natLe 4 1)])).slot 0).led.head)) ∧
      ((lg (tk 8 1 [(16, natLe 4 1)])).slot 0).led.queue.length < 4096 ∧
      ((lg (tk 8 1 [(16, natLe 4 1)])).slot 0).led.lease = BitVec.ofNat 64 (leNat (devRead (lg (tk 8 1 [(16, natLe 4 1)])) (((lg (tk 8 1 [(16, natLe 4 1)])).slot 0).led.addr + 24) 8)) ∧
      tkEpoch (ticketSlot (lg (tk 8 1 [(16, natLe 4 1)])) 0 ((lg (tk 8 1 [(16, natLe 4 1)])).slot 0).led.head) = BitVec.toNat ((lg (tk 8 1 [(16, natLe 4 1)])).slot 0).led.epoch ∧
      BitVec.toNat ((lg (tk 8 1 [(16, natLe 4 1)])).slot 0).led.high < tkNum (ticketSlot (lg (tk 8 1 [(16, natLe 4 1)])) 0 ((lg (tk 8 1 [(16, natLe 4 1)])).slot 0).led.head) ∧
      tkType (ticketSlot (lg (tk 8 1 [(16, natLe 4 1)])) 0 ((lg (tk 8 1 [(16, natLe 4 1)])).slot 0).led.head) ≠ 7 ∧
      badArgs (ticketSlot (lg (tk 8 1 [(16, natLe 4 1)])) 0 ((lg (tk 8 1 [(16, natLe 4 1)])).slot 0).led.head) = false ∧
      lapsed (lg (tk 8 1 [(16, natLe 4 1)])) 0 = false) ∧
    (serving (lg (tk 8 1 [(16, natLe 4 1)] false 2)) = true ∧ (∀ (q : Fin 8), q ≠ 0 → ((lg (tk 8 1 [(16, natLe 4 1)] false 2)).slot q).led.en = false) ∧
      ((lg (tk 8 1 [(16, natLe 4 1)] false 2)).slot 0).led.en = true ∧
      leNat (devRead (lg (tk 8 1 [(16, natLe 4 1)] false 2)) ((lg (tk 8 1 [(16, natLe 4 1)] false 2)).slot 0).led.addr 8) = ((lg (tk 8 1 [(16, natLe 4 1)] false 2)).slot 0).led.head + 1 ∧
      fieldU (ticketSlot (lg (tk 8 1 [(16, natLe 4 1)] false 2)) 0 ((lg (tk 8 1 [(16, natLe 4 1)] false 2)).slot 0).led.head) 60 4 = crc32 (List.take 60 (ticketSlot (lg (tk 8 1 [(16, natLe 4 1)] false 2)) 0 ((lg (tk 8 1 [(16, natLe 4 1)] false 2)).slot 0).led.head)) ∧
      ((lg (tk 8 1 [(16, natLe 4 1)] false 2)).slot 0).led.queue.length < 4096 ∧
      ((lg (tk 8 1 [(16, natLe 4 1)] false 2)).slot 0).led.lease = BitVec.ofNat 64 (leNat (devRead (lg (tk 8 1 [(16, natLe 4 1)] false 2)) (((lg (tk 8 1 [(16, natLe 4 1)] false 2)).slot 0).led.addr + 24) 8)) ∧
      tkEpoch (ticketSlot (lg (tk 8 1 [(16, natLe 4 1)] false 2)) 0 ((lg (tk 8 1 [(16, natLe 4 1)] false 2)).slot 0).led.head) < BitVec.toNat ((lg (tk 8 1 [(16, natLe 4 1)] false 2)).slot 0).led.epoch) ∧
    (serving (tick 300000000 (pick ss 5)) = false) ∧
    (serving (lg (tk 8 7 [] false 4)) = true ∧ ((lg (tk 8 7 [] false 4)).slot 0).led.en = true ∧
      ((lg (tk 8 7 [] false 4)).slot 0).led.head < leNat (devRead (lg (tk 8 7 [] false 4)) ((lg (tk 8 7 [] false 4)).slot 0).led.addr 8) ∧
      tkType (ticketSlot (lg (tk 8 7 [] false 4)) 0 ((lg (tk 8 7 [] false 4)).slot 0).led.head) = 7 ∧
      fieldU (ticketSlot (lg (tk 8 7 [] false 4)) 0 ((lg (tk 8 7 [] false 4)).slot 0).led.head) 60 4 = crc32 (List.take 60 (ticketSlot (lg (tk 8 7 [] false 4)) 0 ((lg (tk 8 7 [] false 4)).slot 0).led.head)) ∧
      BitVec.toNat ((lg (tk 8 7 [] false 4)).slot 0).led.epoch < tkEpoch (ticketSlot (lg (tk 8 7 [] false 4)) 0 ((lg (tk 8 7 [] false 4)).slot 0).led.head) ∧
      BitVec.toNat ((lg (tk 8 7 [] false 4)).slot 0).led.high < tkNum (ticketSlot (lg (tk 8 7 [] false 4)) 0 ((lg (tk 8 7 [] false 4)).slot 0).led.head)) ∧
    ((∀ (h : Fin 16), Requester.sched ≠ Requester.app h)) ∧
    (((pick ss 9).slot 0).led.claimed = false ∧ BitVec.getLsbD (2 ^ 34 : W64) 63 = false) ∧
    (serving (pick ss 7) = true ∧ ((pick ss 7).slot 0).led.en = true ∧ ((pick ss 7).slot 0).led.claimed = true ∧ lapsed (pick ss 7) 0 = false ∧
      ((pick ss 7).slot 0).led.leaseAt + 200000000 ≤ max (pick ss 7).now 300000000 ∧ ((pick ss 7).slot 0).st = PState.recovering) ∧
    (serving (lg (tk 8 1 [(16, natLe 4 1)])) = true ∧ ((lg (tk 8 1 [(16, natLe 4 1)])).slot 0).led.en = true ∧
      ((lg (tk 8 1 [(16, natLe 4 1)])).slot 0).led.claimed = true ∧ lapsed (lg (tk 8 1 [(16, natLe 4 1)])) 0 = false ∧
      ((lg (tk 8 1 [(16, natLe 4 1)])).slot 0).led.leaseAt + 200000000 ≤ max (lg (tk 8 1 [(16, natLe 4 1)])).now 300000000 ∧
      (((lg (tk 8 1 [(16, natLe 4 1)])).slot 0).st = PState.idle ∨ ((lg (tk 8 1 [(16, natLe 4 1)])).slot 0).st = PState.empty)) ∧
    ((((pick ss 9).slot 0).led.claimed = false ∨ max (pick ss 9).now 300000000 < ((pick ss 9).slot 0).led.leaseAt + 200000000)) := by
  refine ⟨?_, ?_, ?_, ?_, ?_, ?_, ?_, ?_, ?_⟩ <;> decide +kernel
end L

namespace S
def done (s : State) : State := setK (setU (setC (setC s 0 (fun k => { k with seq := { k.seq with mode := .done } })) 1 (fun k => { k with seq := { k.seq with mode := .done } })) 0 (fun k => { k with regs := { k.regs with state := 2 } })) 0 id
  where
   setK (s : State) (e : Fin 4) (f : Col → Col) : State := s.setCol e (f (s.col e))
   setU (s : State) (e : Fin 4) (f : Ue → Ue) : State := s.setUe e (f (s.ue e))
def b (f : Slot → Slot) : State := q up [tk 9 1 [] true] f
def ss : List State := [b (pst .running (some (rn .inStep))), done (b (pst .running (some (rn .inStep)))), done (b (pst .recovering (some (rn .inStep)))), done (b (fun x => w (fun t => { t with recov := true }) (pst .recovering (some (rn .inStep)) x))),
  done (b (fun x => { pst .running (some (rn .inStep)) x with parking := true })), done (b (pst .running (some (rn .inStep 77)))), done (b (pst .running (some { rn .inStep with left := 1 }))),
  b (pst .running (some (rn .atB5))), off (b (pst .running (some (rn .atB5)))) 1, b (fun x => w (fun t => { t with st := .paired, pairStep := some 1, v := 1 }) (pst .running (some (rn .atB5)) x)), b (pst .running (some (rn .atB3)))]
def mid (s : State) : State :=
  let s1 := tick 20 s
  match (s1.slot 0).run, (s1.slot 0).img with
  | some r, some i =>
    let s2 := decideAll s1 0 i r.step
    syncHdr (s2.setSlot 0 { s2.slot 0 with led := { (s2.slot 0).led with step := BitVec.ofNat 32 r.step }, run := some { r with left := r.left - 1, step := (r.step + 1) % 2 ^ 32, stage := .atB3 }, twin := { (s2.slot 0).twin with timedOut := false } }) 0
  | _, _ => s1
def ss2 : List State := ss ++ ss.map mid

theorem wit_StepsEndAndStart :
    (schedUp (tick 20 (pick ss2 7)) = true ∧
      (match ((pick ss2 7).slot 0).run with | some r => decide (r.stage ≠ Stage.inStep ∧ (match ((pick ss2 7).slot 0).img with | some i => true | _ => false) = true) | _ => false) = true) ∧
    (schedUp (tick 20 (pick ss2 0)) = true ∧
      (match ((pick ss2 0).slot 0).run with | some r => (match ((pick ss2 0).slot 0).img with | some i => decide (stepDone (tick 20 (pick ss2 0)) 0 i = false) | _ => false) | _ => false) = true) ∧
    (schedUp (tick 20 (pick ss2 1)) = true ∧ (((pick ss2 1).slot 0).st = PState.running ∨ ((pick ss2 1).slot 0).st = PState.recovering) ∧
      (match ((pick ss2 1).slot 0).run with | some r => decide (r.stage = Stage.inStep ∧ (match ((pick ss2 1).slot 0).img with | some i => decide (stepDone (tick 20 (pick ss2 1)) 0 i = true) | _ => false) = true) | _ => false) = true) ∧
    (schedUp (tick 20 (pick ss2 0)) = true ∧
      (match ((pick ss2 0).slot 0).run with | some r => decide ((r.stage ≠ Stage.atB5 ∨ ((pick ss2 0).slot 0).twin.recov = true ∨ twinLets ((pick ss2 0).slot 0).twin r.step = false) ∧ (match ((pick ss2 0).slot 0).img with | some i => true | _ => false) = true) | _ => false) = true) ∧
    (schedUp (tick 20 (pick ss2 7)) = true ∧ ((pick ss2 7).slot 0).st = PState.running ∧ ((pick ss2 7).slot 0).parking = false ∧
      ((pick ss2 7).slot 0).twin.recov = false ∧ (((pick ss2 7).slot 0).kat.any fun x => x.ready) = false ∧
      ((pick ss2 7).slot 0).twin.st ≠ TwinSt.rebuild ∧ (∀ (c : Fin 64), c ∈ ((pick ss2 7).slot 0).asg.cmap → clOn (pick ss2 7) c = true) ∧
      (match ((pick ss2 7).slot 0).run with | some r => decide (r.stage = Stage.atB5 ∧ twinLets ((pick ss2 7).slot 0).twin r.step = true ∧ (match ((pick ss2 7).slot 0).img with | some i => true | _ => false) = true) | _ => false) = true) ∧
    (schedUp (tick 20 (pick ss2 8)) = true ∧ ((pick ss2 8).slot 0).st = PState.running ∧ ((pick ss2 8).slot 0).parking = false ∧
      ((pick ss2 8).slot 0).twin.recov = false ∧ (((pick ss2 8).slot 0).kat.any fun x => x.ready) = false ∧
      ((pick ss2 8).slot 0).twin.st ≠ TwinSt.rebuild ∧ (∃ c, c ∈ ((pick ss2 8).slot 0).asg.cmap ∧ clOn (pick ss2 8) c = false) ∧
      (match ((pick ss2 8).slot 0).run with | some r => decide (r.stage = Stage.atB5 ∧ twinLets ((pick ss2 8).slot 0).twin r.step = true ∧ (match ((pick ss2 8).slot 0).img with | some i => true | _ => false) = true) | _ => false) = true) := by
  refine ⟨?_, ?_, ?_, ?_, ?_, ?_⟩ <;> decide +kernel
end S

namespace O
def ld : Ticket := tk 8 9 [(16, natLe 8 (2 ^ 34 + 0x200000))]
def job (w : Option Nat) : LoadJob := { slot := 0, num := 8, image := zeroB 4096, verdict := ⟨true, true⟩, full := false, waitFrom := w, powered := [], poison := [], before := [] }
def al (s : State) : State := { s with sec := { s.sec with alarms := [{ sensor := 1, level := 1, since := 0 }] } }
def wj (w : Option Nat) : State := { q up [ld] (pst .idle none) with sched := { Sched.reset with job := some (job w) } }
def two : State := let s := q up [{ ld with ord := 5 }]; s.setSlot 1 { s.slot 0 with led := { (s.slot 0).led with queue := [{ ld with ord := 1 }] } }
def ks : List Ticket := [ld, { ld with ord := 5 }]

theorem wit_LoadsAreCarriedOut :
    (loadMay (tick 2000000000 (q up [ld] (pst PState.paused none))) 0 = false) ∧
    (loadMay (tick 2000000000 two) 0 = true ∧ turnOf two 0 9 = some (pickK ks 1) ∧ loadFirst (tick 2000000000 two) 0 (pickK ks 1) = false) ∧
    (loadMay (tick 2000000000 (q up [ld])) 0 = true ∧ turnOf (q up [ld]) 0 9 = some ld ∧ loadFirst (tick 2000000000 (q up [ld])) 0 ld = true ∧
      ((q up [ld]).slot 0).run = none ∧ headerOk (readImage (tick 2000000000 (q up [ld])) (fieldU ld.raw 16 8)).bytes = false) ∧
    (schedUp (tick 2000000000 (wj none)) = true ∧ ((wj none).slot 0).st = PState.idle ∧ ((wj none).slot 0).run = none ∧ alarmLevel (wj none) = 0 ∧
      (match (wj none).sched.job with | some j => decide (j.slot = 0 ∧ j.full = false ∧ findTicket (wj none) 0 j.num = some ld ∧ (match ((wj none).slot 0).img with | some i => decide (quiesced (wj none) 0 i = true) | _ => false) = true) | _ => false) = true) ∧
    (schedUp (tick 2000000000 (al (wj none))) = true ∧ ((al (wj none)).slot 0).st = PState.idle ∧ alarmLevel (al (wj none)) ≠ 0 ∧
      (match (al (wj none)).sched.job with | some j => decide (j.slot = 0 ∧ j.full = false ∧ findTicket (al (wj none)) 0 j.num = some ld ∧ j.waitFrom = none ∧ (match ((al (wj none)).slot 0).img with | some i => decide (quiesced (al (wj none)) 0 i = true) | _ => false) = true) | _ => false) = true) ∧
    (schedUp (tick 2000000000 (al (wj (some 3)))) = true ∧ alarmLevel (al (wj (some 3))) ≠ 0 ∧ ((al (wj (some 3))).slot 0).run = none ∧
      (match (al (wj (some 3))).sched.job with | some j => decide (j.slot = 0 ∧ j.full = false ∧ findTicket (al (wj (some 3))) 0 j.num = some ld ∧ (match ((al (wj (some 3))).slot 0).img with | some i => (match j.waitFrom with | some x => decide (x + 1000000000 ≤ max (al (wj (some 3))).now 2000000000) | _ => false) | _ => false) = true) | _ => false) = true) ∧
    (two.sched.job = none) := by
  refine ⟨?_, ?_, ?_, ?_, ?_, ?_, ?_⟩ <;> decide +kernel
end O

end Steps

namespace Requests

namespace M
def se (f : Sched → Sched) : State := { up with sec := { up.sec with sessions := [{ id := 7, role := .owner, port := none, signed := false, txKey := .none, rxKey := .none }] }, sched := f up.sched }
def runs (s : State) : State := q s [tk 9 1 [] true] (pst .running (some (rn .inStep)))
def dig0 : Nat := 0xfb656fe7bfde4e27dae1f663bfc70c4c4307be1411b7fd216ae3b1b17e32d94c3896ac51a760b038
def dig8 : Nat := 0x42b24aeb46dcf141a072ae8c088f5cd0ce3846c641a8a6e9e17af728ec3e3f7378fc65a3b52f9768
def entry (typ size load dig : Nat) : Nat := typ + 448 * 2 ^ 32 + size * 2 ^ 64 + load * 2 ^ 128 + dig * 2 ^ 192
def bundle : Bytes := natLe 608 (0x5746594B + 1 * 2 ^ 32 + 6 * 2 ^ 48 + 608 * 2 ^ 64 + 512 * 2 ^ 96 + entry 1 0 0 dig0 * 2 ^ 512 + entry 2 0 0 dig0 * 2 ^ 1024 +
  entry 3 0 0 dig0 * 2 ^ 1536 + entry 4 0 0 dig0 * 2 ^ 2048 + entry 5 0 0x1000 dig0 * 2 ^ 2560 + entry 6 8 0 dig8 * 2 ^ 3072 + 1 * 2 ^ 3584)
def stg : State :=
  let s := se (fun c => { c with fwTotal := some 608 })
  { s with ctl := { s.ctl with cells := (bundle.zipIdx.map (fun y => (0x400000 + y.2, y.1))).filter (fun y => y.2 != 0) } }
def ss : List State := [up, off (se id) 69, se (fun c => { c with highest := [(7, 3)] }), se id, se (fun c => { c with highest := [(7, 3)], cache := [{ session := 7, reqId := 3, bytes := [1] }] }), runs (se id), se (fun c => { c with fwTotal := some 100 }), stg]
end M

open M

namespace M

theorem cells_get (b : Bytes) (a k x : Nat) : (alGet (((b.zipIdx k).map (fun y => (a + y.2, y.1))).filter (fun y => y.2 != 0)) x).getD 0 =
    if a + k ≤ x then b.getD (x - (a + k)) 0 else 0 := by
  induction b generalizing k with
  | nil => simp [alGet]
  | cons v r ih =>
    have h := ih (k + 1)
    have tail : a + (k + 1) ≤ x → (v :: r).getD (x - (a + k)) 0 = r.getD (x - (a + (k + 1))) 0 := fun h2 => by
      rw [show x - (a + k) = (x - (a + (k + 1))) + 1 by omega, List.getD_cons_succ]
    simp only [List.zipIdx_cons, List.map_cons, List.filter_cons]
    cases hv : (v != 0)
    · simp only [Bool.false_eq_true, if_false, h]
      have v0 : v = 0 := by simpa using hv
      by_cases hx : x = a + k
      · subst hx; rw [if_neg (by omega), if_pos (Nat.le_refl _), Nat.sub_self, List.getD_cons_zero, v0]
      · by_cases h2 : a + (k + 1) ≤ x
        · rw [if_pos h2, if_pos (by omega), tail h2]
        · rw [if_neg h2, if_neg (by omega)]
    · simp only [if_true, alGet]
      by_cases hx : x = a + k
      · subst hx; rw [if_pos rfl, if_pos (Nat.le_refl _), Nat.sub_self, List.getD_cons_zero]; rfl
      · rw [if_neg (fun e => hx e.symm)]
        by_cases h2 : a + (k + 1) ≤ x
        · rw [if_neg (by omega), h, if_pos h2, if_pos (by omega), tail h2]
        · rw [if_pos (by omega), if_neg (by omega)]; rfl
theorem bundle_good : bundleCheck bundle ⟨true, true⟩ 0 = 0 := by decide +kernel
theorem staged_stg : staged stg 608 = bundle := by
  apply List.ext_getElem
  · rw [staged, Sram.read, List.length_map, span, List.length_map, List.length_range, bundle, length_natLe]
  · intro i h1 h2
    simp only [staged, Sram.read, span, stageOff, List.getElem_map, List.getElem_range, Sram.get, stg]
    rw [cells_get, if_pos (by omega), show 0x400000 + i - (0x400000 + 0) = i by omega, ← List.getElem_eq_getD (h := h2)]
theorem wit_RequestsAreServedOnce_commit : stg.sched.fwTotal = some 608 ∧ bundleCheck (staged stg 608) ⟨true, true⟩ (fwFloor stg) = 0 ∧
    serving stg = true ∧ ownerSession stg 7 = true ∧ alGet stg.sched.highest 7 = none ∧ stg.sched.fwCommit = false := by
  refine ⟨rfl, ?_, by decide +kernel⟩
  rw [staged_stg, show fwFloor stg = 0 from rfl, bundle_good]

theorem wit_RequestsAreServedOnce :
    ((up.sched.failed = true ∨ up.sched.sampling = false ∨ ownerSession up { session := 7, reqId := 3, addr := 1, port := 2 : MgmtReq }.session = false)) /- Instr.status 2000000000 { session := 7, reqId := 3, addr := 1, port := 2 : MgmtReq } -/ ∧
    ((pick ss 4).sched.failed = false ∧ (pick ss 4).sched.sampling = true ∧
      ownerSession (pick ss 4) { session := 7, reqId := 3, addr := 1, port := 2 : MgmtReq }.session = true ∧
      (match alGet (pick ss 4).sched.highest { session := 7, reqId := 3, addr := 1, port := 2 : MgmtReq }.session with | some h => decide ({ session := 7, reqId := 3, addr := 1, port := 2 : MgmtReq }.reqId ≤ h ∧ (match List.find? (fun y => y.session == { session := 7, reqId := 3, addr := 1, port := 2 : MgmtReq }.session && y.reqId == { session := 7, reqId := 3, addr := 1, port := 2 : MgmtReq }.reqId) (pick ss 4).sched.cache with | some x => true | _ => false) = true) | _ => false) = true) /- Instr.status 2000000000 { session := 7, reqId := 3, addr := 1, port := 2 : MgmtReq } -/ ∧
    ((pick ss 2).sched.failed = false ∧ (pick ss 2).sched.sampling = true ∧
      ownerSession (pick ss 2) { session := 7, reqId := 3, addr := 1, port := 2 : MgmtReq }.session = true ∧
      List.find? (fun y => y.session == { session := 7, reqId := 3, addr := 1, port := 2 : MgmtReq }.session && y.reqId == { session := 7, reqId := 3, addr := 1, port := 2 : MgmtReq }.reqId) (pick ss 2).sched.cache = none ∧
      (match alGet (pick ss 2).sched.highest { session := 7, reqId := 3, addr := 1, port := 2 : MgmtReq }.session with | some h => decide ({ session := 7, reqId := 3, addr := 1, port := 2 : MgmtReq }.reqId ≤ h) | _ => false) = true) /- Instr.status 2000000000 { session := 7, reqId := 3, addr := 1, port := 2 : MgmtReq } -/ ∧
    ((off (se id) 69).sched.failed = false ∧ (off (se id) 69).sched.sampling = true ∧
      ownerSession (off (se id) 69) { session := 7, reqId := 3, addr := 1, port := 2 : MgmtReq }.session = true ∧
      (match alGet (off (se id) 69).sched.highest { session := 7, reqId := 3, addr := 1, port := 2 : MgmtReq }.session with | some h => decide (h < { session := 7, reqId := 3, addr := 1, port := 2 : MgmtReq }.reqId) | none => true) = true) /- Instr.status 2000000000 { session := 7, reqId := 3, addr := 1, port := 2 : MgmtReq } -/ ∧
    ((off (se id) 69).sched.failed = false ∧ (off (se id) 69).sched.sampling = true ∧
      ownerSession (off (se id) 69) { session := 7, reqId := 3, addr := 1, port := 2 : MgmtReq }.session = true ∧
      (match alGet (off (se id) 69).sched.highest { session := 7, reqId := 3, addr := 1, port := 2 : MgmtReq }.session with | some h => decide (h < { session := 7, reqId := 3, addr := 1, port := 2 : MgmtReq }.reqId) | none => true) = true ∧
      1 ≤ 1 ∧ 1 ≤ 40) /- Instr.logRead 2000000000 { session := 7, reqId := 3, addr := 1, port := 2 : MgmtReq } 0 1 -/ ∧
    ((off (se id) 69).sched.failed = false ∧ (off (se id) 69).sched.sampling = true ∧
      ownerSession (off (se id) 69) { session := 7, reqId := 3, addr := 1, port := 2 : MgmtReq }.session = true ∧
      (match alGet (off (se id) 69).sched.highest { session := 7, reqId := 3, addr := 1, port := 2 : MgmtReq }.session with | some h => decide (h < { session := 7, reqId := 3, addr := 1, port := 2 : MgmtReq }.reqId) | none => true) = true ∧
      1792 = 1792 + ↑0) /- Instr.traceSet 2000000000 { session := 7, reqId := 3, addr := 1, port := 2 : MgmtReq } 1792 6 -/ ∧
    ((off (se id) 69).sched.failed = false ∧ (off (se id) 69).sched.sampling = true ∧
      ownerSession (off (se id) 69) { session := 7, reqId := 3, addr := 1, port := 2 : MgmtReq }.session = true ∧
      (match alGet (off (se id) 69).sched.highest { session := 7, reqId := 3, addr := 1, port := 2 : MgmtReq }.session with | some h => decide (h < { session := 7, reqId := 3, addr := 1, port := 2 : MgmtReq }.reqId) | none => true) = true ∧
      1921 = 1920 + ↑1 ∧ clOn (off (se id) 69) 1 = true) /- Instr.traceSet 2000000000 { session := 7, reqId := 3, addr := 1, port := 2 : MgmtReq } 1921 6 -/ ∧
    ((off (se id) 69).sched.failed = false ∧ (off (se id) 69).sched.sampling = true ∧
      ownerSession (off (se id) 69) { session := 7, reqId := 3, addr := 1, port := 2 : MgmtReq }.session = true ∧
      (match alGet (off (se id) 69).sched.highest { session := 7, reqId := 3, addr := 1, port := 2 : MgmtReq }.session with | some h => decide (h < { session := 7, reqId := 3, addr := 1, port := 2 : MgmtReq }.reqId) | none => true) = true ∧
      0 = ↑0 ∧ 1 ≤ 1 ∧ 1 + 1 ≤ 96) /- Instr.cntRead 2000000000 { session := 7, reqId := 3, addr := 1, port := 2 : MgmtReq } 0 1 1 -/ ∧
    ((off (se id) 69).sched.failed = false ∧ (off (se id) 69).sched.sampling = true ∧
      ownerSession (off (se id) 69) { session := 7, reqId := 3, addr := 1, port := 2 : MgmtReq }.session = true ∧
      (match alGet (off (se id) 69).sched.highest { session := 7, reqId := 3, addr := 1, port := 2 : MgmtReq }.session with | some h => decide (h < { session := 7, reqId := 3, addr := 1, port := 2 : MgmtReq }.reqId) | none => true) = true ∧
      1 ≤ 4 ∧ 0 + 4 ≤ 96) /- Instr.cntRead 2000000000 { session := 7, reqId := 3, addr := 1, port := 2 : MgmtReq } 8 0 4 -/ ∧
    ((se id).sched.failed = false ∧ (se id).sched.sampling = true ∧
      ownerSession (se id) { session := 7, reqId := 3, addr := 1, port := 2 : MgmtReq }.session = true ∧
      (match alGet (se id).sched.highest { session := 7, reqId := 3, addr := 1, port := 2 : MgmtReq }.session with | some h => decide (h < { session := 7, reqId := 3, addr := 1, port := 2 : MgmtReq }.reqId) | none => true) = true ∧
      1 = ↑1 ∧ 1 ≤ 5 ∧ 5 ≤ 65535 ∧ mgOn (se id) 1 = true ∧ ((se id).mg 1).trained = true) /- Instr.mgmtSelftest 2000000000 { session := 7, reqId := 3, addr := 1, port := 2 : MgmtReq } 2 1 5 0 true 0 -/ ∧
    ((off (se id) 69).sched.failed = false ∧ (off (se id) 69).sched.sampling = true ∧
      ownerSession (off (se id) 69) { session := 7, reqId := 3, addr := 1, port := 2 : MgmtReq }.session = true ∧
      (match alGet (off (se id) 69).sched.highest { session := 7, reqId := 3, addr := 1, port := 2 : MgmtReq }.session with | some h => decide (h < { session := 7, reqId := 3, addr := 1, port := 2 : MgmtReq }.reqId) | none => true) = true ∧
      1 = ↑1 ∧ 1 ≤ 5 ∧ 5 ≤ 65535 ∧ mgOn (off (se id) 69) 1 = false) /- Instr.mgmtSelftest 2000000000 { session := 7, reqId := 3, addr := 1, port := 2 : MgmtReq } 2 1 5 0 true 0 -/ ∧
    ((runs (se id)).sched.failed = false ∧ (runs (se id)).sched.sampling = true ∧
      ownerSession (runs (se id)) { session := 7, reqId := 3, addr := 1, port := 2 : MgmtReq }.session = true ∧
      (match alGet (runs (se id)).sched.highest { session := 7, reqId := 3, addr := 1, port := 2 : MgmtReq }.session with | some h => decide (h < { session := 7, reqId := 3, addr := 1, port := 2 : MgmtReq }.reqId) | none => true) = true ∧
      1 = ↑1 ∧ 1 ≤ 5 ∧ 5 ≤ 65535 ∧
      (match claimOf (runs (se id)) 1 with | some (p, l) => decide (((runs (se id)).slot p).st = PState.running) | _ => false) = true) /- Instr.mgmtSelftest 2000000000 { session := 7, reqId := 3, addr := 1, port := 2 : MgmtReq } 1 1 5 0 true 0 -/ ∧
    ((off (se id) 69).sched.failed = false ∧ (off (se id) 69).sched.sampling = true ∧
      ownerSession (off (se id) 69) { session := 7, reqId := 3, addr := 1, port := 2 : MgmtReq }.session = true ∧
      (match alGet (off (se id) 69).sched.highest { session := 7, reqId := 3, addr := 1, port := 2 : MgmtReq }.session with | some h => decide (h < { session := 7, reqId := 3, addr := 1, port := 2 : MgmtReq }.reqId) | none => true) = true ∧
      (off (se id) 69).sched.fwTotal = none ∧ 0 ≤ 4194304) /- Instr.fwBegin 2000000000 { session := 7, reqId := 3, addr := 1, port := 2 : MgmtReq } 0 -/ ∧
    ((pick ss 6).sched.failed = false ∧ (pick ss 6).sched.sampling = true ∧
      ownerSession (pick ss 6) { session := 7, reqId := 3, addr := 1, port := 2 : MgmtReq }.session = true ∧
      (match alGet (pick ss 6).sched.highest { session := 7, reqId := 3, addr := 1, port := 2 : MgmtReq }.session with | some h => decide (h < { session := 7, reqId := 3, addr := 1, port := 2 : MgmtReq }.reqId) | none => true) = true ∧
      (pick ss 6).sched.fwCommit = false ∧ [1, 2, 3].length ≤ 1024 ∧
      (match (pick ss 6).sched.fwTotal with | some n => decide (0 + [1, 2, 3].length ≤ n) | _ => false) = true) /- Instr.fwData 2000000000 { session := 7, reqId := 3, addr := 1, port := 2 : MgmtReq } 0 [1, 2, 3] -/ ∧
    ((pick ss 6).sched.failed = false ∧ (pick ss 6).sched.sampling = true ∧
      ownerSession (pick ss 6) { session := 7, reqId := 3, addr := 1, port := 2 : MgmtReq }.session = true ∧
      (match alGet (pick ss 6).sched.highest { session := 7, reqId := 3, addr := 1, port := 2 : MgmtReq }.session with | some h => decide (h < { session := 7, reqId := 3, addr := 1, port := 2 : MgmtReq }.reqId) | none => true) = true ∧
      (pick ss 6).sched.fwCommit = false ∧
      (match (pick ss 6).sched.fwTotal with | some n => decide (bundleCheck (staged (pick ss 6) n) { ecdsaOk := true, hssOk := true : SigVerdict } (fwFloor (pick ss 6)) ≠ 0) | _ => false) = true) /- Instr.fwCommit 2000000000 { session := 7, reqId := 3, addr := 1, port := 2 : MgmtReq } { ecdsaOk := true, hssOk := true : SigVerdict } -/ ∧
    ((pick ss 6).sched.failed = false ∧ (pick ss 6).sched.sampling = true ∧
      ownerSession (pick ss 6) { session := 7, reqId := 3, addr := 1, port := 2 : MgmtReq }.session = true ∧
      (match alGet (pick ss 6).sched.highest { session := 7, reqId := 3, addr := 1, port := 2 : MgmtReq }.session with | some h => decide (h < { session := 7, reqId := 3, addr := 1, port := 2 : MgmtReq }.reqId) | none => true) = true ∧
      (pick ss 6).sched.fwCommit = false ∧ (match (pick ss 6).sched.fwTotal with | some n => true | _ => false) = true) /- Instr.fwAbort 2000000000 { session := 7, reqId := 3, addr := 1, port := 2 : MgmtReq } -/ ∧
    ((off (se id) 69).sched.failed = false ∧ (off (se id) 69).sched.sampling = true ∧
      ownerSession (off (se id) 69) { session := 7, reqId := 3, addr := 1, port := 2 : MgmtReq }.session = true ∧
      (match alGet (off (se id) 69).sched.highest { session := 7, reqId := 3, addr := 1, port := 2 : MgmtReq }.session with | some h => decide (h < { session := 7, reqId := 3, addr := 1, port := 2 : MgmtReq }.reqId) | none => true) = true ∧
      1921 = 1920 + ↑1) /- Instr.procRestart 2000000000 { session := 7, reqId := 3, addr := 1, port := 2 : MgmtReq } 1921 true -/ ∧
    ((off (se id) 69).sched.failed = false ∧ (off (se id) 69).sched.sampling = true ∧
      ownerSession (off (se id) 69) { session := 7, reqId := 3, addr := 1, port := 2 : MgmtReq }.session = true ∧
      (match alGet (off (se id) 69).sched.highest { session := 7, reqId := 3, addr := 1, port := 2 : MgmtReq }.session with | some h => decide (h < { session := 7, reqId := 3, addr := 1, port := 2 : MgmtReq }.reqId) | none => true) = true ∧
      (restartSched { pending := (tick 2000000000 (off (se id) 69)).pending, now := (tick 2000000000 (off (se id) 69)).now, free := (tick 2000000000 (off (se id) 69)).free, out := (tick 2000000000 (off (se id) 69)).out, low := (tick 2000000000 (off (se id) 69)).low, clk := (tick 2000000000 (off (se id) 69)).clk, pwr := (tick 2000000000 (off (se id) 69)).pwr, boot := (tick 2000000000 (off (se id) 69)).boot, net := (tick 2000000000 (off (se id) 69)).net, sched := { failed := (off (se id) 69).sched.failed, sampling := (off (se id) 69).sched.sampling, wdogSch := (off (se id) 69).sched.wdogSch, wdogCl := (off (se id) 69).sched.wdogCl, restarts := (off (se id) 69).sched.restarts, clfail := (off (se id) 69).sched.clfail, schAt := (off (se id) 69).sched.schAt, schCount := (off (se id) 69).sched.schCount, restartAt := (off (se id) 69).sched.restartAt, masks := (off (se id) 69).sched.masks, fwTotal := (off (se id) 69).sched.fwTotal, fwCommit := (off (se id) 69).sched.fwCommit, pendSch := (off (se id) 69).sched.pendSch, pendCl := (off (se id) 69).sched.pendCl, cache := (off (se id) 69).sched.cache, replies := (off (se id) 69).sched.replies, highest := alPut (off (se id) 69).sched.highest { session := 7, reqId := 3, addr := 1, port := 2 : MgmtReq }.session (some { session := 7, reqId := 3, addr := 1, port := 2 : MgmtReq }.reqId), job := (off (se id) 69).sched.job, code := (off (se id) 69).sched.code, accepted := (off (se id) 69).sched.accepted : Sched }, sec := (tick 2000000000 (off (se id) 69)).sec, mem := (tick 2000000000 (off (se id) 69)).mem, clusters := (tick 2000000000 (off (se id) 69)).clusters, spines := (tick 2000000000 (off (se id) 69)).spines, ctl := (tick 2000000000 (off (se id) 69)).ctl, log := (tick 2000000000 (off (se id) 69)).log, ports := (tick 2000000000 (off (se id) 69)).ports, links := (tick 2000000000 (off (se id) 69)).links, cols := (tick 2000000000 (off (se id) 69)).cols, ues := (tick 2000000000 (off (se id) 69)).ues, slots := (tick 2000000000 (off (se id) 69)).slots, gbank := (tick 2000000000 (off (se id) 69)).gbank, meter := (tick 2000000000 (off (se id) 69)).meter : State } false).sched.failed = false) /- Instr.procRestart 2000000000 { session := 7, reqId := 3, addr := 1, port := 2 : MgmtReq } 1794 false -/ := by
  refine ⟨?_, ?_, ?_, ?_, ?_, ?_, ?_, ?_, ?_, ?_, ?_, ?_, ?_, ?_, ?_, ?_, ?_, ?_⟩ <;> decide +kernel
end M

end Requests

namespace Processors

namespace P
def sc (f : Sched → Sched) (s : State := up) : State := { s with sched := f s.sched }
def core (f : ClCore → ClCore) (s : State := up) : State := setC s 0 (fun k => { k with core := f k.core })
def un (s : State) : State := { s with slots := Vector.replicate 8 Slot.reset }
def recent : List Nat := [1999999999, 1999999998]
def ss : List State := [up, un up, sc (fun c => { c with failed := true }), sc (fun c => { c with schAt := recent }), core (fun c => { c with restarts := recent }), un (core (fun c => { c with restarts := recent })), core (fun c => { c with failed := true }),
  sc (fun c => { c with pendSch := true, fwTotal := some 64, fwCommit := true }), sc (fun c => { c with pendSch := true })]

theorem wit_ProcessorsRestart :
    ((pick ss 2).sched.failed = true) ∧
    (up.sched.failed = false ∧ (recentRestarts (tick 2000000000 up) up.sched.schAt).length < 3) ∧
    (up.sched.failed = false ∧ (3 ≤ (recentRestarts (tick 2000000000 up) up.sched.schAt).length ∨ true = true)) ∧
    (((un up).cl 0).core.failed = false ∧ clOn (un up) 0 = true ∧ (un up).sched.fwCommit = false ∧
      ((decide (3 ≤ (recentRestarts (tick 2000000000 (un up)) ((un up).cl 0).core.restarts).length) || true) = false ∨ claimOf (un up) 0 = none)) ∧
    ((((pick ss 6).cl 0).core.failed = true ∨ clOn (pick ss 6) 0 = false)) ∧
    (up.sched.pendSch = false) ∧
    ((pick ss 7).sched.pendSch = true ∧ (pick ss 7).sched.job = none ∧ schedUp (tick 2000000000 (pick ss 7)) = true ∧
      (∀ (p : Fin 8), ((pick ss 7).slot p).run = none) ∧ (pick ss 7).sched.pendCl = [] ∧
      (recentRestarts (tick 2000000000 (pick ss 7)) (pick ss 7).sched.schAt).length < 3) := by
  refine ⟨?_, ?_, ?_, ?_, ?_, ?_, ?_⟩ <;> decide +kernel
end P

end Processors

namespace Hints

namespace H
def kw (f : KatWait → KatWait) : KatWait := f { ticket := some 8, mgmt := none, target := 0, cluster := 0, deadline := 5, allow := false, token := none, ready := false }
def ent (kind : Nat) : Bytes := bytes 24 [(0, [BitVec.ofNat 8 kind]), (4, natLe 4 5), (8, natLe 8 3)]
def withW (s : State) : State := setS s 0 (fun x => { x with hints := [0, 1, 2], img := x.img.map (fun i => { i with wake := ent 2 ++ ent 3 ++ ent 4 }) })
def base (k : List KatWait) : State := q up [tk 8 6 [] true] (fun x => { pst .running (some (rn .inStep)) x with kat := k })
def ss : List State := [base [kw id], base [kw (fun k => { k with ready := true })], withW (base []), off (withW (base [])) 1, off (withW (base [kw id])) 1, setC (withW (base [])) 0 (fun k => { k with seq := { k.seq with mode := .done } }), { base [kw id] with slots := Vector.replicate 8 Slot.reset }]
def im : List Img := (((withW (base [])).slot 0).img).toList

theorem wit_TestsAndHintsAct :
    (schedUp (tick 2000000000 (pick ss 1)) = true ∧ claimOf (pick ss 1) 0 = some (0, 0) ∧ ((pick ss 1).slot 0).twin.kats = none ∧
      (match List.find? (fun x => x.ready && x.cluster == 0) ((pick ss 1).slot 0).kat with | some w => (match w.ticket with | some m => (match findTicket (pick ss 1) 0 m with | some k => true | _ => false) | _ => false) | _ => false) = true) ∧
    (claimOf (pick ss 6) 0 = none) ∧
    (serving (base [kw id]) = true ∧
      (match List.find? (fun x => !x.ready && x.token.isNone && decide (x.deadline < max (base [kw id]).now 2000000000)) ((base [kw id]).slot 0).kat with | some w => decide (claimOf (base [kw id]) w.cluster = some (0, 0) ∧ (match w.ticket with | some m => (match findTicket (base [kw id]) 0 m with | some k => true | _ => false) | _ => false) = true) | _ => false) = true) ∧
    (hintDue (withW (base [])) 0 2 4 = some (ent 4) ∧ ((withW (base [])).slot 0).img = some (pickM im 0) ∧ ((withW (base [])).slot 0).kat = []) ∧
    (hintDue (withW (base [])) 0 0 2 = some (ent 2)) ∧
    (hintDue (withW (base [])) 0 1 3 = some (ent 3) ∧
      (∀ (d : Fin 64), d ∈ wakeTargets (withW (base [])) 0 (ent 3) → clOn (withW (base [])) d = true → (((withW (base [])).cl d).seq.mode = SeqMode.done ∨ ((withW (base [])).cl d).seq.mode = SeqMode.idle) ∧ idleUnits ((withW (base [])).cl d) = true ∧ ((withW (base [])).cl d).seq.sigOut = [])) ∧
    (hintDue (base [kw id]) 0 2000000000 2 = none) ∧
    (hintDue (base [kw id]) 0 2000000000 3 = none) ∧
    (hintDue (base [kw id]) 0 2000000000 4 = none) := by
  refine ⟨?_, ?_, ?_, ?_, ?_, ?_, ?_, ?_, ?_⟩ <;> decide +kernel
end H

end Hints

namespace TwinMail

namespace W
def b (f : Slot → Slot) : State := ports (q up [tk 9 1 [] true] f)
def cks (x : Slot) : Slot := { x with ck := { x.ck with mems := [(0x50000, 4, true)] } }
def ss : List State := [up, b id, b (w (fun t => { t with st := .paired, own := [(5, 7)], theirs := [(3, 7)], pairStep := some 1, v := 4 })), b (w (fun t => { t with st := .solo }) ∘ pst .running (some (rn .inStep))), b (w (fun t => { t with j := some 5 })),
  b (w (fun t => { t with j := some 7 })), b (w (fun t => { t with gen := 5, recov := true, target := some 5 })), b (cks ∘ pst .running (some (rn .inStep))), b (w (fun t => { t with gen := 5 }) ∘ cks ∘ pst .running (some (rn .inStep)))]

theorem wit_TwinMessagesAct :
    (onTwin up 0 0 = false ∧ (match (up.slot 0).img with | some i => true | _ => false) = true) ∧
    (onTwin (b id) 1 0 = true ∧ ((b id).slot 0).twin.st = TwinSt.unpaired ∧ (match ((b id).slot 0).img with | some i => true | _ => false) = true) ∧
    (onTwin (b id) 1 0 = true ∧ ((b id).slot 0).twin.st = TwinSt.unpaired ∧
      (match ((b id).slot 0).img with | some i => decide (List.replicate 48 1 ≠ i.finger) | _ => false) = true) ∧
    (onTwin (pick ss 2) 1 0 = true ∧ ((pick ss 2).slot 0).twin.st = TwinSt.paired ∧ (digestOf ((pick ss 2).slot 0).twin.theirs 3).isSome = true ∧
      (match ((pick ss 2).slot 0).img with | some i => true | _ => false) = true) ∧
    (onTwin (pick ss 2) 1 0 = true ∧ ((pick ss 2).slot 0).twin.st = TwinSt.paired ∧ digestOf ((pick ss 2).slot 0).twin.theirs 2000000000 = none ∧
      digestOf ((pick ss 2).slot 0).twin.own 2000000000 = none ∧ (match ((pick ss 2).slot 0).img with | some i => true | _ => false) = true) ∧
    (onTwin (pick ss 2) 1 0 = true ∧ ((pick ss 2).slot 0).twin.st = TwinSt.paired ∧ digestOf ((pick ss 2).slot 0).twin.theirs 5 = none ∧
      (match ((pick ss 2).slot 0).img with | some i => (match digestOf ((pick ss 2).slot 0).twin.own 5 with | some d => decide (d ≠ 8) | _ => false) | _ => false) = true) ∧
    (onTwin (pick ss 2) 1 0 = true ∧ ((pick ss 2).slot 0).twin.st = TwinSt.paired ∧ digestOf ((pick ss 2).slot 0).twin.theirs 5 = none ∧
      digestOf ((pick ss 2).slot 0).twin.own 5 = some 7 ∧ ((pick ss 2).slot 0).twin.pairStep ≠ none ∧
      (match ((pick ss 2).slot 0).img with | some i => true | _ => false) = true) ∧
    (onTwin (pick ss 2) 1 0 = true ∧ ((pick ss 2).slot 0).twin.st = TwinSt.paired ∧
      (Instr.parked 2000000000 1 0 = Instr.parked 2000000000 1 0 ∨ Instr.parked 2000000000 1 0 = Instr.fenced 2000000000 1 0) ∧
      (match ((pick ss 2).slot 0).img with | some i => true | _ => false) = true) ∧
    (onTwin (pick ss 3) 1 0 = true ∧ ((pick ss 3).slot 0).twin.st = TwinSt.solo ∧ standingJ (pick ss 3) 0 = none ∧
      (match ((pick ss 3).slot 0).img with | some i => (match ((pick ss 3).slot 0).run with | some r => true | _ => false) | _ => false) = true) ∧
    ((heardOn (pick ss 4) 0 0 fun r => r == 1 || r == 4) = true ∧
      (match standingJ (pick ss 4) 0 with | some x => decide (x ≤ 2000000000) | none => false) = true ∧
      (match ((pick ss 4).slot 0).img with | some i => true | _ => false) = true) ∧
    ((heardOn (b id) 0 0 fun r => r == 1 || r == 4) = true ∧ (match standingJ (b id) 0 with | some x => decide (2000000000 < x) | none => true) = true ∧
      (match ((b id).slot 0).img with | some i => true | _ => false) = true) ∧
    ((heardOn (pick ss 6) 0 0 fun r => r != 0) = true ∧ 3 < ((pick ss 6).slot 0).twin.gen ∧
      (match ((pick ss 6).slot 0).img with | some i => true | _ => false) = true) ∧
    ((heardOn (b id) 0 0 fun r => r != 0) = true ∧ ((b id).slot 0).twin.gen < 2000000000 ∧ ((b id).slot 0).run = none ∧
      (match ((b id).slot 0).img with | some i => true | _ => false) = true) ∧
    ((heardOn (b (cks ∘ pst PState.running (some (rn Stage.inStep)))) 0 0 fun r => r != 0) = true ∧
      ((b (cks ∘ pst PState.running (some (rn Stage.inStep)))).slot 0).twin.gen < 2000000000 ∧
      (match ((b (cks ∘ pst PState.running (some (rn Stage.inStep)))).slot 0).img with | some i => (match ((b (cks ∘ pst PState.running (some (rn Stage.inStep)))).slot 0).run with | some x => decide (x.stage = Stage.inStep ∧ (match newestBelow (b (cks ∘ pst PState.running (some (rn Stage.inStep)))) 0 2000000000 with | some n => true | _ => false) = true) | _ => false) | _ => false) = true) ∧
    ((heardOn (pick ss 6) 0 0 fun r => r != 0) = true ∧ 5 = ((pick ss 6).slot 0).twin.gen ∧ ((pick ss 6).slot 0).twin.recov = true ∧
      (match ((pick ss 6).slot 0).img with | some i => (match ((pick ss 6).slot 0).twin.target with | some x => decide (3 < x) | _ => false) | _ => false) = true) := by
  refine ⟨?_, ?_, ?_, ?_, ?_, ?_, ?_, ?_, ?_, ?_, ?_, ?_, ?_, ?_, ?_⟩ <;> decide +kernel
end W

end TwinMail

namespace Twins

namespace W
def ss : List State := [b id, b (w (fun t => { t with st := .paired, pairStep := some 1, v := 1 }) ∘ rr 5), b (w (fun t => { t with st := .fenced })), ports (b (w (fun t => { t with st := .fenced }))) 1, ports (b id) 1,
  b (w (fun t => { t with st := .rebuild, j := some 4 }) ∘ rr 5), b (w (fun t => { t with st := .waitRejoin })), b (w (fun t => { t with st := .waitRejoin }) ∘ rr 5)]

theorem wit_TwinsPartAndRejoin :
    (((b id).slot 0).twin.st ≠ TwinSt.paired ∧ (match ((b id).slot 0).img with | some i => true | _ => false) = true) ∧
    (((pick ss 1).slot 0).twin.st = TwinSt.paired ∧ schedUp (tick T0 (pick ss 1)) = true ∧
      (match ((pick ss 1).slot 0).img with | some i => (match ((pick ss 1).slot 0).run with | some r => decide (r.stage = Stage.atB5 ∧ twinLets ((pick ss 1).slot 0).twin r.step = false ∧ r.dueAt + ((pick ss 1).slot 0).twin.silence.toNat * 1000000 ≤ max (pick ss 1).now T0) | _ => false) | _ => false) = true) ∧
    (twinned (pick ss 3) 0 = true ∧ schedUp (tick T0 (pick ss 3)) = true ∧ ((pick ss 3).slot 0).run = none ∧
      (((pick ss 3).slot 0).twin.st = TwinSt.fenced ∨ ((pick ss 3).slot 0).twin.st = TwinSt.unpaired) ∧
      ((ringPorts (pick ss 3) 0).any fun q => ((pick ss 3).port q).state != 3) = true ∧
      (match ((pick ss 3).slot 0).img with | some i => true | _ => false) = true) ∧
    (twinned (b id) 0 = true ∧ schedUp (tick T0 (b id)) = true ∧ ((b id).slot 0).run = none ∧
      (((b id).slot 0).twin.st = TwinSt.fenced ∨ ((b id).slot 0).twin.st = TwinSt.unpaired) ∧
      ((ringPorts (b id) 0).all fun q => ((b id).port q).state == 3) = true ∧ (match ((b id).slot 0).img with | some i => true | _ => false) = true) ∧
    (((pick ss 5).slot 0).twin.st = TwinSt.rebuild ∧ schedUp (tick T0 (pick ss 5)) = true ∧
      (match ((pick ss 5).slot 0).img with | some i => (match ((pick ss 5).slot 0).run with | some r => decide (r.stage = Stage.atB5 ∧ (match ((pick ss 5).slot 0).twin.j with | some j => decide (r.step = j + 1) | _ => false) = true) | _ => false) | _ => false) = true) ∧
    (((pick ss 6).slot 0).twin.st = TwinSt.waitRejoin ∧ schedUp (tick T0 (pick ss 6)) = true ∧ ((pick ss 6).slot 0).run = none ∧
      fieldU good.bytes 0 4 = 1262704971 ∧ noneRuns (pick ss 6) 0 = true ∧
      (match ((pick ss 6).slot 0).img with | some i => decide (fieldU good.bytes 16 8 = shardSize i ∧ 4096 + shardSize i ≤ List.length good.bytes) | _ => false) = true) ∧
    (((pick ss 7).slot 0).twin.st = TwinSt.waitRejoin ∧ schedUp (tick T0 (pick ss 7)) = true ∧ fieldU good.bytes 0 4 = 1262704971 ∧
      (match ((pick ss 7).slot 0).img with | some i => decide (fieldU good.bytes 16 8 = shardSize i ∧ 4096 + shardSize i ≤ List.length good.bytes ∧ (match ((pick ss 7).slot 0).run with | some r => true | _ => false) = true) | _ => false) = true) := by
  refine ⟨?_, ?_, ?_, ?_, ?_, ?_, ?_⟩ <;> decide +kernel
end W

end Twins

namespace Checkpoints
def bs : List Bool := [true, false]

namespace W
def buddy (x : Slot) : Slot := ck (fun c => { c with hosted := true, asked := true, slots := vset c.slots 0 (some { step := 4, complete := true, agreed := true, solo := false }) }) x
def rec (st : Bool) : Slot → Slot := w (fun t => { t with recov := true, stopped := st, target := some 4, r := 6 }) ∘ rr 5
def tw : Slot → Slot := w (fun t => { t with target := some 4 }) ∘ rr 5
def stream (x : Slot) : Slot := ck (fun c => { c with stream := some { ticket := some 8, memory := some 0x80000, slot := 0, step := 4, shard := shard } }) x
def bs : List State := [b id, q (ports (b (stream ∘ rr 5))) [tk 8 5 [] true, tk 9 1 [] true], b tw, b (rec true), b (rec true ∘ buddy)]

theorem length_header (i : Img) (p : Fin 8) (f n : Nat) (x : Bytes) (h : (sha384 x).length = 48) : (ckptHeader i p f n x).length = 4096 := by
  simp only [ckptHeader, List.length_append, length_natLe, length_sliceB, h, zeroB, List.length_replicate]
theorem length_good : good.bytes.length = 4425 := by
  have k : shard.bytes.length = 329 := List.length_replicate
  have e : good.bytes = ckptHeader img3 0 3 4 shard.bytes ++ shard.bytes := rfl
  rw [e, List.length_append, length_header _ _ _ _ _ (by decide +kernel), k]
theorem good_usable : ckptUsable img3 0 good.bytes = true := by
  unfold ckptUsable
  rw [length_good]
  decide +kernel
theorem target_of {s : State} {p : Fin 8} {i : Img} {n : Nat} {x : Marked}
    (h1 : ((s.slot p).ck.slots.toList.filterMap id).any (fun y => y.complete && y.agreed && y.step == n) = true)
    (h2 : ckptUsable i p x.bytes = true) (h3 : (fieldU x.bytes 8 4 == n) = true) : targetBytes s p i n (some x) = some x := by
  delta targetBytes
  dsimp only
  rw [h1]
  simp [h2, h3]
theorem wit_CheckpointsCloseAndRestore_copy :
    (((b (rec true ∘ buddy)).slot 0).twin.recov = true ∧ (b (rec true ∘ buddy)).sched.failed = false ∧
      ((b (rec true ∘ buddy)).slot 0).twin.stopped = true ∧ ((b (rec true ∘ buddy)).slot 0).twin.changed + 10000000 ≤ max (b (rec true ∘ buddy)).now T0 ∧
      ((b (rec true ∘ buddy)).slot 0).img = some img3 ∧ lostGroups (b (rec true ∘ buddy)) img3 = [] ∧
      ((pkgGroups (claimPkgs img3.part)).all fun g => mgOn (b (rec true ∘ buddy)) g && ((b (rec true ∘ buddy)).mg g).trained) = true ∧
      ((b (rec true ∘ buddy)).slot 0).run = some { rn .atB5 with step := 5 } ∧ ((b (rec true ∘ buddy)).slot 0).twin.target = some 4) ∧
    targetBytes (b (rec true ∘ buddy)) 0 img3 4 (some good) = some good := by
  refine ⟨by decide +kernel, target_of ?_ good_usable ?_⟩ <;> decide +kernel

theorem wit_CheckpointsCloseAndRestore :
    (((b id).port 2).state = 3 ∧ roleOf (b id) 0 2 ≠ 0 ∧ (b id).sched.failed = false ∧ buddyPort (b id) 0 = some 2 ∧ ((b id).slot 0).ck.asked = false ∧
      (match ((b id).slot 0).img with | some i => true | _ => false) = true) ∧
    (((b id).port 0).state = 3 ∧ roleOf (b id) 0 0 ≠ 0 ∧ (b id).sched.failed = false ∧
      (match ((b id).slot 0).img with | some i => decide (regionRefused (b id) 0 i (partSize (b id) 0 - 2 * roundMiB T0) (2 * roundMiB T0) = false) | _ => false) = true) ∧
    (((b id).port 0).state = 3 ∧ roleOf (b id) 0 0 ≠ 0 ∧ (b id).sched.failed = false ∧
      (match ((b id).slot 0).img with | some i => decide (regionRefused (b id) 0 i (partSize (b id) 0 - 2 * roundMiB (2 ^ 40)) (2 * roundMiB (2 ^ 40)) = true) | _ => false) = true) ∧
    (schedUp (tick T0 (pick bs 1)) = true ∧ ((pick bs 1).slot 0).twin.st = TwinSt.unpaired ∧
      (match ((pick bs 1).slot 0).img with | some i => (match ((pick bs 1).slot 0).ck.stream with | some x => (match x.memory with | some a => (match x.ticket with | some n => (match findTicket (pick bs 1) 0 n with | some k => true | _ => false) | _ => false) | _ => false) | _ => false) | _ => false) = true) ∧
    (((b id).slot 0).ck.stream = none ∧ (match ((b id).slot 0).img with | some i => true | _ => false) = true) ∧
    ((((b tw).slot 0).twin.recov = false ∨ max (b tw).now T0 < ((b tw).slot 0).twin.changed + 10000000) ∧
      (match ((b tw).slot 0).img with | some i => (match ((b tw).slot 0).run with | some r => (match ((b tw).slot 0).twin.target with | some tgt => true | _ => false) | _ => false) | _ => false) = true) ∧
    (((b (rec true)).slot 0).twin.recov = true ∧ schedUp (tick T0 (b (rec true))) = true ∧ ((b (rec true)).slot 0).twin.stopped = true ∧
      ((b (rec true)).slot 0).twin.changed + 10000000 ≤ max (b (rec true)).now T0 ∧
      (match ((b (rec true)).slot 0).img with | some i => decide (lostGroups (b (rec true)) i = [] ∧ ((pkgGroups (claimPkgs i.part)).all fun g => mgOn (b (rec true)) g && ((b (rec true)).mg g).trained) = true ∧ (match ((b (rec true)).slot 0).run with | some r => (match ((b (rec true)).slot 0).twin.target with | some tgt => decide (targetBytes (b (rec true)) 0 i tgt none = none) | _ => false) | _ => false) = true) | _ => false) = true) := by
  refine ⟨?_, ?_, ?_, ?_, ?_, ?_, ?_⟩ <;> decide +kernel
end W

namespace V
open W

theorem wit_NoCheckpointFailsTheRun :
    ((b (rr 5)).boot.stage ≠ 0 ∧ (heardOn (b (rr 5)) 0 0 fun x => x != 0) = true ∧ ((b (rr 5)).slot 0).twin.gen < T0 ∧
      newestBelow (b (rr 5)) 0 T0 = none ∧ ((b (rr 5)).slot 0).twin.recov = false ∧
      (match ((b (rr 5)).slot 0).img with | some i => (match ((b (rr 5)).slot 0).run with | some r => (match findTicket (b (rr 5)) 0 r.num with | some k => true | _ => false) | _ => false) | _ => false) = true) ∧
    ((b (rec true)).boot.stage ≠ 0 ∧ ((b (rec true)).slot 0).twin.recov = true ∧ schedUp (tick T0 (b (rec true))) = true ∧
      ((b (rec true)).slot 0).twin.stopped = true ∧ ((b (rec true)).slot 0).twin.changed + 10000000 ≤ max (b (rec true)).now T0 ∧
      (match ((b (rec true)).slot 0).img with | some i => decide (lostGroups (b (rec true)) i = [] ∧ ((pkgGroups (claimPkgs i.part)).all fun g => mgOn (b (rec true)) g && ((b (rec true)).mg g).trained) = true ∧ (match ((b (rec true)).slot 0).run with | some r => (match findTicket (b (rec true)) 0 r.num with | some k => (match ((b (rec true)).slot 0).twin.target with | some x => decide (targetBytes (b (rec true)) 0 i x none = none) | _ => false) | _ => false) | _ => false) = true) | _ => false) = true) := by
  refine ⟨?_, ?_⟩ <;> decide +kernel
end V

end Checkpoints

namespace Power

namespace W
def kc (f : Clk → Clk) (s : State := up) : State := { s with clk := f s.clk }
def pk (f : Pwr → Pwr) (s : State := up) : State := { s with pwr := f s.pwr }
def lim : Img := { img3 with links := patchB img3.links 21 (natLe 1 3) }
def refs : State := ports (setS (kc (fun k => { k with readyL := true, readyP := true, readyA := true, src := Vector.replicate 4 1, auto := false })) 0 (fun x => { x with img := some lim }))
def allOff (s : State) : State := (List.range 66).foldl (fun t i => off t i) s
def ss : List State := [refs, refs, kc (fun k => { k with switching := some (.arr, 0) }) refs, kc (fun k => { k with switching := some (.ctl, 2) }) refs, kc (fun k => { k with switching := some (.fab, 0) }) refs, kc (fun k => { k with switching := some (.app, 0) }) refs,
  kc (fun k => { k with auto := true, holdover := Vector.replicate 4 true }) refs, kc (fun k => { k with readyP := false }) refs,
  pk (fun p => { p with idleAt := Vector.replicate 2 (some 1000) }), allOff (pk (fun p => { p with idleAt := Vector.replicate 2 (some 1000) }))]

theorem wit_ClocksSwitch :
    ((clkWriter Requester.sched = false ∨ refs.clk.src.get (clockIdx Clock.arr) = 0)) /- (Instr.clkSelArr T0 Requester.sched 0, Clock.arr) -/ ∧
    (clkWriter (Requester.app 1) = true ∧ refs.clk.src.get (clockIdx Clock.arr) ≠ 0 ∧ refs.clk.switching = none ∧ refReady refs 0 = true) /- (Instr.clkSelArr T0 (Requester.app 1) 0, Clock.arr) -/ ∧
    (clkWriter (Requester.app 1) = true ∧ (pick ss 2).clk.src.get (clockIdx Clock.arr) ≠ 0 ∧
      ((pick ss 2).clk.switching ≠ none ∨ refReady (pick ss 2) 0 = false)) /- (Instr.clkSelArr T0 (Requester.app 1) 0, Clock.arr) -/ ∧
    ((pick ss 2).clk.switching = some (Clock.arr, 0) ∧ refReady (pick ss 2) 0 = true ∧ (pick ss 2).clk.auto = false) /- (Instr.clkSelArr T0 Requester.sched 0, Clock.arr) -/ ∧
    ((match refs.clk.switching with | some x => decide (x.fst ≠ Clock.arr) | none => true) = true) /- (Instr.clkSelArr T0 Requester.sched 0, Clock.arr) -/ ∧
    ((pick ss 7).clk.readyP = false) /- (Instr.clkSelArr T0 Requester.sched 0, Clock.arr) -/ ∧
    (refs.clk.readyP = true ∧ refs.clk.auto = false ∧ refs.clk.switching = none) /- (Instr.clkSelArr T0 Requester.sched 0, Clock.arr) -/ ∧
    ((refs.clk.auto = false ∨ refs.clk.switching ≠ none)) /- (Instr.clkSelArr T0 Requester.sched 0, Clock.arr) -/ ∧
    ((pick ss 6).clk.auto = true ∧ (pick ss 6).clk.switching = none ∧ (pick ss 6).clk.holdover.get 2 = true ∧ (pick ss 6).clk.src.get 2 = 1 ∧
      refReady (pick ss 6) 2 = true) /- (Instr.clkSelArr T0 Requester.sched 0, Clock.arr) -/ ∧
    ((match (pick ss 8).pwr.idleAt.get 0 with | some x => decide ((dieBusy (pick ss 8) 0 = true ∨ max (pick ss 8).now T0 < x + 1000000)) | _ => false) = true) /- (Instr.clkSelArr T0 Requester.sched 0, Clock.arr) -/ ∧
    (dieBusy (pick ss 9) 0 = false ∧
      (match (pick ss 9).pwr.idleAt.get 0 with | some x => decide (x + 1000000 ≤ max (pick ss 9).now T0) | _ => false) = true) /- (Instr.clkSelArr T0 Requester.sched 0, Clock.arr) -/ := by
  refine ⟨?_, ?_, ?_, ?_, ?_, ?_, ?_, ?_, ?_, ?_, ?_⟩ <;> decide +kernel
end W

namespace D
open W
def wa (i : Nat) (s : State := up) : State := pk (fun p => { p with want := setDom p.want i true }) (off s i)
def ss : List State := [up, off (wa 0) 64, wa 0, wa 1 (setS up 0 (fun _ => Slot.reset)), kc (fun k => { k with cool := some 3 }) (wa 0), pk (fun p => { p with starts := List.replicate 8 (T0 - 1) }) (wa 0), wa 0 (setS up 0 (fun _ => Slot.reset)),
  wa 88, wa 89, wa 90, wa 95, off up 89, pk (fun p => { p with scopes := [2], hwActive := true }) (wa 0 (setS up 0 (fun _ => Slot.reset)))]

theorem wit_DomainsPowerUpAndDown :
    ((domOn up ↑0 = true ∨ up.pwr.want.getLsbD ↑0 = false)) ∧
    (limitedDom ↑0 = true ∧ ((pick ss 4).clk.cool = some 3 ∨ 8 ≤ (recentStarts (tick T0 (pick ss 4))).length)) ∧
    (spOn (off (wa 0) 64) (clDie 0) = false) ∧
    (clOn (wa 0 (setS up 0 fun x => Slot.reset)) 0 = false ∧ (wa 0 (setS up 0 fun x => Slot.reset)).pwr.want.getLsbD ↑0 = true ∧
      (wa 0 (setS up 0 fun x => Slot.reset)).clk.cool ≠ some 3 ∧ (recentStarts (tick T0 (wa 0 (setS up 0 fun x => Slot.reset)))).length < 8 ∧
      spOn (wa 0 (setS up 0 fun x => Slot.reset)) (clDie 0) = true ∧ claimOf (wa 0 (setS up 0 fun x => Slot.reset)) 0 = none) ∧
    (88 ≤ ↑88 ∧ domOn (wa 88) ↑88 = false ∧ (wa 88).pwr.want.getLsbD ↑88 = true) ∧
    (clkWriter Requester.sched = false) ∧
    (clkWriter (Requester.app 1) = true ∧ domOn (wa 89) 89 = false) ∧
    (clkWriter (Requester.app 1) = true ∧ domOn up 89 = true) := by
  refine ⟨?_, ?_, ?_, ?_, ?_, ?_, ?_, ?_⟩ <;> decide +kernel
end D

namespace PH
open W

theorem wit_PowerAndHeatFreezeClusters :
    (up.pwr.held = [] ∧ up.pwr.hot = [] ∧ 1000000 ≤ capMw up) ∧
    ((List.filter (fun c => clOn up c && (up.cl c).frz.contains FreezeCause.hwLimit) (List.finRange 64)).length ≤ 16) ∧
    ((863 < 864 ∨ up.pwr.scopes.contains (sensorScope (Sensor.cluster 0)) = true)) ∧
    (864 ≤ 864 ∧ up.pwr.scopes.contains (sensorScope (Sensor.cluster 0)) = false) := by
  refine ⟨?_, ?_, ?_, ?_⟩ <;> decide +kernel
end PH

namespace PA
open W
end PA

end Power

namespace Security

namespace W
def k1 : Bytes := List.replicate 48 7
def k2 : Bytes := List.replicate 48 9
def own (n : Nat := 1) : Bytes := bytes 2224 [(0, natLe 4 0x574F594B), (8, natLe 4 3), (12, [1]), (13, natLe 1 n), (176, keyBytes k1 0x01), (240, keyBytes k2 0)]
def sess : List Session := [{ id := 1, role := .owner, port := none, signed := false, txKey := .none, rxKey := .none }, { id := 2, role := .relying, port := none, signed := false, txKey := .none, rxKey := .none }, { id := 3, role := .tenant 0, port := none, signed := false, txKey := .none, rxKey := .none }]
def ses (s : State := up) : State := sk (fun k => { k with sessions := sess, bak := true, nextSess := 9 }) s
def ow (s : State := ses) : State := sk (fun k => { k with owner := some (own 2), flash := { k.flash with ownerA := some (own 2), ownerB := some (own 2), rpmc1 := 4 } }) s
def em (s : State) : State := { s with slots := Vector.replicate 8 Slot.reset }
end W

namespace O
open W
def ss : List State := [up, ses, ow, em ow, al 1 ow, al 3 ow, off ow 92, sk (fun k => { k with sessions := [] }) ow, sk (fun k => { k with owner := some (own 32) }) ow, sk (fun k => { k with owner := some (own 0) }) ow]

theorem wit_OwnerCommandsWriteTheRecord :
    ((secServes up = false ∨ hasSession up Role.owner = false)) /- (Instr.setOwner T0 Role.owner (own 2) true, 1) -/ ∧
    (secServes (al 1 ow) = true ∧ hasSession (al 1 ow) Role.owner = true ∧ alarmLevel (al 1 ow) ≠ 0) /- (Instr.setOwner T0 Role.owner (own 2) true, 1) -/ ∧
    (secServes ses = true ∧ hasSession ses Role.relying = true ∧ alarmLevel ses = 0 ∧ Role.relying ≠ Role.owner ∧ (2 ≠ 1 ∨ ses.sec.owner ≠ none)) /- (Instr.authKey T0 Role.relying (own 2) 3, 2) -/ ∧
    (secServes ses = true ∧ hasSession ses Role.owner = true ∧ alarmLevel ses = 0 ∧ ses.sec.owner = none ∧ ownerOk (own 2) = true) /- (Instr.setOwner T0 Role.owner (own 2) true, 1) -/ ∧
    (secServes ow = true ∧ hasSession ow Role.owner = true ∧ alarmLevel ow = 0 ∧ ow.sec.owner ≠ none ∧ ownerOk (own 2) = true) /- (Instr.setOwner T0 Role.owner (own 2) true, 1) -/ ∧
    (secServes ow = true ∧ hasSession ow Role.owner = true ∧ alarmLevel ow = 0 ∧
      (match ow.sec.owner with | some r => (match keyEntry r k1 with | some e => true | _ => false) | _ => false) = true) /- (Instr.authKey T0 Role.owner k1 3, 2) -/ ∧
    (secServes ow = true ∧ hasSession ow Role.owner = true ∧ alarmLevel ow = 0 ∧
      (match ow.sec.owner with | some r => (match keyEntry r k1 with | some e => true | _ => false) | _ => false) = true) /- (Instr.revokeKey T0 Role.owner k1, 3) -/ ∧
    (secServes ow = true ∧ hasSession ow Role.owner = true ∧ alarmLevel ow = 0 ∧
      (match ow.sec.owner with | some r => decide (keyEntry r (own 2) = none) | _ => false) = true) /- (Instr.revokeKey T0 Role.owner (own 2), 3) -/ ∧
    (secServes ow = true ∧ hasSession ow Role.owner = true ∧ alarmLevel ow = 0 ∧
      (match ow.sec.owner with | some r => decide (keyEntry r (own 2) = none ∧ fieldU r 13 1 < 32) | _ => false) = true) /- (Instr.authKey T0 Role.owner (own 2) 3, 2) -/ ∧
    (secServes ow = true ∧ hasSession ow Role.owner = true ∧ alarmLevel ow = 0 ∧ T0 < 2 ^ 32 ∧
      (match ow.sec.owner with | some r => decide (fieldU r 8 4 < T0) | _ => false) = true) /- (Instr.raiseFloor T0 Role.owner T0, 6) -/ ∧
    (secServes ow = true ∧ hasSession ow Role.owner = true ∧ alarmLevel ow = 0 ∧
      (match ow.sec.owner with | some r => decide (1 ≤ fieldU r 8 4) | _ => false) = true) /- (Instr.raiseFloor T0 Role.owner 1, 6) -/ ∧
    (secServes ow = true ∧ hasSession ow Role.owner = true ∧ alarmLevel ow = 0 ∧
      (match ow.sec.owner with | some r => decide (bitAt (fieldU r 12 1) 1 = false) | _ => false) = true) /- (Instr.enableRetire T0 Role.owner, 8) -/ ∧
    (secServes ses = true ∧ hasSession ses Role.owner = true ∧ alarmLevel ses = 0 ∧ (ses.slot 1).st = PState.empty) /- (Instr.grantSlot T0 Role.owner 1 (own 2), 4) -/ := by
  refine ⟨?_, ?_, ?_, ?_, ?_, ?_, ?_, ?_, ?_, ?_, ?_, ?_, ?_⟩ <;> decide +kernel
end O

namespace K
open W
def ss : List State := [up, ow]

theorem wit_KeysAreAuthorisedPerPartition :
    (keyAuthorised ow 0 k1 = true) ∧
    ((match ow.sec.owner with | some r => decide ((∀ (i : Nat), i < fieldU r 13 1 → sliceB r (176 + 64 * i) 48 = k2 → fieldU r (176 + 64 * i + 48) 1 = 0)) | _ => false) = true) := by
  refine ⟨?_, ?_⟩ <;> decide +kernel
end K

namespace TT
open W
def tok : Token := { magic := 0x4742444B, ver := 1, issuer := 1, part := 0xFF, serial := BitVec.ofNat 64 (fieldU State.reset.sec.flash.part 16 8), boot := 0, scope := 3, nonce := 0, life := 10 }
def ten : Tenant := { keyDigest := k1, pub := k1, tbs := k1, kAuth := k1, kDump := k1 }
def net (s : State) : State := { s with net := { s.net with link := true } }
def ss : List State := [net ow, net (em (sk (fun k => { k with grants := vset k.grants 0 (some k1) }) ow)), net (sk (fun k => { k with tenants := vset k.tenants 0 (some ten) }) ow), net (al 1 ow),
  sk (fun k => { k with dbg := [{ slot := none, scope := 3, endAt := 100 }, { slot := none, scope := 3, endAt := 2 ^ 50 }], sessions := sess.map (fun x => { x with signed := true }) }) (ports ow)]

theorem wit_SessionsAndTokens :
    (secServes (pick ss 1) = true ∧ (pick ss 1).sec.sessions ≠ [] ∧ alarmLevel (pick ss 1) = 0 ∧ (pick ss 1).sec.grants.get 0 = some (sliceB k1 0 48) ∧
      ((pick ss 1).slot 0).st = PState.empty ∧ (pick ss 1).sec.bak = true ∧ (pick ss 1).sec.bakUsed < bakLimit) ∧
    (secServes (net ow) = true ∧ (net ow).sec.sessions ≠ [] ∧ alarmLevel (net ow) = 0 ∧ (net ow).sec.grants.get 0 ≠ some (sliceB k1 0 48)) ∧
    (secServes (net ow) = true ∧ alarmLevel (net ow) = 0 ∧ tokenOk (net ow) tok true = true ∧ hasSession (net ow) Role.owner = true ∧
      Role.owner ≠ Role.relying) ∧
    (secServes (net ow) = true ∧ alarmLevel (net ow) = 0 ∧ tokenOk (net ow) tok false = false ∧ hasSession (net ow) Role.owner = true ∧
      Role.owner ≠ Role.relying) ∧
    (secServes (net (al 1 ow)) = true ∧ alarmLevel (net (al 1 ow)) ≠ 0) ∧
    (secServes (pick ss 4) = true ∧ alarmLevel (pick ss 4) = 0 ∧
      (match List.find? (fun y => y.role == Role.owner && y.signed) (pick ss 4).sec.sessions with | some x => true | _ => false) = true) ∧
    (secServes (net ow) = true ∧ spdmReaches (net ow) (some 0) = false) ∧
    (secServes (net ow) = true ∧ spdmReaches (net ow) none = true ∧ ((net ow).sec.sessions.any fun x => x.id == T0) = false) ∧
    (secServes (net ow) = true ∧ spdmReaches (net ow) none = true ∧ ((net ow).sec.sessions.any fun x => x.id == 1) = true ∧ alarmLevel (net ow) = 0 ∧
      (net ow).sec.bak = true ∧ (net ow).sec.bakUsed < bakLimit) ∧
    (secServes (net ow) = true ∧ spdmReaches (net ow) none = true ∧ (net ow).sec.sessions.length < 16 ∧ alarmLevel (net ow) = 0 ∧
      (net ow).sec.bak = true ∧ (net ow).sec.bakUsed < bakLimit) ∧
    (secServes (net ow) = true ∧ spdmReaches (net ow) none = true ∧ mayMeasure Role.relying T0 = false) ∧
    (secServes (net ow) = true ∧ spdmReaches (net ow) none = true ∧ mayMeasure Role.relying 5 = true ∧ alarmLevel (net ow) = 0 ∧ (net ow).sec.bak = true ∧
      (net ow).sec.bakUsed < bakLimit) := by
  refine ⟨?_, ?_, ?_, ?_, ?_, ?_, ?_, ?_, ?_, ?_, ?_, ?_⟩ <;> decide +kernel
end TT

namespace AL
open W
def cfg (v : Nat) (s : State := up) : State := sk (fun k => { k with cfg := BitVec.ofNat 18 v }) s

theorem wit_AlarmsAndResets :
    (domOn up 92 = true ∧ tripLevel (tick T0 up) (↑0 + 1) ≠ 0) ∧
    ((domOn (cfg 0) 92 = false ∨ tripLevel (tick T0 (cfg 0)) (↑0 + 1) = 0)) ∧
    (↑0 ≠ 4 ∧ domOn (cfg 37449) 92 = true ∧ cfgLevel (cfg 37449) (↑0 + 1) = 1) ∧
    ((Requester.sec = Requester.sec ∨ Requester.sec = Requester.loader) ∧ (BitVec.toNat (0 : BitVec 2) = 0 ∨ 3 < BitVec.toNat (0 : BitVec 2))) ∧
    ((Requester.sec = Requester.sec ∨ Requester.sec = Requester.loader) ∧ 1 ≤ BitVec.toNat (1 : BitVec 2) ∧ BitVec.toNat (1 : BitVec 2) ≤ 3) ∧
    (Requester.pmc ≠ Requester.sec ∧ Requester.pmc ≠ Requester.loader) ∧
    ((al 1 (em ow)).sec.alarms ≠ [] ∧
      ((al 1 (em ow)).sec.alarms.all fun a => a.level == 1 && a.sensor != 3 && decide (a.since + 1000000000 ≤ max (al 1 (em ow)).now T0)) = true ∧
      (al 1 (em ow)).sec.authAt = [] ∧ (al 1 (em ow)).boot.stage ≠ 2 ∧ (al 1 (em ow)).boot.stage ≠ 6 ∧ (al 1 (em ow)).sched.job = none) ∧
    (up.sec.alarms = []) ∧
    ((true && false) = false) := by
  refine ⟨?_, ?_, ?_, ?_, ?_, ?_, ?_, ?_, ?_⟩ <;> decide +kernel
end AL

end Security

namespace StartUp

namespace B
def st (n : Nat) (f : Boot → Boot := id) : State := nk (fun k => { k with link := true }) (bk (fun b => f { b with stage := BitVec.ofNat 4 n, running := 0 }))
def fet (f : Boot → Boot := id) : State := st 4 (fun b => f { b with blk := 8192, next := 1, got := 0, lease := some (1, 2, []) })
def unl (s : State) : State := nk (fun k => { k with link := false }) s
def ss : List State := [st 0, st 1, st 3, unl (st 3), unl (st 5), st 5, off (st 3) 91, st 5 (fun b => { b with lease := some (1, 2, []) }), fet, fet (fun b => { b with next := 32, got := 31 * 8192 }),
  fet (fun b => { b with next := 0, got := 31 * 8192 }), fet (fun b => { b with next := 5, resends := 5 }), fet (fun b => { b with next := 5, resends := 4 }), fet (fun b => { b with retryAt := some T0 }), st 15 (fun b => { b with retryAt := some T0 }), fet (fun b => { b with retryAt := some (2 ^ 50) }), st 7, up, State.reset]

theorem wit_StartUpFetchesTheBundle :
    (((st 1).boot.stage ≠ 0 ∨ (st 1).boot.pgood = false ∨ (st 1).boot.resetN = false)) ∧
    ((st 0).boot.stage = 0 ∧ (st 0).boot.pgood = true ∧ (st 0).boot.resetN = true) ∧
    ((st 0).boot.stage ≠ 1) ∧
    ((st 1).boot.stage = 1 ∧
      { flashOk := false, pufA := true, pufB := true, counterOk := true, partSigOk := true, idHashOk := true : IdentResult }.flashOk = false) ∧
    ((st 1).boot.stage = 1 ∧ (st 1).sec.flash.marker = true ∧ (st 1).sec.flash.helperA = true ∧ BitVec.toNat (st 1).sec.flash.rpmc0 < 32768 ∧
      partOk (st 1).sec.flash.part true true = true ∧ (st 1).sec.alarms = []) ∧
    (((st 0).net.link = true ∨ domOn (st 0) 91 = false)) ∧
    ((unl (st 5)).net.link = false ∧ domOn (unl (st 5)) 91 = true ∧ (unl (st 5)).boot.stage ≠ 3) ∧
    ((st 3).boot.stage = 3 ∧ (st 3).sec.alarms = [] ∧ (st 3).net.link = true) ∧
    ((unl (st 3)).boot.stage = 3 ∧ (unl (st 3)).sec.alarms = [] ∧ (unl (st 3)).net.link = false) ∧
    ((st 3).boot.stage = 3 ∧ (st 3).sec.alarms = [] ∧ max (st 3).now 32 < (st 3).boot.askedAt + dhcpWait (st 3).boot.discover) ∧
    ((st 3).boot.stage = 3 ∧ (st 3).sec.alarms = [] ∧ (st 3).boot.askedAt + dhcpWait (st 3).boot.discover ≤ max (st 3).now 5000000000) ∧
    (fet.boot.stage = 4 ∧ fet.boot.retryAt = none ∧ fet.net.link = true ∧ fet.sec.alarms = [] ∧ 1 = fet.boot.next ∧ 1 ≠ 0 ∧ fet.boot.blk = 8192 ∧
      (List.replicate 8192 3).length = 8192 ∧ fet.boot.got + 8192 ≤ 4194304) ∧
    (fet.boot.stage = 4 ∧ fet.boot.retryAt = none ∧ fet.net.link = true ∧ fet.sec.alarms = [] ∧ fet.boot.next < 5000000000 ∧ 5000000000 ≠ 0 ∧
      fet.boot.blk = 8192 ∧ (List.replicate 8192 3).length ≤ 8192) ∧
    ((pick ss 9).boot.stage = 4 ∧ (pick ss 9).boot.retryAt = none ∧ (pick ss 9).net.link = true ∧ (pick ss 9).sec.alarms = [] ∧
      (pick ss 9).boot.ackAt + 1000000000 ≤ max (pick ss 9).now 5000000000 ∧ (pick ss 9).boot.resends < 5 ∧ 1 < (pick ss 9).boot.next) ∧
    ((pick ss 11).boot.stage = 4 ∧ (pick ss 11).boot.retryAt = none ∧ (pick ss 11).net.link = true ∧ (pick ss 11).sec.alarms = [] ∧
      (pick ss 11).boot.ackAt + 1000000000 ≤ max (pick ss 11).now 5000000000 ∧ 5 ≤ (pick ss 11).boot.resends) ∧
    ((pick ss 15).sec.alarms = [] ∧ (match (pick ss 15).boot.retryAt with | some x => decide (max (pick ss 15).now 5000000000 < x) | _ => false) = true) ∧
    ((pick ss 14).sec.alarms = [] ∧ (pick ss 14).boot.stage = 15 ∧ (match (pick ss 14).boot.retryAt with | some x => true | _ => false) = true) ∧
    ((pick ss 13).sec.alarms = [] ∧ (pick ss 13).boot.stage ≠ 15 ∧
      (match (pick ss 13).boot.retryAt with | some x => decide (x ≤ max (pick ss 13).now 5000000000) | _ => false) = true) ∧
    (domOn (pick ss 7) 91 = true ∧ (pick ss 7).net.link = true ∧ (pick ss 7).boot.stage ≠ 3 ∧
      (match (pick ss 7).boot.lease with | some (x, y, z) => true | _ => false) = true) ∧
    (domOn fet 91 = true ∧ fet.net.link = true ∧ fet.boot.stage ≠ 3 ∧ fet.boot.stage = 4) ∧
    (domOn (st 0) 91 = true ∧ (st 0).net.link = true ∧ (st 0).boot.stage ≠ 3 ∧ (st 0).boot.stage ≠ 4) ∧
    ((st 7).boot.stage = 7 ∧ (st 7).boot.running = 0) ∧
    ((st 0).boot.stage ≠ 7) := by
  refine ⟨?_, ?_, ?_, ?_, ?_, ?_, ?_, ?_, ?_, ?_, ?_, ?_, ?_, ?_, ?_, ?_, ?_, ?_, ?_, ?_, ?_, ?_, ?_⟩ <;> decide +kernel
end B

end StartUp

namespace HostPort

namespace B
end B

namespace HP
open B
def fr : Bytes := zeroB 64
def own (s : State) : State := { s with mem := { s.mem with owners := vset s.mem.owners 8 (some { base := 0, chans := [0], key := none }), cells := [], poison := [] } }
def w (s : State) (a n v : Nat) : State := hostWrite s a (natLe n v)
def hp : State := own (nk (fun k => { k with link := true }) up)
def r : Ring := { base := 0x100000, n := 16 }
def ss : List State := [hp, w hp 0x80 8 (2 ^ 63 + 0x100000 + 4), w (w (nk (fun k => { k with rx := some r, rxHead := 3, rxTail := 5 }) hp) 0x80 8 (2 ^ 63 + 0x100000 + 4)) (0x100000 + 48) 8 0x9000,
  nk (fun k => { k with rx := some r, rxHead := 3, rxTail := 3 }) hp, nk (fun k => { k with tx := some r, sending := true, txHead := 3, txTail := 4 }) hp, bk (fun b => { b with lease := some (0x0A000001, 2, []) }) hp,
  nk (fun k => { k with cache := [(5, fr, T0 - 5, [1, 2])] }) hp, { hp with clk := { hp.clk with en := 0 } }, { hp with clk := { hp.clk with en := 2 } }]

theorem wit_HostPortAndSideband :
    (hostPortOn (pick ss 2) = true ∧ (pick ss 2).net.link = true ∧ sliceB fr 0 6 = sliceB (pick ss 2).sec.flash.part 32 6 ∧ 4 ≤ List.length fr ∧
      List.length fr ≤ 9018 ∧ (pick ss 2).net.rx = some { base := 1048576, n := 16 : Ring } ∧
      BitVec.toNat (pick ss 2).net.rxHead < BitVec.toNat (pick ss 2).net.rxTail) ∧
    (hostPortOn (pick ss 3) = true ∧ (pick ss 3).net.link = true ∧ sliceB fr 0 6 = sliceB (pick ss 3).sec.flash.part 32 6 ∧ 4 ≤ List.length fr ∧
      List.length fr ≤ 9018 ∧ (pick ss 3).net.rx = some { base := 1048576, n := 16 : Ring } ∧
      BitVec.toNat (pick ss 3).net.rxTail ≤ BitVec.toNat (pick ss 3).net.rxHead) ∧
    (hostPortOn (pick ss 4) = true ∧ (pick ss 4).net.link = true ∧ (pick ss 4).net.tx = some { base := 1048576, n := 16 : Ring } ∧
      (pick ss 4).net.sending = true ∧ BitVec.toNat (pick ss 4).net.txTail ≤ BitVec.toNat ((pick ss 4).net.txHead + 1)) ∧
    (hostPortOn (pick ss 5) = true ∧ (pick ss 5).net.link = true ∧ domOn (pick ss 5) 91 = true ∧
      (match (pick ss 5).boot.lease with | some ((g0, (x, y))) => decide (g0 = 167772161) | _ => false) = true) ∧
    (hostPortOn hp = true ∧ hp.net.link = true ∧ domOn hp 91 = true ∧ hp.net.cache = []) ∧
    (hostPortOn (pick ss 6) = true ∧ (pick ss 6).net.link = true ∧ domOn (pick ss 6) 91 = true ∧
      (match (pick ss 6).net.cache with | ((g0, (g1, (a, b)))) :: ([]) => decide (g0 = 5 ∧ g1 = fr ∧ max (pick ss 6).now T0 < a + 1000000000) | _ => false) = true) ∧
    (hostPortOn hp = true ∧ hp.net.link = true ∧ gateOn hp 3 = true ∧ hp.boot.pgood = true ∧ hp.boot.resetN = true) ∧
    (hostPortOn (pick ss 8) = true ∧ (pick ss 8).net.link = true ∧ gateOn (pick ss 8) 3 = false) := by
  refine ⟨?_, ?_, ?_, ?_, ?_, ?_, ?_, ?_⟩ <;> decide +kernel
end HP

end HostPort

namespace Meters

namespace B
end B

namespace MT
open B
def mk (f : MeterDie → MeterDie) (s : State := up) : State := { s with meter := { s.meter with die := f { s.meter.die with powered := true } } }
def wk (f : MeterWin → MeterWin) (s : State) : State := { s with meter := { s.meter with win := f s.meter.win } }
def ss : List State := [mk id, mk (fun d => { d with checking := true }), mk (fun d => { d with checkAt := some 5, seq := 7, newTags := [(0, 3)], tags := Vector.replicate 8 1 }), mk (fun d => { d with powered := false }), nx (.readStatus 5 .sched) (mk id), off (nx (.readStatus 5 .sched) (mk id)) 94, nx (.energy 5 1 2 false []) (mk id), wk (fun w => { w with silent := true }) up]

theorem wit_TheMeterMetersAndAnswers :
    ((pick ss 3).meter.die.powered = false) ∧
    ((mk id).meter.die.powered = true ∧ (mk id).meter.win.pend = none ∧ checkBusy (tick T0 (mk id)) = false) ∧
    ((pick ss 1).meter.die.powered = true ∧ (pick ss 1).meter.win.pend = none ∧ checkBusy (tick T0 (pick ss 1)) = true) ∧
    ((mk id).meter.die.powered = true ∧ (mk id).meter.die.checking = false) ∧
    ((pick ss 1).meter.die.powered = true ∧ (pick ss 1).meter.die.checking = true) ∧
    ((mk id).meter.die.sent = []) ∧
    (domOn (off (nx (Instr.readStatus 5 Requester.sched) (mk id)) 94) 94 = false ∧
      (match (off (nx (Instr.readStatus 5 Requester.sched) (mk id)) 94).meter.die.sent with | r :: rest => true | _ => false) = true) ∧
    (domOn (nx (Instr.readStatus 5 Requester.sched) (mk id)) 94 = true ∧
      (match (nx (Instr.readStatus 5 Requester.sched) (mk id)).meter.die.sent with | r :: rest => true | _ => false) = true) ∧
    (domOn (mk id) 92 = true ∧ (mk id).meter.win.silent = false ∧ (mk id).meter.win.lastAt + 10000000 ≤ max (mk id).now T0) ∧
    ((pick ss 7).meter.win.silent = true) := by
  refine ⟨?_, ?_, ?_, ?_, ?_, ?_, ?_, ?_, ?_, ?_⟩ <;> decide +kernel
end MT

end Meters

end Sys2Proof.Tests
end

section
/-! PROOFS. Seeds (R11, R229, R231, R314): what each part of a write of a 64-bit register gives, and the writes of RNG_SEED and UPD_SEED. -/

namespace Sys2Proof.Machine

-- A write of part of a 64-bit register (R11)

theorem halfWrite_lower (s : State) (addr : Nat) (who : Requester) (val old : W64) (rw : Bool) :
    halfWrite s addr who .lower val old rw =
      ({ s with low := { addr := addr, who := who, val := val.setWidth 32 } :: s.low.filter (fun x => !(x.addr == addr && x.who == who)) },
        none) := rfl

theorem halfWrite_whole (s : State) (addr : Nat) (who : Requester) (val old : W64) (rw : Bool) :
    halfWrite s addr who .whole val old rw =
      ({ s with low := s.low.filter (fun x => !(x.addr == addr && x.who == who)) }, some val) := rfl

/-- An upper half takes effect with the lower half that its requester left. -/
theorem halfWrite_upper_of_pending {s : State} {addr : Nat} {who : Requester} {lo : LowHalf}
    (h : s.low.find? (fun x => x.addr == addr && x.who == who) = some lo) (val old : W64) (rw : Bool) :
    halfWrite s addr who .upper val old rw =
      ({ s with low := s.low.filter (fun x => !(x.addr == addr && x.who == who)) }, some ((val.setWidth 32 : W32) ++ lo.val)) := by
  simp only [halfWrite, h]

@[simp] theorem ueOn_tick (t : Nat) (s : State) (e : Fin 4) : ueOn (tick t s) e = ueOn s e := rfl

-- RNG_SEED (R229 to R231)

theorem rngSeedWrite_of_not_writer {who : Requester} (h : rngWriter who = false) (s : State) (c : Fin 64) (part : RegPart) (val : W64) :
    rngSeedWrite s who c part val = s := by
  simp [rngSeedWrite, h]

/-- A write that its register does not take yet leaves only the half it holds. -/
theorem rngSeedWrite_of_held {s s' : State} {who : Requester} {c : Fin 64} {part : RegPart} {val : W64} (hw : rngWriter who = true)
    (hc : clOn s c = true) (h : halfWrite s (csrBase + 0x1000000 + c.val * 0x10000 + 0x408) who part val 0 false = (s', none)) :
    rngSeedWrite s who c part val = s' := by
  simp only [rngSeedWrite, hw, hc, h, Bool.not_true, Bool.or_self, Bool.false_eq_true, if_false]

/-- A whole value becomes the seed, and the seed is valid. -/
theorem rngSeedWrite_of_taken {s s' : State} {who : Requester} {c : Fin 64} {part : RegPart} {val v : W64} (hw : rngWriter who = true)
    (hc : clOn s c = true) (h : halfWrite s (csrBase + 0x1000000 + c.val * 0x10000 + 0x408) who part val 0 false = (s', some v)) :
    rngSeedWrite s who c part val = s'.setCl c { s'.cl c with rng := { (s'.cl c).rng with seed := v, valid := true } } := by
  simp only [rngSeedWrite, hw, hc, h, Bool.not_true, Bool.or_self, Bool.false_eq_true, if_false]

theorem exec_rngSeed (t : Nat) (who : Requester) (c : Fin 64) (part : RegPart) (val : W64) (s : State) :
    exec (.rngSeed t who c part val) s = .next (rngSeedWrite (tick t s) who c part val) := rfl

-- UPD_SEED (R314, R316)

theorem updSeedWrite_of_held {s s' : State} {who : Requester} {e : Fin 4} {part : RegPart} {val : W64} (hw : engWriter who = true)
    (he : ueOn s e = true) (h : halfWrite s (csrBase + 0x4000000 + e.val * 0x10000 + 0x40) who part val 0 false = (s', none)) :
    updSeedWrite s who e part val = s' := by
  simp only [updSeedWrite, hw, he, h, Bool.not_true, Bool.or_self, Bool.false_eq_true, if_false]

theorem updSeedWrite_of_taken {s s' : State} {who : Requester} {e : Fin 4} {part : RegPart} {val v : W64} (hw : engWriter who = true)
    (he : ueOn s e = true) (h : halfWrite s (csrBase + 0x4000000 + e.val * 0x10000 + 0x40) who part val 0 false = (s', some v)) :
    updSeedWrite s who e part val = s'.setUe e { s'.ue e with regs := { (s'.ue e).regs with seed := v, seedValid := true } } := by
  simp only [updSeedWrite, hw, he, h, Bool.not_true, Bool.or_self, Bool.false_eq_true, if_false]

theorem exec_updSeed (t : Nat) (who : Requester) (e : Fin 4) (part : RegPart) (val : W64) (s : State) :
    exec (.updSeed t who e part val) s = .next (updSeedWrite (tick t s) who e part val) := rfl

/-- Settles O19: each part of a write is one equation of halfWrite, which the register then takes or holds. -/
theorem seedsAreWrittenByHalves : Obligations.SeedsAreWrittenByHalves := by
  unfold Obligations.SeedsAreWrittenByHalves
  intro t who c e val s
  simp only [exec_rngSeed, exec_updSeed, Host.Outcome.next.injEq, exists_eq_left']
  refine ⟨fun hw part => rngSeedWrite_of_not_writer hw .., fun hw hc => ?_, fun hw he => ?_⟩
  · rw [← clOn_tick t] at hc
    refine ⟨?_, ?_, fun lo hlo => ?_⟩
    · rw [rngSeedWrite_of_taken hw hc (halfWrite_whole ..), cl_setCl_same]
      exact ⟨rfl, fun d hd => cl_setCl_other _ _ _ _ hd.symm, rfl⟩
    · rw [rngSeedWrite_of_held hw hc (halfWrite_lower ..)]
      exact ⟨rfl, List.mem_cons_self⟩
    · rw [← tick_low t] at hlo
      rw [rngSeedWrite_of_taken hw hc (halfWrite_upper_of_pending hlo ..), cl_setCl_same]
      rfl
  · rw [← ueOn_tick t] at he
    refine ⟨?_, ?_⟩
    · rw [updSeedWrite_of_taken hw he (halfWrite_whole ..), ue_setUe_same]
      exact ⟨rfl, fun f hf => ue_setUe_other _ _ _ _ hf.symm, rfl⟩
    · rw [updSeedWrite_of_held hw he (halfWrite_lower ..)]
      rfl

end Sys2Proof.Machine
end

section
/-! PROOFS. Accesses to the device address space (R11, R25, R26, R239, R464): what a read that is not carried out answers, reads and writes of
granules of main memory, and the register writes that change nothing. -/

namespace Sys2Proof.Machine

-- Accesses that are not carried out (R25, R26)

@[simp] theorem logMiss_out (s : State) (a : Nat) : (logMiss s a).out = s.out := logEv_out ..
@[simp] theorem logDenied_out (s : State) (who : Requester) (a : Nat) (w : Bool) : (logDenied s who a w).out = s.out := logEv_out ..

/-- Where nothing has been answered yet, the zeros of a read that is not carried out are the one answer, and a write has none. -/
theorem zeroRead_of_out_nil {s : State} (h : s.out = []) (isWrite : Bool) :
    zeroRead s isWrite = { s with out := if isWrite then [] else [{ kind := .read, dest := 0, data := zeroB 32 }] } := by
  cases isWrite with
  | true =>
    show s = { s with out := [] }
    rw [← h]
  | false => simp [zeroRead, emit, h]

theorem exec_unmappedAccess_of_miss {t : Nat} {who : Requester} {addr : Nat} {s : State} (h : hitOf (tick t s) who addr 1 = .miss)
    (isWrite : Bool) : exec (.unmappedAccess t who addr isWrite) s = .next (zeroRead (logMiss (tick t s) addr) isWrite) := by
  show execUnmappedAccess t who addr isWrite s = _
  simp only [execUnmappedAccess, h]

theorem exec_deniedAccess_of_denied {t : Nat} {who : Requester} {addr : Nat} {s : State} (h : hitOf (tick t s) who addr 1 = .denied)
    (isWrite : Bool) : exec (.deniedAccess t who addr isWrite) s = .next (zeroRead (logDenied (tick t s) who addr isWrite) isWrite) := by
  show execDeniedAccess t who addr isWrite s = _
  simp only [execDeniedAccess, h]

-- Main memory (R236, R239)

theorem winLoc_ne_dram (c : Fin 64) (off x : Nat) : winLoc c off ≠ .dram x := by
  unfold winLoc
  repeat' split
  all_goals nofun

/-- Main memory lies at its own addresses: no offset is taken off (R23). -/
theorem eq_of_locOf_eq_dram {a x : Nat} (h : locOf a = .dram x) : a = x := by
  unfold locOf at h
  split at h
  · exact Loc.dram.inj h
  split at h
  · cases h
  split at h
  · exact (winLoc_ne_dram _ _ _ h).elim
  repeat' split at h
  all_goals cases h

/-- The address that is met in main memory is met again under its own name. -/
theorem locOf_target_of_dram {a x : Nat} (h : locOf a = .dram x) : locOf x = .dram x := by
  rwa [eq_of_locOf_eq_dram h] at h

/-- A clean granule of a channel that is ACTIVE changes nothing as it is read. -/
theorem checkGranule_clean_of_active {s : State} {g : Fin 8} {n : Fin 24} (h : ((s.mg g).chans.get n).state = 1) (off : Nat)
    (a : Option Nat) : checkGranule s g n off a .clean = s := by
  simp [checkGranule, h]

theorem checkAddr_clean_of_active {s : State} {a : Nat} (h : ∀ i o g n, ownerOf s.mem a = some (i, o) →
    chanAt (locate o.chans (a - o.base)).1 = some (g, n) → ((s.mg g).chans.get n).state = 1) : checkAddr s a .clean = s := by
  unfold checkAddr
  split
  case h_1 => rfl
  case h_2 i o ho =>
    dsimp only
    split
    · rfl
    split
    case h_1 => rfl
    case h_2 g n hg =>
      split
      · exact checkGranule_clean_of_active (h i o g n ho hg) ..
      · rfl

/-- The bytes of the device address space do not depend on the moment. -/
@[simp] theorem devRead_tick (t : Nat) (s : State) (a n : Nat) : devRead (tick t s) a n = devRead s a n := rfl

/-- A read of a granule of main memory whose check changes nothing answers its bytes and its poison flag. -/
theorem readAt_dram {s : State} {who : Requester} {x : Nat} {e : Ecc} (hx : locOf x = .dram x) (ha : x % 32 = 0)
    (hc : checkAddr s x e = s) : readAt s who x e = emit s .read (if dramPoi s.mem x then 1 else 0) (devRead s x 32) := by
  have hlo : x / 32 * 32 = x := Nat.div_mul_cancel (Nat.dvd_of_mod_eq_zero ha)
  simp only [readAt, hx, hlo, hc, devPoi]

theorem writeAt_dram {s : State} {who : Requester} {x : Nat} (hx : locOf x = .dram x) (data : Bytes) (poison : Bool) (e : Ecc) :
    writeAt s who x data poison e = dramWrite s x data poison e := by
  simp only [writeAt, hx]

/-- No part of a granule that is written whole is read first. -/
theorem dramWrite_of_granule {s : State} {x : Nat} {b : Bytes} (ha : x % 32 = 0) (hb : b.length = 32) (p : Bool) (e : Ecc) :
    dramWrite s x b p e = devWrite s x b p := by
  have hfirst : ¬ (x % 32 ≠ 0 ∨ x + b.length < x / 32 * 32 + 32) := by omega
  have hlast : ¬ ((x + b.length - 1) / 32 ≠ x / 32 ∧ (x + b.length - 1) % 32 ≠ 31) := by omega
  simp only [dramWrite, if_neg hfirst, if_neg hlast, List.append_nil, List.foldl_nil]

theorem exec_memRead_of_ok {t : Nat} {who : Requester} {addr a : Nat} {s : State} (h : hitOf (tick t s) who addr 1 = .ok a) (e : Ecc) :
    exec (.memRead t who addr e) s = .next (readAt (tick t s) who a e) := by
  show execMemRead t who addr e s = _
  simp only [execMemRead, h]

theorem exec_memWrite_of_ok {t : Nat} {who : Requester} {addr a : Nat} {s : State} {data : Bytes} (hd : data ≠ [])
    (h : hitOf (tick t s) who addr data.length = .ok a) (poison : Bool) (e : Ecc) :
    exec (.memWrite t who addr data poison e) s = .next (writeAt (tick t s) who a data poison e) := by
  show execMemWrite t who addr data poison e s = _
  simp only [execMemWrite, List.isEmpty_eq_false_iff.mpr hd, h, Bool.false_eq_true, if_false]

-- Registers (R11)

theorem csrStore_of_width {width : Nat} (h4 : width ≠ 4) (h8 : width ≠ 8) (s : State) (who : Requester) (off : Nat) (val : W64) :
    csrStore s who off width val = s := by
  simp only [csrStore, if_neg h4, if_neg h8]

theorem csrStore_of_misaligned {off : Nat} (h : off % 4 ≠ 0) (s : State) (who : Requester) (width : Nat) (val : W64) :
    csrStore s who off width val = s := by
  have h8 : off % 8 ≠ 0 := by omega
  simp only [csrStore, if_pos h, if_pos h8, ite_self]

theorem csrStore_of_no_reg64 {s : State} {off : Nat} (h : ∀ r, csrReg s off ≠ some (64, r)) (who : Requester) (val : W64) :
    csrStore s who off 8 val = s := by
  unfold csrStore
  rw [if_pos rfl]
  split
  · rfl
  split
  case h_1 r hr => exact absurd hr (h r)
  case h_2 => rfl

theorem exec_csrWrite_of_ok {t : Nat} {who : Requester} {addr o a : Nat} {s : State} (ho : locOf addr = .csr o)
    (h : hitOf (tick t s) who addr 1 = .ok a) (width : Nat) (val : W64) :
    exec (.csrWrite t who addr width val) s = .next (csrStore (tick t s) who o width val) := by
  show execCsrWrite t who addr width val s = _
  simp only [execCsrWrite, ho, h]

/-- Settles O23: an access is carried out where hitOf finds its target, a granule of main memory lies at its own address, and a register
write that is narrow, misaligned or not at a 64-bit register stores nothing. -/
theorem accessesReachTheirTarget : Obligations.AccessesReachTheirTarget := by
  unfold Obligations.AccessesReachTheirTarget
  refine ⟨fun t who addr isWrite s => ⟨fun h => ?_, fun h => ?_⟩, fun t who addr x s hx ha => ⟨fun h hact => ?_, fun data p e hd h => ?_⟩,
    fun t who addr width o a val s ho h => ?_⟩
  · rw [exec_unmappedAccess_of_miss h, zeroRead_of_out_nil (by simp)]
  · rw [exec_deniedAccess_of_denied h, zeroRead_of_out_nil (by simp)]
  · rw [exec_memRead_of_ok h, readAt_dram (locOf_target_of_dram hx) ha (checkAddr_clean_of_active (s := tick t s) hact), devRead_tick]
    rfl
  · have hne : data ≠ [] := List.ne_nil_of_length_pos (by omega)
    rw [exec_memWrite_of_ok hne (by rw [hd]; exact h), writeAt_dram (locOf_target_of_dram hx), dramWrite_of_granule ha hd]
  · rw [exec_csrWrite_of_ok ho h]
    refine ⟨rfl, fun h4 h8 => ?_, fun hmis => ?_, ?_⟩
    · rw [csrStore_of_width h4 h8]
    · rw [csrStore_of_misaligned hmis]
    · rintro rfl hreg
      rw [csrStore_of_no_reg64 hreg]

end Sys2Proof.Machine
end

section
/-! PROOFS. The completion of a vector instruction (R200, R201, R214, R215): what the plank's rows leave alone as they are
brought up to date, when nothing follows the end of a unit, and the state that a completion leaves. -/

namespace Sys2Proof.Machine

-- What the plank's rows leave unchanged (log entry 15)

/-- k' differs from k only in what the plank's rows touch: operand store, accumulator banks, plank and its counters. -/
def RowsOnly (k k' : Cluster) : Prop :=
  k' = { k with ops := k'.ops, bankA := k'.bankA, bankB := k'.bankB, plk := k'.plk, cnt := k'.cnt }

theorem RowsOnly.trans {k k1 k2 : Cluster} (h1 : RowsOnly k k1) (h2 : RowsOnly k1 k2) : RowsOnly k k2 := by
  unfold RowsOnly at *
  rw [h2, h1]

theorem plankEv_rowsOnly (k : Cluster) (e : PlankEv) : RowsOnly k (k.plankEv e) := by
  cases e with
  | row q => rfl
  | stage q => rfl
  | load e => rfl
  | enter q => rfl

theorem runPlank_rowsOnly (held : Bool) (lim cyc : Nat) : ∀ (n : Nat) (k : Cluster), RowsOnly k (runPlank n held lim cyc k)
  | 0, _ => rfl
  | n + 1, k => by
    unfold runPlank
    split
    · rfl
    split
    · rfl
    · exact (plankEv_rowsOnly k _).trans (runPlank_rowsOnly held lim cyc n _)

theorem rowsNow_rowsOnly (s : State) (c : Fin 64) : RowsOnly (s.cl c) ((rowsNow s c).cl c) := by
  unfold rowsNow
  dsimp only
  split
  · rfl
  · rw [cl_setCl_same]
    exact runPlank_rowsOnly ..

@[simp] theorem rowsNow_cl_vec (s : State) (c : Fin 64) : ((rowsNow s c).cl c).vec = (s.cl c).vec :=
  (congrArg Cluster.vec (rowsNow_rowsOnly s c)).trans rfl
@[simp] theorem rowsNow_cl_vreg (s : State) (c : Fin 64) : ((rowsNow s c).cl c).vreg = (s.cl c).vreg :=
  (congrArg Cluster.vreg (rowsNow_rowsOnly s c)).trans rfl
@[simp] theorem rowsNow_cl_seq (s : State) (c : Fin 64) : ((rowsNow s c).cl c).seq = (s.cl c).seq :=
  (congrArg Cluster.seq (rowsNow_rowsOnly s c)).trans rfl
@[simp] theorem rowsNow_cl_dma (s : State) (c : Fin 64) : ((rowsNow s c).cl c).dma = (s.cl c).dma :=
  (congrArg Cluster.dma (rowsNow_rowsOnly s c)).trans rfl

theorem rowsNow_cl_other (s : State) {c d : Fin 64} (h : d ≠ c) : (rowsNow s c).cl d = s.cl d := by
  obtain ⟨k, hk⟩ := rowsNow_eq s c
  rw [hk, cl_setCl_other _ _ _ _ h.symm]

@[simp] theorem rowsNow_mem (s : State) (c : Fin 64) : (rowsNow s c).mem = s.mem := by
  obtain ⟨k, hk⟩ := rowsNow_eq s c
  rw [hk, setCl_mem]

@[simp] theorem rowsNow_log (s : State) (c : Fin 64) : (rowsNow s c).log = s.log := by
  obtain ⟨k, hk⟩ := rowsNow_eq s c
  rw [hk, setCl_log]

-- Operation counters and trace records (R506, R510)

@[simp] theorem cl_countOp (s : State) (p : Fin 8) (k n : Nat) (c : Fin 64) : (countOp s p k n).cl c = s.cl c := by
  unfold countOp
  split <;> rfl

@[simp] theorem countOp_mem (s : State) (p : Fin 8) (k n : Nat) : (countOp s p k n).mem = s.mem := by
  unfold countOp
  split <;> rfl

@[simp] theorem countOp_log (s : State) (p : Fin 8) (k n : Nat) : (countOp s p k n).log = s.log := by
  unfold countOp
  split <;> rfl

/-- A trace record that its enable bit decides on changes the trace buffer of its cluster at most. -/
theorem ite_traceRec_eq (b : Bool) (s : State) (c : Fin 64) (kind point value : Nat) :
    ∃ m r, (if b then traceRec s c kind point value else s) = s.setCl c { s.cl c with trace := m, trc := r } := by
  cases b with
  | true => exact ⟨_, _, rfl⟩
  | false => exact ⟨(s.cl c).trace, (s.cl c).trc, (setCl_self s c).symm⟩

-- What follows the end of a unit where nothing is left to do

theorem startVec_of_no_jobs {s : State} {c : Fin 64} (h : (s.cl c).vec.jobs = []) : startVec s c = s := by
  simp [startVec, h]

/-- An empty DMA queue holds no FLUSH whose record waits. -/
theorem writeFlushes_of_dma_nil {s : State} {c : Fin 64} (h : (s.cl c).dma = []) : writeFlushes s c = s := by
  have hk : { s.cl c with dma := [] } = s.cl c := by rw [← h]
  simp [writeFlushes, h, hk]

theorem settleSeq_of_no_stop {s : State} {c : Fin 64} (h : (s.cl c).seq.stopPend = none) (hd : (s.cl c).seq.draining = false) :
    settleSeq s c = s := by
  simp [settleSeq, h, hd]

theorem afterUnit_of_quiet {s : State} {c : Fin 64} (hdma : (s.cl c).dma = []) (hstop : (s.cl c).seq.stopPend = none)
    (hdrain : (s.cl c).seq.draining = false) : afterUnit s c = s := by
  rw [afterUnit, writeFlushes_of_dma_nil hdma, settleSeq_of_no_stop hstop hdrain]

/-- An engine without instructions starts none, and nothing more follows. -/
theorem afterUnit_startVec_of_quiet {s : State} {c : Fin 64} (hjobs : (s.cl c).vec.jobs = []) (hdma : (s.cl c).dma = [])
    (hstop : (s.cl c).seq.stopPend = none) (hdrain : (s.cl c).seq.draining = false) : afterUnit (startVec s c) c = s := by
  rw [startVec_of_no_jobs hjobs, afterUnit_of_quiet hdma hstop hdrain]

-- The completion (R200, R201, R214, R215)

/-- The cluster k once its only vector instruction j, with record rec0 and those counts, is complete. -/
def Cluster.vecDone (k : Cluster) (j : VecJob) (rec0 : Bytes) (sat nan : Nat) : Cluster :=
  { k with
    ops := k.ops.write 32 (compAddr j.word j.desc) (patchB rec0 8 (natLe 8 k.vec.index.toNat)) false
    vec := { k.vec with
      vop := BitVec.ofNat 8 (vecVop j.word), jobs := [], index := k.vec.index + 1, done := k.vec.done + 1
      sat := k.vec.sat + BitVec.ofNat 64 sat, nan := k.vec.nan + BitVec.ofNat 64 nan } }

@[simp] theorem vecDone_vec (k : Cluster) (j : VecJob) (rec0 : Bytes) (sat nan : Nat) : (k.vecDone j rec0 sat nan).vec = { k.vec with
    vop := BitVec.ofNat 8 (vecVop j.word), jobs := [], index := k.vec.index + 1, done := k.vec.done + 1
    sat := k.vec.sat + BitVec.ofNat 64 sat, nan := k.vec.nan + BitVec.ofNat 64 nan } := rfl
@[simp] theorem vecDone_ops (k : Cluster) (j : VecJob) (rec0 : Bytes) (sat nan : Nat) : (k.vecDone j rec0 sat nan).ops =
    k.ops.write 32 (compAddr j.word j.desc) (patchB rec0 8 (natLe 8 k.vec.index.toNat)) false := rfl
@[simp] theorem vecDone_vreg (k : Cluster) (j : VecJob) (rec0 : Bytes) (sat nan : Nat) : (k.vecDone j rec0 sat nan).vreg = k.vreg := rfl
@[simp] theorem vecDone_seq (k : Cluster) (j : VecJob) (rec0 : Bytes) (sat nan : Nat) : (k.vecDone j rec0 sat nan).seq = k.seq := rfl
@[simp] theorem vecDone_dma (k : Cluster) (j : VecJob) (rec0 : Bytes) (sat nan : Nat) : (k.vecDone j rec0 sat nan).dma = k.dma := rfl

/-- The state s, its rows up to date, once the completion of j is recorded and its active elements are counted. -/
def vecCounted (s : State) (c : Fin 64) (j : VecJob) (rec0 : Bytes) (active sat nan : Nat) : State :=
  countOp (s.setCl c ((s.cl c).vecDone j rec0 sat nan)) (clPart (s.cl c)) (32 + vecFx j.word j.desc) active

@[simp] theorem cl_vecCounted_same (s : State) (c : Fin 64) (j : VecJob) (rec0 : Bytes) (active sat nan : Nat) :
    (vecCounted s c j rec0 active sat nan).cl c = (s.cl c).vecDone j rec0 sat nan := by
  rw [vecCounted, cl_countOp, cl_setCl_same]

theorem cl_vecCounted_other (s : State) {c d : Fin 64} (h : d ≠ c) (j : VecJob) (rec0 : Bytes) (active sat nan : Nat) :
    (vecCounted s c j rec0 active sat nan).cl d = s.cl d := by
  rw [vecCounted, cl_countOp, cl_setCl_other _ _ _ _ h.symm]

@[simp] theorem vecCounted_mem (s : State) (c : Fin 64) (j : VecJob) (rec0 : Bytes) (active sat nan : Nat) :
    (vecCounted s c j rec0 active sat nan).mem = s.mem := by
  rw [vecCounted, countOp_mem, setCl_mem]

@[simp] theorem vecCounted_log (s : State) (c : Fin 64) (j : VecJob) (rec0 : Bytes) (active sat nan : Nat) :
    (vecCounted s c j rec0 active sat nan).log = s.log := by
  rw [vecCounted, countOp_log, setCl_log]

section
variable {s : State} {c : Fin 64} {j : VecJob} {rec0 : Bytes} {active sat nan : Nat}

/-- The engine's only instruction, once it executes, completes: recorded, counted, traced where DBG_TRC_CTRL.VEC asks for it (R510). -/
theorem completeVec_of_executing (hj : (s.cl c).vec.jobs = [j]) (hstart : j.start = some (rec0, active, sat, nan)) :
    completeVec s c = afterUnit (startVec (if ((rowsNow s c).cl c).trc.vec then
      traceRec (vecCounted (rowsNow s c) c j rec0 active sat nan) c 3 (vecVop j.word) ((rowsNow s c).cl c).vec.index.toNat
      else vecCounted (rowsNow s c) c j rec0 active sat nan) c) c := by
  simp only [completeVec, hj, hstart]
  rfl

/-- Where nothing else waits, a completion leaves what it records and counts, and at most a trace record. -/
theorem completeVec_of_last (hj : (s.cl c).vec.jobs = [j]) (hstart : j.start = some (rec0, active, sat, nan)) (hdma : (s.cl c).dma = [])
    (hstop : (s.cl c).seq.stopPend = none) (hdrain : (s.cl c).seq.draining = false) :
    ∃ m r, completeVec s c = (vecCounted (rowsNow s c) c j rec0 active sat nan).setCl c
      { ((rowsNow s c).cl c).vecDone j rec0 sat nan with trace := m, trc := r } := by
  obtain ⟨m, r, htrace⟩ := ite_traceRec_eq ((rowsNow s c).cl c).trc.vec (vecCounted (rowsNow s c) c j rec0 active sat nan) c 3
    (vecVop j.word) ((rowsNow s c).cl c).vec.index.toNat
  refine ⟨m, r, ?_⟩
  rw [completeVec_of_executing hj hstart, htrace, cl_vecCounted_same]
  apply afterUnit_startVec_of_quiet <;> simp [hdma, hstop, hdrain]

end

theorem exec_vecComplete_of_on {t : Nat} {c : Fin 64} {s : State} (hon : clOn s c = true) (hrun : (s.cl c).stalled = false) :
    exec (.vecComplete t c) s = .next (completeVec (tick t s) c) := by
  show execVecComplete t c s = _
  simp [execVecComplete, hon, hrun]

/-- Settles O18: the completion leaves the cluster vecDone, and neither the rows, the counter nor the trace record touches what it names. -/
theorem vectorInstructionCompletes : Obligations.VectorInstructionCompletes := by
  unfold Obligations.VectorInstructionCompletes
  intro t c s j rec0 active sat nan hon hrun hj hstart hdma hstop hdrain
  obtain ⟨m, r, hu⟩ := completeVec_of_last (s := tick t s) hj hstart hdma hstop hdrain
  refine ⟨_, exec_vecComplete_of_on hon hrun, ?_⟩
  rw [hu, cl_setCl_same]
  refine ⟨by simp, by simp, by simp, rfl, rfl, by simp, rfl, fun d hd => ?_, by simp, by simp⟩
  rw [cl_setCl_other _ _ _ _ hd.symm, cl_vecCounted_other _ hd, rowsNow_cl_other _ hd, cl_tick]

end Sys2Proof.Machine
end

section
/-! PROOFS. The poison of main memory after a write (R239, R240): the bytes that a write of a byte string gathers, how many of them lie in a
granule, and the flag that a commit leaves on it. -/

namespace Sys2Proof.Machine

-- Rising lists

theorem nsMem_nsSet_other {a x : Nat} (b : Bool) (hx : x ≠ a) :
    ∀ (l : List Nat) (lo : Nat), nsRises lo l = true → nsMem (nsSet l a b) x = nsMem l x
  | [], _, _ => by
    cases b with
    | false => rfl
    | true => simp [nsSet, nsMem, hx.symm]
  | k :: t, lo, h => by
    simp only [nsRises, Bool.and_eq_true, decide_eq_true_eq] at h
    have below : ∀ y, y ≤ k → nsMem t y = false := fun y hy => by
      cases t with
      | nil => rfl
      | cons z r =>
        simp only [nsRises, Bool.and_eq_true, decide_eq_true_eq] at h
        simp [nsMem, show z ≠ y by omega, show y < z by omega]
    obtain hk | hk | hk := Nat.lt_trichotomy k a
    · simp only [nsSet, nsMem, if_neg (Nat.ne_of_lt hk), if_neg (Nat.lt_asymm hk), nsMem_nsSet_other b hx t (k + 1) h.2]
    · subst hk
      cases b with
      | true => simp [nsSet]
      | false =>
        simp only [nsSet, nsMem, if_pos, if_neg hx.symm, Bool.false_eq_true, if_false]
        split
        · exact below x (by omega)
        · rfl
    · cases b with
      | false => simp only [nsSet, if_neg (Nat.ne_of_gt hk), if_pos hk, Bool.false_eq_true, if_false]
      | true =>
        simp only [nsSet, nsMem, if_neg (Nat.ne_of_gt hk), if_pos hk, if_neg hx.symm, if_true]
        split
        · rw [if_neg (by omega), if_pos (by omega)]
        · rfl

theorem mem_nsSet_true {a x : Nat} : ∀ l : List Nat, x ∈ nsSet l a true ↔ x = a ∨ x ∈ l
  | [] => by simp [nsSet]
  | k :: t => by
    unfold nsSet
    split
    · next hk => simp [hk]
    split
    · simp
    · rw [List.mem_cons, mem_nsSet_true t, List.mem_cons, or_left_comm]

/-- Setting units one after another, each to its own flag, leaves every unit at its flag where it is one of them. -/
theorem nsMem_foldl_nsSet (f : Nat → Bool) (u : Nat) :
    ∀ (us t : List Nat), nsRises 0 t = true → nsMem (us.foldl (fun (t : List Nat) v => nsSet t v (f v)) t) u = if u ∈ us then f u else nsMem t u
  | [], _, _ => by simp
  | v :: r, t, h => by
    rw [List.foldl_cons, nsMem_foldl_nsSet f u r _ (nsSet_rises v _ t 0 h (Nat.zero_le v))]
    by_cases hv : u = v
    · subst hv
      simp [nsMem_nsSet_same u _ t 0 h]
    · simp [hv, nsMem_nsSet_other _ hv t 0 h]

/-- A key past every key of the list goes to its end. -/
theorem alPut_of_all_lt {α : Type} {a : Nat} (v : α) : ∀ l : List (Nat × α), (∀ x ∈ l, x.1 < a) → alPut l a (some v) = l ++ [(a, v)]
  | [], _ => rfl
  | (k, x) :: t, h => by
    have hk : k < a := h (k, x) List.mem_cons_self
    rw [alPut, if_neg (Nat.ne_of_lt hk), if_neg (Nat.lt_asymm hk), alPut_of_all_lt v t (fun y hy => h y (List.mem_cons_of_mem _ hy)), List.cons_append]

/-- Induction over a list from its end, for what is gathered or folded from the left. -/
theorem concat_induction {α : Type} {P : List α → Prop} (nil : P []) (concat : ∀ l x, P l → P (l ++ [x])) (l : List α) : P l := by
  have key : ∀ r : List α, P r.reverse := by
    intro r
    induction r with
    | nil => exact nil
    | cons x r ih =>
      rw [List.reverse_cons]
      exact concat r.reverse x ih
  rw [← List.reverse_reverse l]
  exact key l.reverse

-- What a write of a byte string gathers

theorem wbytes_concat (a : Nat) (b : Bytes) (x : Byte) (p : Bool) :
    wbytes a (b ++ [x]) p = wbytes a b p ++ [{ addr := a + b.length, byte := x, poi := p }] := by
  simp [wbytes, List.zipIdx_append]

theorem mem_wbytes {a : Nat} {b : Bytes} {p : Bool} {w : WByte} (h : w ∈ wbytes a b p) :
    a ≤ w.addr ∧ w.addr < a + b.length ∧ w.poi = p := by
  obtain ⟨⟨x, i⟩, hx, rfl⟩ := List.mem_map.mp h
  have hi := (List.mem_zipIdx hx).2.1
  exact ⟨by simp, by simpa using hi, rfl⟩

theorem gather_concat (ws : List WByte) (w : WByte) : gather (ws ++ [w]) = alPut (gather ws) w.addr (some (w.byte, w.poi)) := by
  simp [gather, List.foldl_append]

/-- The bytes of a string lie at rising addresses, so each of them is gathered. -/
theorem gather_wbytes (a : Nat) (b : Bytes) (p : Bool) :
    gather (wbytes a b p) = (wbytes a b p).map (fun w => (w.addr, w.byte, w.poi)) := by
  induction b using concat_induction with
  | nil => rfl
  | concat b x ih =>
    have hlt : ∀ y ∈ gather (wbytes a b p), y.1 < a + b.length := by
      rw [ih]
      intro y hy
      obtain ⟨w, hw, rfl⟩ := List.mem_map.mp hy
      exact (mem_wbytes hw).2.1
    rw [wbytes_concat, gather_concat, alPut_of_all_lt _ _ hlt, ih, List.map_append]
    rfl

-- The bytes of a write that lie in one granule

/-- How many of the n bytes from a lie in granule g. -/
def granuleBytes (a n g : Nat) : Nat := min (a + n) (32 * g + 32) - max a (32 * g)

theorem length_filter_gather_wbytes (a : Nat) (b : Bytes) (p : Bool) (g : Nat) :
    ((gather (wbytes a b p)).filter (fun w => w.1 / 32 == g)).length = granuleBytes a b.length g := by
  rw [gather_wbytes]
  unfold granuleBytes
  induction b using concat_induction with
  | nil => simp only [wbytes, List.zipIdx_nil, List.map_nil, List.filter_nil, List.length_nil]; omega
  | concat b x ih =>
    rw [wbytes_concat, List.map_append, List.filter_append, List.length_append, ih, List.length_append, List.length_singleton]
    by_cases hg : (a + b.length) / 32 = g
    · simp only [List.map_cons, List.map_nil, List.filter_cons, hg, beq_self_eq_true, if_true, List.filter_nil, List.length_cons,
        List.length_nil]
      omega
    · simp only [List.map_cons, List.map_nil, List.filter_cons, beq_iff_eq, hg, if_false, List.filter_nil, List.length_nil]
      omega

/-- A granule of which every byte is written takes the poison of the write, and one that is written in part keeps its flag as well. -/
theorem unitFlag_wbytes (a : Nat) (b : Bytes) (p : Bool) (g : Nat) (old : Bool) :
    unitFlag 32 g old (gather (wbytes a b p)) =
      if granuleBytes a b.length g = 32 then p else if granuleBytes a b.length g = 0 then old else old || p := by
  unfold unitFlag
  dsimp only
  rw [length_filter_gather_wbytes]
  have hpoi : ∀ w ∈ (gather (wbytes a b p)).filter (fun w => w.1 / 32 == g), w.2.2 = p := by
    intro w hw
    rw [gather_wbytes] at hw
    obtain ⟨v, hv, rfl⟩ := List.mem_map.mp (List.mem_filter.mp hw).1
    exact (mem_wbytes hv).2.2
  have hlen := length_filter_gather_wbytes a b p g
  generalize (gather (wbytes a b p)).filter (fun w => w.1 / 32 == g) = mine at hpoi hlen
  rw [← hlen]
  cases mine with
  | nil => simp
  | cons w r =>
    have hany : (w :: r).any (fun w => w.2.2) = p := by
      rw [Bool.eq_iff_iff, List.any_eq_true]
      exact ⟨fun ⟨v, hv, h⟩ => by rwa [← hpoi v hv], fun h => ⟨w, List.mem_cons_self, by rw [hpoi w List.mem_cons_self, h]⟩⟩
    rw [hany]
    simp

-- The flags of units after a commit

theorem mem_unitsTouched {g u : Nat} {ws : List (Nat × Byte × Bool)} : u ∈ unitsTouched g ws ↔ ∃ w ∈ ws, w.1 / g = u := by
  have key : ∀ (ws : List (Nat × Byte × Bool)) (l : List Nat),
      u ∈ ws.foldl (fun l w => nsSet l (w.1 / g) true) l ↔ u ∈ l ∨ ∃ w ∈ ws, w.1 / g = u := by
    intro ws
    induction ws with
    | nil => simp
    | cons w r ih =>
      intro l
      have hcons : (∃ v ∈ w :: r, v.1 / g = u) ↔ u = w.1 / g ∨ ∃ v ∈ r, v.1 / g = u := by
        simp only [List.mem_cons, or_and_right, exists_or, exists_eq_left, eq_comm (a := u)]
      rw [List.foldl_cons, ih, mem_nsSet_true, hcons, or_assoc, or_left_comm]
  exact (key ws []).trans (or_iff_right List.not_mem_nil)

/-- A unit that no write touches keeps its flag. -/
theorem unitFlag_of_not_touched {g u : Nat} (hg : g ≠ 0) {ws : List (Nat × Byte × Bool)} (h : u ∉ unitsTouched g ws) (old : Bool) :
    unitFlag g u old ws = old := by
  have hnil : ws.filter (fun w => w.1 / g == u) = [] := by
    rw [List.filter_eq_nil_iff]
    intro w hw hu
    exact h (mem_unitsTouched.mpr ⟨w, hw, by simpa using hu⟩)
  simp [unitFlag, hnil, hg.symm]

/-- Which address is held by which keys does not depend on the stored bytes and flags. -/
@[simp] theorem dramAt_commit (m : Mem) (ws : List WByte) (x : Nat) : dramAt (m.commit ws) x = dramAt m x := rfl

theorem dramPoi_of_held {m : Mem} {g k : Nat} (h : dramAt m (32 * g) = .held k) : dramPoi m (32 * g) = nsMem m.poison g := by
  simp [dramPoi, h]

/-- Where every address written is held, a commit leaves on each granule the flag that the writes to it give. -/
theorem nsMem_poison_commit {m : Mem} {ws : List WByte} (hm : m.wf = true) (hheld : ∀ w ∈ ws, ∃ k, dramAt m w.addr = .held k) (g : Nat) :
    nsMem (m.commit ws).poison g = unitFlag 32 g (nsMem m.poison g) (gather ws) := by
  have hfold := nsMem_foldl_nsSet (fun u => unitFlag 32 u (nsMem m.poison u) (gather ws)) g (unitsTouched 32 (gather ws)) m.poison
    ((Mem.wf_iff m).mp hm).2
  unfold Mem.commit
  dsimp only
  rw [List.filter_eq_self.mpr, hfold]
  · split
    · rfl
    · next h => exact (unitFlag_of_not_touched (by decide) h _).symm
  · intro w hw
    obtain ⟨k, hk⟩ := hheld w hw
    simp only [hk]

/-- Settles O21: the flag that a write leaves on a granule is decided by how many of its 32 bytes the write covers. -/
theorem writesCarryTheirPoison : Obligations.WritesCarryTheirPoison := by
  unfold Obligations.WritesCarryTheirPoison
  intro m a b p g hm hheld ⟨k, hk⟩
  dsimp only
  have hws : ∀ w ∈ wbytes a b p, ∃ k, dramAt m w.addr = .held k := fun w hw => hheld _ (mem_wbytes hw).1 (mem_wbytes hw).2.1
  rw [dramPoi_of_held hk, dramPoi_of_held ((dramAt_commit m _ _).trans hk), nsMem_poison_commit hm hws, unitFlag_wbytes]
  unfold granuleBytes
  refine ⟨fun hlo hhi => ?_, fun hout => ?_, fun hb hpart hlo hhi => ?_⟩
  · rw [if_pos (by omega)]
  · rw [if_neg (by omega), if_pos (by omega)]
  · have hlen : 0 < b.length := List.length_pos_iff.mpr hb
    rw [if_neg (by omega), if_neg (by omega)]

end Sys2Proof.Machine
end

section
/-! PROOFS. Training and rebuilding of channels (R234, R243, R244): what a change of one controller group leaves alone, the failure of a channel,
the training of a group, and the retry and the end of a rebuild. -/

namespace Sys2Proof.Machine

-- Elements of vectors

theorem get_vectorOfFn {α : Type} {n : Nat} (f : Fin n → α) (i : Fin n) : (Vector.ofFn f).get i = f i := Vector.getElem_ofFn i.isLt

theorem get_vectorMap {α β : Type} {n : Nat} (f : α → β) (v : Vector α n) (i : Fin n) : (v.map f).get i = f (v.get i) :=
  Vector.getElem_map f i.isLt

-- Changes of one controller group

@[simp] theorem mg_logEv (s : State) (a b c : Nat) (l : Bytes) (g : Fin 8) : (logEv s a b c l).mg g = s.mg g :=
  congrArg (fun m : Mem => m.mgs.get g) (logEv_mem s a b c l)

@[simp] theorem mgOn_tick (t : Nat) (s : State) (g : Fin 8) : mgOn (tick t s) g = mgOn s g := rfl

@[simp] theorem mg_setChan_same (s : State) (g : Fin 8) (n : Fin 24) (c : Chan) :
    (setChan s g n c).mg g = { s.mg g with chans := vset (s.mg g).chans n c } := mg_setMg_same ..

@[simp] theorem mg_setPgrp_same (s : State) (g : Fin 8) (m : Fin 2) (x : Pgrp) :
    (setPgrp s g m x).mg g = { s.mg g with pgrps := vset (s.mg g).pgrps m x } := mg_setMg_same ..

@[simp] theorem setChan_now (s : State) (g : Fin 8) (n : Fin 24) (c : Chan) : (setChan s g n c).now = s.now := rfl

/-- Writing back the group that stands there changes nothing. -/
theorem setMg_self (s : State) (g : Fin 8) : s.setMg g (s.mg g) = s := by
  have h : vset s.mem.mgs g (s.mem.mgs.get g) = s.mem.mgs := Vector.set_getElem_self g.isLt
  unfold State.setMg State.mg
  rw [h]

theorem setPgrp_self (s : State) (g : Fin 8) (m : Fin 2) : setPgrp s g m ((s.mg g).pgrps.get m) = s := by
  have h : vset (s.mg g).pgrps m ((s.mg g).pgrps.get m) = (s.mg g).pgrps := Vector.set_getElem_self m.isLt
  unfold setPgrp
  rw [h]
  exact setMg_self s g

/-- Between s and u the state of group g may have changed; every other group, the stored bytes with their flags and owners, the clusters
and start-up stay. -/
structure OnlyMg (g : Fin 8) (s u : State) : Prop where
  clusters : u.clusters = s.clusters
  boot : u.boot = s.boot
  cells : u.mem.cells = s.mem.cells
  poison : u.mem.poison = s.mem.poison
  owners : u.mem.owners = s.mem.owners
  mg : ∀ h, h ≠ g → u.mg h = s.mg h

namespace OnlyMg

theorem refl (g : Fin 8) (s : State) : OnlyMg g s s := ⟨rfl, rfl, rfl, rfl, rfl, fun _ _ => rfl⟩

theorem trans {g : Fin 8} {s t u : State} (h1 : OnlyMg g s t) (h2 : OnlyMg g t u) : OnlyMg g s u :=
  ⟨h2.clusters.trans h1.clusters, h2.boot.trans h1.boot, h2.cells.trans h1.cells, h2.poison.trans h1.poison, h2.owners.trans h1.owners,
    fun h hh => (h2.mg h hh).trans (h1.mg h hh)⟩

theorem tick (g : Fin 8) (t : Nat) (s : State) : OnlyMg g s (tick t s) := ⟨rfl, rfl, rfl, rfl, rfl, fun _ _ => rfl⟩

theorem setMg (s : State) (g : Fin 8) (x : Mg) : OnlyMg g s (s.setMg g x) :=
  ⟨rfl, rfl, rfl, rfl, rfl, fun h hh => mg_setMg_other s g x h hh.symm⟩

theorem setChan (s : State) (g : Fin 8) (n : Fin 24) (c : Chan) : OnlyMg g s (setChan s g n c) := setMg s g _

theorem setPgrp (s : State) (g : Fin 8) (m : Fin 2) (x : Pgrp) : OnlyMg g s (setPgrp s g m x) := setMg s g _

theorem logEv (g : Fin 8) (s : State) (a b c : Nat) (l : Bytes) : OnlyMg g s (logEv s a b c l) :=
  ⟨by simp, by simp, by simp, by simp, by simp, fun _ _ => by simp⟩

end OnlyMg

-- The failure of a channel (R243)

/-- The failure of a channel as far as it goes without parity: FAILED, MEM_ERR.CHAN_FAIL and the log entry. -/
def chanFailed (s : State) (g : Fin 8) (n : Fin 24) : State :=
  let c := (s.mg g).chans.get n
  let s1 := setChan s g n { c with state := 3, ueAt := [] }
  logEv (s1.setMg g { s1.mg g with err := (s1.mg g).err ||| 0x4 }) (0x0100 + g.val) 0x4003 c.owner.toNat (payload [])

@[simp] theorem mg_chanFailed_same (s : State) (g : Fin 8) (n : Fin 24) : (chanFailed s g n).mg g = { s.mg g with
    chans := vset (s.mg g).chans n { (s.mg g).chans.get n with state := 3, ueAt := [] }, err := (s.mg g).err ||| 4 } := by
  simp [chanFailed]

theorem OnlyMg.chanFailed (s : State) (g : Fin 8) (n : Fin 24) : OnlyMg g s (chanFailed s g n) :=
  ((OnlyMg.setChan s g n _).trans (OnlyMg.setMg _ g _)).trans (OnlyMg.logEv g _ ..)

theorem failChan_of_no_parity {s : State} {g : Fin 8} {n : Fin 24} (h : ((s.mg g).pgrps.get (chanPgrp n)).enabled = false) :
    failChan s g n = chanFailed s g n := by
  have hx : (((chanFailed s g n).mg g).pgrps.get (chanPgrp n)).enabled = false := by rw [mg_chanFailed_same, h]
  exact if_pos (by rw [Bool.not_eq_true']; exact hx)

/-- The first failure of a protected group. -/
theorem failChan_of_protected {s : State} {g : Fin 8} {n : Fin 24} (hen : ((s.mg g).pgrps.get (chanPgrp n)).enabled = true)
    (hst : ((s.mg g).pgrps.get (chanPgrp n)).state = 0) :
    failChan s g n = setPgrp (chanFailed s g n) g (chanPgrp n) { ((chanFailed s g n).mg g).pgrps.get (chanPgrp n) with
      state := 1, failed := BitVec.ofNat 4 (chanIdx n), retries := 0, retryAt := (chanFailed s g n).now } := by
  have hx : ((chanFailed s g n).mg g).pgrps.get (chanPgrp n) = (s.mg g).pgrps.get (chanPgrp n) := by rw [mg_chanFailed_same]
  rw [← hx] at hen hst
  exact (if_neg (by rw [Bool.not_eq_true', Bool.not_eq_false]; exact hen)).trans (if_pos hst)

theorem exec_periodicRetraining_ok (t : Nat) (g : Fin 8) (n : Fin 24) (s : State) :
    exec (.periodicRetraining t g n true) s = .next (tick t s) := by
  show execPeriodicRetraining t g n true s = _
  simp [execPeriodicRetraining]

theorem exec_periodicRetraining_failed {t : Nat} {g : Fin 8} {n : Fin 24} {s : State} (hon : mgOn s g = true)
    (hact : ((s.mg g).chans.get n).state = 1) : exec (.periodicRetraining t g n false) s = .next (failChan (tick t s) g n) := by
  show execPeriodicRetraining t g n false s = _
  simp [execPeriodicRetraining, hon, hact]

/-- The channels of l that `bad` names have failed between s and u, in a group without parity. -/
structure ChansFailed (g : Fin 8) (bad : BitVec 24) (l : List (Fin 24)) (s u : State) : Prop where
  only : OnlyMg g s u
  rest : ∃ cs e, u.mg g = { s.mg g with chans := cs, err := e }
  state : ∀ j, ((u.mg g).chans.get j).state = if j ∈ l ∧ bad.getLsbD j.val = true then 3 else ((s.mg g).chans.get j).state
  err : (∃ n ∈ l, bad.getLsbD n.val = true) → (u.mg g).err &&& 4 = 4

theorem or_four_and_four (e : BitVec 6) : (e ||| 4) &&& 4 = 4 := by
  revert e
  decide

/-- The channels that could not be trained, one of those of a group. -/
def failBad (g : Fin 8) (bad : BitVec 24) (t : State) (n : Fin 24) : State := if bad.getLsbD n.val then failChan t g n else t

theorem chansFailed_foldl {s : State} {g : Fin 8} (hoff : ∀ m : Fin 2, ((s.mg g).pgrps.get m).enabled = false) (bad : BitVec 24)
    (l : List (Fin 24)) : ChansFailed g bad l s (l.foldl (failBad g bad) s) := by
  induction l using concat_induction with
  | nil => exact ⟨OnlyMg.refl g s, ⟨_, _, rfl⟩, fun j => by simp, fun ⟨n, hn, _⟩ => absurd hn List.not_mem_nil⟩
  | concat l n ih =>
    rw [List.foldl_append]
    generalize l.foldl (failBad g bad) s = t at ih
    obtain ⟨honly, ⟨cs, e, hmg⟩, hstate, herr⟩ := ih
    by_cases hn : bad.getLsbD n.val = true
    · have hfail : [n].foldl (failBad g bad) t = chanFailed t g n := by
        rw [List.foldl_cons, List.foldl_nil, failBad, if_pos hn, failChan_of_no_parity (by rw [hmg]; exact hoff _)]
      rw [hfail]
      refine ⟨honly.trans (.chanFailed t g n), ⟨_, _, by rw [mg_chanFailed_same, hmg]⟩, fun j => ?_, fun _ => ?_⟩
      · rw [mg_chanFailed_same, vset_get]
        by_cases hj : n = j
        · subst hj
          simp [hn]
        · simp [hj, Ne.symm hj, hstate]
      · rw [mg_chanFailed_same]
        exact or_four_and_four _
    · have hskip : [n].foldl (failBad g bad) t = t := by
        rw [List.foldl_cons, List.foldl_nil, failBad, if_neg hn]
      rw [hskip]
      refine ⟨honly, ⟨cs, e, hmg⟩, fun j => ?_, fun ⟨k, hk, hb⟩ => herr ⟨k, ?_, hb⟩⟩
      · have hmem : (j ∈ l ++ [n] ∧ bad.getLsbD j.val = true) ↔ (j ∈ l ∧ bad.getLsbD j.val = true) := by
          rw [List.mem_append, List.mem_singleton]
          exact ⟨fun ⟨hj, hb⟩ => ⟨hj.resolve_right fun h => hn (h ▸ hb), hb⟩, fun ⟨hj, hb⟩ => ⟨.inl hj, hb⟩⟩
        simp only [hstate, hmem]
      · have hkn : k ≠ n := fun h => hn (h ▸ hb)
        simpa [hkn] using hk

theorem foldl_failBad_zero (g : Fin 8) (l : List (Fin 24)) (s : State) : l.foldl (failBad g 0) s = s := by
  induction l with
  | nil => rfl
  | cons n r ih => simpa [failBad] using ih

-- The training of a group (R234)

/-- The state with the fall-backs noted that lead to a rate code. -/
def fallenBack (s : State) (g : Fin 8) (code : Nat) : State :=
  let s1 := if code < 3 then logFallback s g 2 else s
  if code < 2 then logFallback s1 g 1 else s1

theorem trainMg_none (s : State) (g : Fin 8) (bad : BitVec 24) :
    trainMg s g none bad = (fallenBack s g 0).setMg g { (fallenBack s g 0).mg g with failed := true } := rfl

theorem trainMg_some (s : State) (g : Fin 8) (r : Rate) (bad : BitVec 24) :
    trainMg s g (some r) bad = (List.finRange 24).foldl (failBad g bad) (trainedMg (fallenBack s g (rateCode r)) g (rateCode r)) := rfl

theorem OnlyMg.logFallback (s : State) (g : Fin 8) (code : Nat) : OnlyMg g s (logFallback s g code) :=
  (OnlyMg.setMg s g _).trans (OnlyMg.logEv g _ ..)

@[simp] theorem mg_logFallback_same (s : State) (g : Fin 8) (code : Nat) :
    (logFallback s g code).mg g = { s.mg g with err := (s.mg g).err ||| 0x10 } := by
  simp [logFallback]

/-- A fall-back changes MEM_ERR of its group alone. -/
theorem fallenBack_keeps (s : State) (g : Fin 8) (code : Nat) :
    OnlyMg g s (fallenBack s g code) ∧ ∃ e, (fallenBack s g code).mg g = { s.mg g with err := e } := by
  have once : ∀ (b : Prop) [Decidable b] (c : Nat) (t : State), (OnlyMg g s t ∧ ∃ e, t.mg g = { s.mg g with err := e }) →
      OnlyMg g s (if b then logFallback t g c else t) ∧ ∃ e, (if b then logFallback t g c else t).mg g = { s.mg g with err := e } := by
    intro b _ c t ⟨honly, e, he⟩
    split
    · exact ⟨honly.trans (.logFallback t g c), _, by rw [mg_logFallback_same, he]⟩
    · exact ⟨honly, e, he⟩
  exact once _ 1 _ (once _ 2 s ⟨OnlyMg.refl g s, _, rfl⟩)

/-- Group g is trained in t at a rate, every channel ACTIVE but for those of `bad`, which are FAILED; clusters and start-up are those of s. -/
structure TrainedAt (g : Fin 8) (code : Nat) (bad : BitVec 24) (s t : State) : Prop where
  clusters : t.clusters = s.clusters
  boot : t.boot = s.boot
  trained : (t.mg g).trained = true
  failed : (t.mg g).failed = false
  rate : (t.mg g).rate = BitVec.ofNat 2 code
  chans : ∀ j, ((t.mg g).chans.get j).state = if bad.getLsbD j.val then 3 else 1

/-- The bits of the parity groups of controller group g name no group of another one. -/
theorem eq_of_bitAt_parity {v : Nat} {g h : Fin 8} {m : Fin 2} (hb : bitAt (v &&& (3 <<< (2 * g.val))) (2 * h.val + m.val) = true) : h = g := by
  have hbit : (v &&& (3 <<< (2 * g.val))).testBit (2 * h.val + m.val) = true := by
    rw [Nat.testBit_eq_decide_div_mod_eq]
    exact hb
  rw [Nat.testBit_and, Nat.testBit_shiftLeft, Bool.and_eq_true, Bool.and_eq_true, decide_eq_true_eq] at hbit
  obtain ⟨-, hlo, hthree⟩ := hbit
  have hhi : 2 * h.val + m.val - 2 * g.val < 2 := Nat.lt_of_not_le fun hge => by
    have hpow : 3 < 2 ^ (2 * h.val + m.val - 2 * g.val) :=
      Nat.lt_of_lt_of_le (by decide : 3 < 2 ^ 2) (Nat.pow_le_pow_right (by decide) hge)
    rw [Nat.testBit_lt_two_pow hpow] at hthree
    cases hthree
  omega

theorem failedIn_of_none_failed {k : Mg} (h : ∀ j, (k.chans.get j).state = 1) (m : Fin 2) : failedIn k m = [] := by
  simp [failedIn, h]

/-- Parity that is switched on while no channel has failed leaves the state of the group. -/
theorem enablePgrp_nil_state (now : Nat) (x : Pgrp) : (enablePgrp now x []).state = x.state := by
  unfold enablePgrp
  split <;> rfl

theorem TrainedAt.setMg {g : Fin 8} {code : Nat} {bad : BitVec 24} {s t : State} (ht : TrainedAt g code bad s t) (h : Fin 8) {x : Mg}
    (htr : x.trained = (t.mg h).trained) (hfl : x.failed = (t.mg h).failed) (hrt : x.rate = (t.mg h).rate)
    (hch : h = g → ∀ j, (x.chans.get j).state = ((t.mg h).chans.get j).state) : TrainedAt g code bad s (t.setMg h x) := by
  obtain ⟨hcl, hbt, htrained, hfailed, hrate, hchans⟩ := ht
  by_cases hh : h = g
  · subst hh
    refine ⟨hcl, hbt, ?_, ?_, ?_, fun j => ?_⟩ <;> rw [mg_setMg_same]
    · exact htr.trans htrained
    · exact hfl.trans hfailed
    · exact hrt.trans hrate
    · exact (hch rfl j).trans (hchans j)
  · refine ⟨hcl, hbt, ?_, ?_, ?_, fun j => ?_⟩ <;> rw [mg_setMg_other _ _ _ _ hh]
    · exact htrained
    · exact hfailed
    · exact hrate
    · exact hchans j

/-- What an owner declares of a group with every channel ACTIVE leaves the training: no channel changes its state, and no group is lost. -/
theorem TrainedAt.claimChans {g : Fin 8} {code : Nat} {s t : State} (ht : TrainedAt g code 0 s t) (i : Fin 9) (pkgs : Nat) {parity : Nat}
    (hpar : ∀ (h : Fin 8) (m : Fin 2), bitAt parity (2 * h.val + m.val) = true → h = g) :
    TrainedAt g code 0 s (claimChans t i pkgs parity) := by
  refine foldl_keeps (P := TrainedAt g code 0 s) ht fun t h ht => ?_
  have hact : h = g → ∀ j, ((t.mg h).chans.get j).state = 1 := fun hh j => by
    rw [hh, ht.chans j]
    simp
  dsimp only
  refine foldl_keeps (P := TrainedAt g code 0 s) (ht.setMg h rfl rfl rfl fun hh j => ?_) fun u m hu => ?_
  · rw [get_vectorOfFn]
    split
    · simp [hact hh j]
    · rfl
  · rw [if_neg]
    · exact hu
    · rw [Bool.and_eq_true, bne_iff_ne, beq_iff_eq, get_vectorOfFn]
      rintro ⟨hne, hlost⟩
      split at hlost
      · next hbit =>
        rw [failedIn_of_none_failed (hact (hpar h m hbit)), enablePgrp_nil_state] at hlost
        exact hne hlost
      · split at hlost
        · exact absurd hlost (by decide)
        · exact hne hlost

/-- Group g marked as trained, before its owners claim its channels. -/
def markedTrained (s : State) (g : Fin 8) (code : Nat) : State := s.setMg g { s.mg g with
  trained := true, rate := BitVec.ofNat 2 code, chans := (s.mg g).chans.map (fun c => { c with state := 1 }) }

theorem markedTrained_trainedAt {s : State} {g : Fin 8} (hf : (s.mg g).failed = false) (code : Nat) :
    TrainedAt g code 0 s (markedTrained s g code) := by
  refine ⟨rfl, rfl, ?_, ?_, ?_, fun j => ?_⟩ <;> rw [markedTrained, mg_setMg_same]
  · exact hf
  · rw [get_vectorMap]
    simp

theorem trainedMg_trainedAt {s : State} {g : Fin 8} (hf : (s.mg g).failed = false) (code : Nat) : TrainedAt g code 0 s (trainedMg s g code) := by
  refine foldl_keeps (P := TrainedAt g code 0 s) (markedTrained_trainedAt hf code) fun t i ht => ?_
  split
  · exact ht
  · exact ht.claimChans i _ fun h m hb => eq_of_bitAt_parity hb

/-- Nobody claims channels of a group while main memory has no owner. -/
theorem trainedMg_of_no_owners {s : State} (ho : ∀ i, s.mem.owners.get i = none) (g : Fin 8) (code : Nat) :
    trainedMg s g code = markedTrained s g code := by
  refine foldl_keeps (P := (· = markedTrained s g code)) rfl fun t i ht => ?_
  have hi : t.mem.owners.get i = none := by
    rw [ht]
    exact ho i
  rw [hi]
  exact ht

/-- The channels that could not be trained fail, in a trained group without parity. -/
theorem TrainedAt.failBad {g : Fin 8} {code : Nat} {s t : State} (ht : TrainedAt g code 0 s t) (bad : BitVec 24)
    (hoff : ∀ m : Fin 2, ((t.mg g).pgrps.get m).enabled = false) :
    TrainedAt g code bad s ((List.finRange 24).foldl (failBad g bad) t) := by
  obtain ⟨honly, ⟨cs, e, hmg⟩, hstate, -⟩ := chansFailed_foldl hoff bad (List.finRange 24)
  refine ⟨honly.clusters.trans ht.clusters, honly.boot.trans ht.boot, ?_, ?_, ?_, fun j => ?_⟩
  · rw [hmg]
    exact ht.trained
  · rw [hmg]
    exact ht.failed
  · rw [hmg]
    exact ht.rate
  · rw [hstate, ht.chans j]
    simp

theorem exists_getLsbD_of_ne_zero {w : Nat} {b : BitVec w} (h : b ≠ 0) : ∃ n : Fin w, b.getLsbD n.val = true := by
  refine Classical.byContradiction fun hall => h (BitVec.eq_of_getLsbD_eq fun i hi => ?_)
  rw [BitVec.ofNat_eq_ofNat, BitVec.getLsbD_zero]
  exact Bool.eq_false_iff.mpr fun hb => hall ⟨⟨i, hi⟩, hb⟩

/-- Training at a rate: every channel could be trained, or the group has no owner and no parity yet. -/
theorem trainMg_trainedAt {s : State} {g : Fin 8} (hf : (s.mg g).failed = false) (r : Rate) {bad : BitVec 24}
    (hbad : bad = 0 ∨ ((∀ i : Fin 9, s.mem.owners.get i = none) ∧ ∀ m : Fin 2, ((s.mg g).pgrps.get m).enabled = false)) :
    TrainedAt g (rateCode r) bad s (trainMg s g (some r) bad) ∧ (bad ≠ 0 → ((trainMg s g (some r) bad).mg g).err &&& 4 = 4) := by
  rw [trainMg_some]
  obtain ⟨hback, e, he⟩ := fallenBack_keeps s g (rateCode r)
  generalize fallenBack s g (rateCode r) = t at he hback
  have htrained := trainedMg_trainedAt (s := t) (g := g) (by rw [he]; exact hf) (rateCode r)
  replace htrained : TrainedAt g (rateCode r) 0 s (trainedMg t g (rateCode r)) :=
    { htrained with clusters := htrained.clusters.trans hback.clusters, boot := htrained.boot.trans hback.boot }
  obtain rfl | ⟨hown, hoff⟩ := hbad
  · rw [foldl_failBad_zero]
    exact ⟨htrained, fun h => absurd rfl h⟩
  · have hoff' : ∀ m : Fin 2, (((trainedMg t g (rateCode r)).mg g).pgrps.get m).enabled = false := fun m => by
      rw [trainedMg_of_no_owners (fun i => by rw [hback.owners, hown i]), markedTrained, mg_setMg_same, he]
      exact hoff m
    refine ⟨htrained.failBad bad hoff', fun h => (chansFailed_foldl hoff' bad _).err ?_⟩
    obtain ⟨n, hn⟩ := exists_getLsbD_of_ne_zero h
    exact ⟨n, List.mem_finRange n, hn⟩

theorem finishStage6_of_stage {s : State} (h : s.boot.stage ≠ 6) : finishStage6 s = s := if_neg fun hc => h hc.1

theorem hostMemFail_of_stage {s : State} (h : s.boot.stage ≠ 6) (g : Fin 8) : hostMemFail s g = s := if_neg fun hc => h hc.1

section
variable {s : State} {g : Fin 8}

theorem exec_mgTrain_some (hon : mgOn s g = true) (htr : (s.mg g).trained = false) (hf : (s.mg g).failed = false) (t : Nat) (r : Rate)
    (bad : BitVec 24) : exec (.mgTrain t g (some (r, bad))) s = .next (finishStage6 (trainMg (tick t s) g (some r) bad)) := by
  show execMgTrain t g (some (r, bad)) s = _
  simp [execMgTrain, hon, htr, hf]

theorem exec_mgTrain_none (hon : mgOn s g = true) (htr : (s.mg g).trained = false) (hf : (s.mg g).failed = false) (t : Nat) :
    exec (.mgTrain t g none) s = .next (hostMemFail (trainMg (tick t s) g none 0) g) := by
  show execMgTrain t g none s = _
  simp [execMgTrain, hon, htr, hf]

end

-- Rebuilding (R244)

/-- A rebuild that begins now starts at unit 0. -/
theorem progress_of_since_eq {x : Pgrp} {now : Nat} (h : x.since = now) : x.progress now = 0 := by
  simp [Pgrp.progress, h]

/-- The state in which channel n of a DEGRADED group rebuilds. -/
def rebuildBegun (s : State) (g : Fin 8) (m : Fin 2) (n : Fin 24) : State :=
  setPgrp (setChan s g n { (s.mg g).chans.get n with state := 4 }) g m { (s.mg g).pgrps.get m with state := 2, since := s.now }

@[simp] theorem rebuildBegun_now (s : State) (g : Fin 8) (m : Fin 2) (n : Fin 24) : (rebuildBegun s g m n).now = s.now := rfl

@[simp] theorem mg_rebuildBegun_same (s : State) (g : Fin 8) (m : Fin 2) (n : Fin 24) : (rebuildBegun s g m n).mg g = { s.mg g with
    chans := vset (s.mg g).chans n { (s.mg g).chans.get n with state := 4 }
    pgrps := vset (s.mg g).pgrps m { (s.mg g).pgrps.get m with state := 2, since := s.now } } := by
  simp [rebuildBegun]

theorem OnlyMg.rebuildBegun (s : State) (g : Fin 8) (m : Fin 2) (n : Fin 24) : OnlyMg g s (rebuildBegun s g m n) :=
  (OnlyMg.setChan s g n _).trans (OnlyMg.setPgrp _ g m _)

theorem retryRebuild_of_degraded {s : State} {g : Fin 8} {m : Fin 2} {n : Fin 24} (hon : mgOn s g = true)
    (hn : failedChan ((s.mg g).pgrps.get m) m = some n) (hen : ((s.mg g).pgrps.get m).enabled = true)
    (hst : ((s.mg g).pgrps.get m).state = 1) : retryRebuild s g m true = rebuildBegun s g m n := by
  simp [retryRebuild, hn, hon, hen, hst, rebuildBegun]

/-- The group with a retry noted. -/
def retryNoted (s : State) (g : Fin 8) (m : Fin 2) (retries retryAt : Nat) : State :=
  setPgrp s g m { (s.mg g).pgrps.get m with retries := retries, retryAt := retryAt }

@[simp] theorem mg_retryNoted_same (s : State) (g : Fin 8) (m : Fin 2) (r a : Nat) : (retryNoted s g m r a).mg g = { s.mg g with
    pgrps := vset (s.mg g).pgrps m { (s.mg g).pgrps.get m with retries := r, retryAt := a } } := mg_setPgrp_same ..

/-- Noting the retries that stand there changes nothing. -/
theorem retryNoted_self (s : State) (g : Fin 8) (m : Fin 2) :
    retryNoted s g m ((s.mg g).pgrps.get m).retries ((s.mg g).pgrps.get m).retryAt = s := setPgrp_self s g m

theorem exec_rebuildRetry_of_due {t : Nat} {g : Fin 8} {m : Fin 2} {s : State} (hauto : (s.mg g).rebuild = true)
    (hst : ((s.mg g).pgrps.get m).state = 1) (hcnt : ((s.mg g).pgrps.get m).retries < 3)
    (hdue : ((s.mg g).pgrps.get m).retryAt + 100000000 ≤ max s.now t) (ok : Bool) :
    exec (.rebuildRetry t g m ok) s =
      .next (retryRebuild (retryNoted (tick t s) g m (((s.mg g).pgrps.get m).retries + 1) (max s.now t)) g m ok) := by
  have hel : elapsed (tick t s).now ((s.mg g).pgrps.get m).retryAt 100000000 = true := decide_eq_true hdue
  exact if_pos (by simp only [mg_tick, hauto, hst, hcnt, hel, decide_true, beq_self_eq_true, Bool.and_self])

/-- Command i asks for a retry that succeeds: REBUILD_RETRY where an automatic retry is due, or REBUILD_NOW of the group. -/
def AsksRetry (t : Nat) (g : Fin 8) (m : Fin 2) (s : State) (i : Instr) : Prop :=
  (i = .rebuildRetry t g m true ∧ (s.mg g).rebuild = true ∧ ((s.mg g).pgrps.get m).retries < 3 ∧
      ((s.mg g).pgrps.get m).retryAt + 100000000 ≤ max s.now t) ∨
    (i = .memCtrlRebuildNow0 t .sched g true ∧ m = 0) ∨ (i = .memCtrlRebuildNow1 t .sched g true ∧ m = 1)

/-- Each command that asks for a retry retries, with the retries noted or as they were. -/
theorem exec_of_asksRetry {t : Nat} {g : Fin 8} {m : Fin 2} {s : State} {i : Instr} (hst : ((s.mg g).pgrps.get m).state = 1)
    (hi : AsksRetry t g m s i) : ∃ r a, exec i s = .next (retryRebuild (retryNoted (tick t s) g m r a) g m true) := by
  obtain ⟨rfl, hauto, hcnt, hdue⟩ | ⟨rfl, rfl⟩ | ⟨rfl, rfl⟩ := hi
  · exact ⟨_, _, exec_rebuildRetry_of_due hauto hst hcnt hdue true⟩
  · exact ⟨_, _, by rw [retryNoted_self]; rfl⟩
  · exact ⟨_, _, by rw [retryNoted_self]; rfl⟩

/-- The state once the last unit of a rebuild is written, before it is logged. -/
def rebuildEnded (s : State) (g : Fin 8) (m : Fin 2) (n : Fin 24) : State :=
  setPgrp (setChan s g n { (s.mg g).chans.get n with state := 1 }) g m { (s.mg g).pgrps.get m with state := 0, retries := 0 }

@[simp] theorem mg_rebuildEnded_same (s : State) (g : Fin 8) (m : Fin 2) (n : Fin 24) : (rebuildEnded s g m n).mg g = { s.mg g with
    chans := vset (s.mg g).chans n { (s.mg g).chans.get n with state := 1 }
    pgrps := vset (s.mg g).pgrps m { (s.mg g).pgrps.get m with state := 0, retries := 0 } } := by
  simp [rebuildEnded]

theorem OnlyMg.rebuildEnded (s : State) (g : Fin 8) (m : Fin 2) (n : Fin 24) : OnlyMg g s (rebuildEnded s g m n) :=
  (OnlyMg.setChan s g n _).trans (OnlyMg.setPgrp _ g m _)

theorem exec_rebuildDone_of_due {t : Nat} {g : Fin 8} {m : Fin 2} {n : Fin 24} {s : State} (hon : mgOn s g = true)
    (hn : failedChan ((s.mg g).pgrps.get m) m = some n) (hst : ((s.mg g).pgrps.get m).state = 2)
    (hdue : ((s.mg g).pgrps.get m).since + rebuildNs ≤ max s.now t) :
    exec (.rebuildDone t g m) s = .next (logEv (rebuildEnded (tick t s) g m n) (0x0100 + g.val) 0x4005
      ((s.mg g).chans.get n).owner.toNat (payload [])) := by
  have hel : elapsed (tick t s).now ((s.mg g).pgrps.get m).since rebuildNs = true := decide_eq_true hdue
  show execRebuildDone t g m s = _
  simp only [execRebuildDone, mg_tick, mgOn_tick, hn, hon, hst, hel, beq_self_eq_true, Bool.and_self, if_true]
  rfl

-- The statement, part by part

section
variable {t : Nat} {g : Fin 8} {s : State}

theorem mgTrain_at_rate (hon : mgOn s g = true) (htr : (s.mg g).trained = false) (hf : (s.mg g).failed = false) (hb : s.boot.stage ≠ 6)
    (r : Rate) {bad : BitVec 24}
    (hbad : bad = 0 ∨ ((∀ i : Fin 9, s.mem.owners.get i = none) ∧ ∀ m : Fin 2, ((s.mg g).pgrps.get m).enabled = false)) :
    ∃ u, exec (.mgTrain t g (some (r, bad))) s = .next u ∧ TrainedAt g (rateCode r) bad s u ∧ (bad ≠ 0 → (u.mg g).err &&& 4 = 4) := by
  obtain ⟨hu, herr⟩ := trainMg_trainedAt (s := tick t s) (g := g) hf r hbad
  refine ⟨_, exec_mgTrain_some hon htr hf t r bad, ?_⟩
  rw [finishStage6_of_stage (by rw [hu.boot]; exact hb)]
  exact ⟨{ hu with }, herr⟩

theorem mgTrain_without_rate (hon : mgOn s g = true) (htr : (s.mg g).trained = false) (hf : (s.mg g).failed = false)
    (hb : s.boot.stage ≠ 6) : ∃ u, exec (.mgTrain t g none) s = .next u ∧ (u.mg g).trained = false ∧ (u.mg g).failed = true ∧ OnlyMg g s u := by
  obtain ⟨hback, e, he⟩ := fallenBack_keeps (tick t s) g 0
  have honly : OnlyMg g s (trainMg (tick t s) g none 0) := ((OnlyMg.tick g t s).trans hback).trans (.setMg _ g _)
  refine ⟨_, exec_mgTrain_none hon htr hf t, ?_⟩
  rw [hostMemFail_of_stage (by rw [honly.boot]; exact hb)]
  refine ⟨?_, ?_, honly⟩ <;> rw [trainMg_none, mg_setMg_same, he]
  exact htr

theorem retrain_fails_protected {n : Fin 24} (hon : mgOn s g = true) (hact : ((s.mg g).chans.get n).state = 1)
    (hen : ((s.mg g).pgrps.get (chanPgrp n)).enabled = true) (hst : ((s.mg g).pgrps.get (chanPgrp n)).state = 0) :
    ∃ u, exec (.periodicRetraining t g n false) s = .next u ∧ ((u.mg g).chans.get n).state = 3 ∧
      ((u.mg g).pgrps.get (chanPgrp n)).state = 1 ∧ ((u.mg g).pgrps.get (chanPgrp n)).failed = BitVec.ofNat 4 (chanIdx n) ∧
      (u.mg g).err = (s.mg g).err ||| 4 ∧ OnlyMg g s u := by
  refine ⟨_, exec_periodicRetraining_failed hon hact, ?_⟩
  rw [failChan_of_protected (s := tick t s) hen hst]
  exact ⟨by simp, by simp, by simp, by simp, ((OnlyMg.tick g t s).trans (.chanFailed _ g n)).trans (.setPgrp _ g _ _)⟩

theorem retry_begins_rebuild {m : Fin 2} {n : Fin 24} {i : Instr} (hon : mgOn s g = true)
    (hn : failedChan ((s.mg g).pgrps.get m) m = some n) (hen : ((s.mg g).pgrps.get m).enabled = true)
    (hst : ((s.mg g).pgrps.get m).state = 1) (hi : AsksRetry t g m s i) :
    ∃ u, exec i s = .next u ∧ ((u.mg g).pgrps.get m).state = 2 ∧ ((u.mg g).pgrps.get m).progress u.now = 0 ∧
      ((u.mg g).pgrps.get m).since = max s.now t ∧ ((u.mg g).pgrps.get m).failed = ((s.mg g).pgrps.get m).failed ∧
      (u.mg g).chans.get n = { (s.mg g).chans.get n with state := 4 } ∧
      (∀ j, j ≠ n → (u.mg g).chans.get j = (s.mg g).chans.get j) ∧ OnlyMg g s u := by
  obtain ⟨r, a, hex⟩ := exec_of_asksRetry hst hi
  have hx : ((retryNoted (tick t s) g m r a).mg g).pgrps.get m = { (s.mg g).pgrps.get m with retries := r, retryAt := a } := by simp
  have hnow : (retryNoted (tick t s) g m r a).now = max s.now t := rfl
  rw [retryRebuild_of_degraded (s := retryNoted (tick t s) g m r a) hon (by rw [hx]; exact hn) (by rw [hx]; exact hen) (by rw [hx]; exact hst)] at hex
  refine ⟨_, hex, by simp, progress_of_since_eq (by simp), by simp [hnow], by simp, by simp, fun j hj => by simp [hj.symm], ?_⟩
  exact ((OnlyMg.tick g t s).trans (.setPgrp _ g m _)).trans (.rebuildBegun _ g m n)

theorem rebuild_ends {m : Fin 2} {n : Fin 24} (hon : mgOn s g = true) (hn : failedChan ((s.mg g).pgrps.get m) m = some n)
    (hst : ((s.mg g).pgrps.get m).state = 2) (hdue : ((s.mg g).pgrps.get m).since + rebuildNs ≤ max s.now t) :
    ∃ u, exec (.rebuildDone t g m) s = .next u ∧ ((u.mg g).pgrps.get m).state = 0 ∧ ((u.mg g).pgrps.get m).retries = 0 ∧
      (u.mg g).chans.get n = { (s.mg g).chans.get n with state := 1 } ∧ OnlyMg g s u :=
  ⟨_, exec_rebuildDone_of_due hon hn hst hdue, by simp, by simp, by simp,
    ((OnlyMg.tick g t s).trans (.rebuildEnded _ g m n)).trans (.logEv g _ ..)⟩

end

/-- Settles O25: training is TrainedAt, and a failure, a retry and the end of a rebuild each change one group alone (OnlyMg). -/
theorem trainingDecidesChannels : Obligations.TrainingDecidesChannels := by
  unfold Obligations.TrainingDecidesChannels
  refine ⟨fun t g n s hon => ⟨fun htr hf hb => ⟨fun r bad hbad => ?_, ?_⟩, fun hact => ⟨exec_periodicRetraining_ok t g n s, fun hen hst => ?_⟩⟩,
    fun t g m n s hon hn => ⟨fun hen hst i hi => ?_, fun hst hdue => ?_⟩⟩
  · obtain ⟨u, hu, htrained, herr⟩ := mgTrain_at_rate (t := t) hon htr hf hb r hbad
    exact ⟨u, hu, htrained.trained, htrained.failed, htrained.rate, htrained.chans, herr, htrained.clusters⟩
  · obtain ⟨u, hu, htr', hf', honly⟩ := mgTrain_without_rate (t := t) hon htr hf hb
    exact ⟨u, hu, htr', hf', honly.mg, honly.clusters⟩
  · obtain ⟨u, hu, hch, hdeg, hidx, herr, honly⟩ := retrain_fails_protected (t := t) hon hact hen hst
    exact ⟨u, hu, hch, hdeg, hidx, herr, honly.mg, honly.cells, honly.poison, honly.owners, honly.clusters⟩
  · obtain ⟨u, hu, hst', hprog, hsince, hidx, hch, hoth, honly⟩ := retry_begins_rebuild hon hn hen hst hi
    exact ⟨u, hu, hst', hprog, hsince, hidx, hch, hoth, honly.mg, honly.cells, honly.poison, honly.owners, honly.clusters⟩
  · obtain ⟨u, hu, hst', hret, hch, honly⟩ := rebuild_ends hon hn hst hdue
    exact ⟨u, hu, hst', hret, hch, honly.mg, honly.cells, honly.poison, honly.owners, honly.clusters⟩

end Sys2Proof.Machine
end

section
/-! PROOFS. Sending on a brim port (R263 to R266, R269): what the flits that leave on a port, and a change of that port alone, leave as it was. -/

namespace Sys2Proof.Machine

-- Changes of one port

/-- Of ports, links, clusters, main memory and slots, only port q and its link differ between s and u. -/
structure OnlyPort (q : Fin 16) (s u : State) : Prop where
  port : ∀ r, r ≠ q → u.port r = s.port r
  link : ∀ r, r ≠ q → u.link r = s.link r
  clusters : u.clusters = s.clusters
  mem : u.mem = s.mem
  slots : u.slots = s.slots

namespace OnlyPort

theorem refl (q : Fin 16) (s : State) : OnlyPort q s s := ⟨fun _ _ => rfl, fun _ _ => rfl, rfl, rfl, rfl⟩

theorem trans {q : Fin 16} {s t u : State} (h1 : OnlyPort q s t) (h2 : OnlyPort q t u) : OnlyPort q s u :=
  ⟨fun r hr => (h2.port r hr).trans (h1.port r hr), fun r hr => (h2.link r hr).trans (h1.link r hr), h2.clusters.trans h1.clusters,
    h2.mem.trans h1.mem, h2.slots.trans h1.slots⟩

theorem tick (q : Fin 16) (t : Nat) (s : State) : OnlyPort q s (tick t s) := ⟨fun _ _ => rfl, fun _ _ => rfl, rfl, rfl, rfl⟩

theorem fresh (q : Fin 16) (s : State) : OnlyPort q s s.fresh.2 := ⟨fun _ _ => rfl, fun _ _ => rfl, rfl, rfl, rfl⟩

theorem emit (q : Fin 16) (s : State) (k : OutKind) (d : Nat) (b : Bytes) : OnlyPort q s (emit s k d b) :=
  ⟨fun _ _ => rfl, fun _ _ => rfl, rfl, rfl, rfl⟩

theorem setPort (s : State) (q : Fin 16) (k : Port) : OnlyPort q s (s.setPort q k) :=
  ⟨fun r hr => port_setPort_other s q k r hr.symm, fun _ _ => rfl, rfl, rfl, rfl⟩

theorem setLink (s : State) (q : Fin 16) (k : LinkL) : OnlyPort q s (s.setLink q k) :=
  ⟨fun _ _ => rfl, fun r hr => link_setLink_other s q k r hr.symm, rfl, rfl, rfl⟩

theorem logEv (q : Fin 16) (s : State) (a b c : Nat) (l : Bytes) : OnlyPort q s (logEv s a b c l) :=
  ⟨fun r _ => congrArg (·.get r) (logEv_ports s a b c l), fun r _ => congrArg (·.get r) (logEv_links s a b c l), logEv_clusters ..,
    logEv_mem .., logEv_slots ..⟩

end OnlyPort

@[simp] theorem lgOn_tick (t : Nat) (s : State) (q : Fin 16) : lgOn (tick t s) q = lgOn s q := rfl
@[simp] theorem portDecl_tick (t : Nat) (s : State) (q : Fin 16) : portDecl (tick t s) q = portDecl s q := rfl

@[simp] theorem port_logEv (s : State) (a b c : Nat) (l : Bytes) (q : Fin 16) : (logEv s a b c l).port q = s.port q :=
  congrArg (·.get q) (logEv_ports s a b c l)
@[simp] theorem link_logEv (s : State) (a b c : Nat) (l : Bytes) (q : Fin 16) : (logEv s a b c l).link q = s.link q :=
  congrArg (·.get q) (logEv_links s a b c l)

/-- Writing back the port that stands there changes nothing. -/
theorem setPort_self (s : State) (q : Fin 16) : s.setPort q (s.port q) = s := by
  have h : vset s.ports q (s.ports.get q) = s.ports := Vector.set_getElem_self q.isLt
  unfold State.setPort State.port
  rw [h]

/-- Writing back the link that stands there changes nothing. -/
theorem setLink_self (s : State) (q : Fin 16) : s.setLink q (s.link q) = s := by
  have h : vset s.links q (s.links.get q) = s.links := Vector.set_getElem_self q.isLt
  unfold State.setLink State.link
  rw [h]

-- Flits that leave

/-- Freeing withheld flits changes the freed and the withheld counts alone (R280). -/
theorem settle_eq (k : LinkL) (full : Bool) : ∃ f o, k.settle full = { k with freed := f, owed := o } := by
  unfold LinkL.settle
  split
  · exact ⟨k.freed, k.owed, rfl⟩
  · exact ⟨_, _, rfl⟩

/-- From s to u flits have left on port q, or wait there: of the port only BRM_TX_FLITS changes, and what it expects of its peer stays. -/
structure FlitsSent (q : Fin 16) (s u : State) : Prop extends OnlyPort q s u where
  log : u.log = s.log
  counted : ∃ n, u.port q = { s.port q with txFlits := n }
  rxSeq : (u.link q).rxSeq = (s.link q).rxSeq
  nakFor : (u.link q).nakFor = (s.link q).nakFor

namespace FlitsSent

theorem refl (q : Fin 16) (s : State) : FlitsSent q s s := ⟨.refl q s, rfl, ⟨_, rfl⟩, rfl, rfl⟩

theorem trans {q : Fin 16} {s t u : State} (h1 : FlitsSent q s t) (h2 : FlitsSent q t u) : FlitsSent q s u := by
  obtain ⟨m, hm⟩ := h1.counted
  obtain ⟨n, hn⟩ := h2.counted
  exact ⟨h1.toOnlyPort.trans h2.toOnlyPort, h2.log.trans h1.log, ⟨n, by rw [hn, hm]⟩, h2.rxSeq.trans h1.rxSeq, h2.nakFor.trans h1.nakFor⟩

theorem fresh (q : Fin 16) (s : State) : FlitsSent q s s.fresh.2 := ⟨.fresh q s, rfl, ⟨_, rfl⟩, rfl, rfl⟩

theorem setLink {s : State} {q : Fin 16} {k : LinkL} (hrx : k.rxSeq = (s.link q).rxSeq) (hnak : k.nakFor = (s.link q).nakFor) :
    FlitsSent q s (s.setLink q k) :=
  ⟨.setLink s q k, rfl, ⟨_, rfl⟩, by rw [link_setLink_same, hrx], by rw [link_setLink_same, hnak]⟩

theorem putFlit (s : State) (q : Fin 16) (w : WaitFlit) : FlitsSent q s (putFlit s q w) := by
  obtain ⟨f, o, hk⟩ := settle_eq (s.link q) (stagingFull s q)
  refine ⟨((OnlyPort.setLink s q _).trans (.setPort _ q _)).trans (.emit q _ _ _ _), rfl, ⟨_, port_setPort_same ..⟩, ?_, ?_⟩
  all_goals simp [Machine.putFlit, hk]

theorem sendFlit (s : State) (q : Fin 16) (w : WaitFlit) : FlitsSent q s (sendFlit s q w) := by
  unfold Machine.sendFlit
  extract_lets k
  split
  · exact refl q s
  split
  · exact putFlit s q w
  · exact setLink rfl rfl

theorem sendIdle (s : State) (q : Fin 16) : FlitsSent q s (sendIdle s q) := by
  unfold Machine.sendIdle
  extract_lets w
  split
  · exact putFlit s q w
  · exact refl q s

theorem drainN (q : Fin 16) : ∀ (n : Nat) (s : State), FlitsSent q s (drainN q n s)
  | 0, s => refl q s
  | n + 1, s => by
    unfold Machine.drainN
    split
    · exact refl q s
    · refine trans ?_ ((putFlit _ q _).trans (drainN q n _))
      exact setLink rfl rfl

theorem drainFlits (s : State) (q : Fin 16) : FlitsSent q s (drainFlits s q) := drainN q _ s

theorem sendSpdm (s : State) (q : Fin 16) : FlitsSent q s (sendSpdm s q) := (fresh q s).trans (sendFlit _ q _)

end FlitsSent

/-- With nothing waiting nothing more leaves. -/
theorem drainFlits_of_waiting_nil {s : State} {q : Fin 16} (h : (s.link q).waiting = []) : drainFlits s q = s := by
  unfold drainFlits
  rw [h]
  rfl

theorem sendFlit_of_mayPut {s : State} {q : Fin 16} {w : WaitFlit} (hmay : mayPut s q w = true) (hw : (s.link q).waiting = []) :
    sendFlit s q w = putFlit s q w := by
  have hst : sendsIn (s.port q).state w.typ = true := by
    simp only [mayPut, Bool.and_eq_true] at hmay
    exact hmay.1.1
  simp [sendFlit, hst, hmay, hw]

-- The flit itself (R263)

/-- The bytes of the flit that leaves on port q with the next sequence number. -/
def nextBytes (s : State) (q : Fin 16) (w : WaitFlit) : Bytes := flitBytes ((s.link q).settle (stagingFull s q)) (s.port q).keyTx w

theorem putFlit_out (s : State) (q : Fin 16) (w : WaitFlit) :
    (putFlit s q w).out = s.out ++ [{ kind := .flit, dest := q.val, data := nextBytes s q w }] := rfl

theorem putFlit_txSeq (s : State) (q : Fin 16) (w : WaitFlit) : ((putFlit s q w).link q).txSeq = ((s.link q).txSeq + 1) % 2 ^ 48 := by
  obtain ⟨f, o, hk⟩ := settle_eq (s.link q) (stagingFull s q)
  simp [putFlit, hk]

theorem putFlit_replay (s : State) (q : Fin 16) (w : WaitFlit) :
    ((putFlit s q w).link q).replay = (s.link q).replay ++ [{ seq := (s.link q).txSeq, bytes := nextBytes s q w }] := by
  obtain ⟨f, o, hk⟩ := settle_eq (s.link q) (stagingFull s q)
  simp [putFlit, nextBytes, hk]

@[simp] theorem length_natLe (n v : Nat) : (natLe n v).length = n := by
  induction n generalizing v with
  | zero => rfl
  | succ n ih => simp [natLe, ih]

@[simp] theorem length_sliceB (b : Bytes) (off n : Nat) : (sliceB b off n).length = n := by
  simp only [sliceB, List.length_append, List.length_take, List.length_replicate]
  omega

/-- Before a session has a key a flit is its head, its data, a zero TAG and its CRC: 256 bytes. -/
theorem length_flitBytes_of_no_key {k : LinkL} (h : k.txKey = FlitKey.none) (key : Bool) (w : WaitFlit) : (flitBytes k key w).length = 256 := by
  simp [flitBytes, flitHead, flitSeal, h, FlitKey.none, zeroB]

/-- Byte 6 of a flit: TYPE, VC and KEY. -/
theorem getD_six_flitBytes (k : LinkL) (key : Bool) (w : WaitFlit) :
    (flitBytes k key w).getD 6 0 = BitVec.ofNat 8 (w.typ.toNat + w.vc.toNat * 16 + (if key then 64 else 0)) := rfl

end Sys2Proof.Machine
end

section
/-! PROOFS. Training and attestation of brim ports (R261, R267 to R270, R272, R474): the outcome of an initial training, the exchange that then
begins, and what its end makes of the port. -/

namespace Sys2Proof.Machine

-- Training (R267, R268)

/-- A port after an initial training at lanes that allow a width. -/
def Port.trained (k : Port) (lanes : BitVec 8) (rev : Bool) : Port :=
  { k with state := 2, width := BitVec.ofNat 2 (laneWidth lanes), laneOk := lanes, reversed := rev, fails := 0 }

theorem initialTrain_of_width {lanes : BitVec 8} (h : laneWidth lanes ≠ 0) (s : State) (q : Fin 16) (rev : Bool) :
    initialTrain s q lanes rev = startAttest (s.setPort q ((s.port q).trained lanes rev)) q := if_neg h

/-- Without a width the failure counts, and the third ends in FAILED. -/
theorem initialTrain_of_no_width {lanes : BitVec 8} (h : laneWidth lanes = 0) (s : State) (q : Fin 16) (rev : Bool) :
    ∃ k, initialTrain s q lanes rev = s.setPort q k ∧ k.width = 0 ∧ k.state = if 2 ≤ (s.port q).fails then 6 else (s.port q).state := by
  unfold initialTrain
  extract_lets k w k1
  rw [if_pos h]
  by_cases h3 : 2 ≤ k.fails
  · exact ⟨_, if_pos (by simp only [k1]; omega), rfl, (if_pos h3).symm⟩
  · exact ⟨_, if_neg (by simp only [k1]; omega), rfl, (if_neg h3).symm⟩

/-- A command for port p finds it ready for an initial training: OFF and allowed to begin one, in TRAIN, or in TRAIN 100 ms after a failure. -/
def AsksTraining (t : Nat) (p : Fin 16) (lanes : BitVec 8) (rev : Bool) (s : State) (i : Instr) : Prop :=
  (i = .linkTrain t p lanes rev ∧ lgOn s p = true ∧ (portDecl s p).isSome = true ∧ (s.port p).disable = false ∧ (s.port p).state = 0) ∨
    (i = .linkTrain t p lanes rev ∧ (s.port p).state = 1 ∧ (s.port p).fails = 0) ∨
    (i = .trainRetry t p lanes rev ∧ (s.port p).state = 1 ∧ 0 < (s.port p).fails ∧ (s.port p).failAt + 100000000 ≤ max s.now t)

section
variable {t : Nat} {p : Fin 16} {lanes : BitVec 8} {rev : Bool} {s : State}

theorem exec_linkTrain_of_off (hon : lgOn s p = true) (hdecl : (portDecl s p).isSome = true) (hen : (s.port p).disable = false)
    (hst : (s.port p).state = 0) : exec (.linkTrain t p lanes rev) s =
      .next (initialTrain ((tick t s).setPort p { s.port p with state := 1, fails := 0, failAt := max s.now t }) p lanes rev) := by
  have hstart : startPort (tick t s) p = (tick t s).setPort p { s.port p with state := 1, fails := 0, failAt := max s.now t } :=
    if_pos (by simp [hon, hdecl, hen, hst])
  show execLinkTrain t p lanes rev s = _
  simp [execLinkTrain, hstart]

theorem exec_linkTrain_of_train (hst : (s.port p).state = 1) (hf : (s.port p).fails = 0) :
    exec (.linkTrain t p lanes rev) s = .next (initialTrain (tick t s) p lanes rev) := by
  have hstart : startPort (tick t s) p = tick t s := if_neg (by simp [hst])
  show execLinkTrain t p lanes rev s = _
  simp [execLinkTrain, hstart, hst, hf]

theorem exec_trainRetry_of_due (hst : (s.port p).state = 1) (hf : 0 < (s.port p).fails)
    (hdue : (s.port p).failAt + 100000000 ≤ max s.now t) :
    exec (.trainRetry t p lanes rev) s = .next (initialTrain (tick t s) p lanes rev) :=
  if_pos ⟨hst, hf, decide_eq_true hdue⟩

/-- Each such command trains the port from TRAIN, with the failures that it counts so far. -/
theorem exec_of_asksTraining {i : Instr} (h : AsksTraining t p lanes rev s i) :
    ∃ k : Port, exec i s = .next (initialTrain ((tick t s).setPort p k) p lanes rev) ∧ k.state = 1 ∧
      (2 ≤ k.fails ↔ (s.port p).state = 1 ∧ 2 ≤ (s.port p).fails) := by
  obtain ⟨rfl, hon, hdecl, hen, hst⟩ | ⟨rfl, hst, hf⟩ | ⟨rfl, hst, hf, hdue⟩ := h
  · exact ⟨_, exec_linkTrain_of_off hon hdecl hen hst, rfl, by simp [hst]⟩
  · exact ⟨s.port p, by rw [exec_linkTrain_of_train hst hf, ← port_tick t s p, setPort_self], hst, by simp [hst]⟩
  · exact ⟨s.port p, by rw [exec_trainRetry_of_due hst hf hdue, ← port_tick t s p, setPort_self], hst, by simp [hst]⟩

end

-- The exchange begins (R269)

theorem startAttest_of_no_alarm {s : State} (h : alarmLevel s = 0) (q : Fin 16) : startAttest s q = sendSpdm s q := if_pos h

theorem startAttest_of_alarm {s : State} (h : alarmLevel s ≠ 0) (q : Fin 16) : startAttest s q = s := if_neg h

theorem FlitsSent.startAttest (s : State) (q : Fin 16) : FlitsSent q s (startAttest s q) := by
  unfold Machine.startAttest
  split
  · exact sendSpdm s q
  · exact refl q s

/-- In ATTEST the exchange of a fresh link begins with one SPDM flit, of sequence number 0. -/
theorem sendSpdm_of_fresh_link {s : State} {q : Fin 16} (hst : (s.port q).state = 2) (hlink : s.link q = LinkL.reset) (hout : s.out = []) :
    ∃ b, b.length = 256 ∧ (sendSpdm s q).out = [{ kind := .flit, dest := q.val, data := b }] ∧ ((sendSpdm s q).link q).txSeq = 1 ∧
      ((sendSpdm s q).link q).replay = [{ seq := 0, bytes := b }] ∧ (b.getD 6 0).toNat % 64 = 2 := by
  let f := s.fresh
  let w : WaitFlit := { typ := 2, vc := 0, poison := 0, data := (List.range 224).map (Config.responseByte f.1) }
  have hlink' : f.2.link q = LinkL.reset := hlink
  have hmay : mayPut f.2 q w = true := by
    have hst' : (f.2.port q).state = 2 := hst
    simp only [mayPut, hlink', hst']
    rfl
  have hput : sendSpdm s q = putFlit f.2 q w := sendFlit_of_mayPut hmay (by rw [hlink']; rfl)
  obtain ⟨r, o, hk⟩ := settle_eq (f.2.link q) (stagingFull f.2 q)
  refine ⟨nextBytes f.2 q w, length_flitBytes_of_no_key (by rw [hk, hlink']; rfl) .., ?_, ?_, ?_, ?_⟩
  · rw [hput, putFlit_out, show f.2.out = [] from hout]
    rfl
  · rw [hput, putFlit_txSeq, hlink']
    rfl
  · rw [hput, putFlit_replay, hlink']
    rfl
  · rw [nextBytes, getD_six_flitBytes]
    cases (f.2.port q).keyTx <;> simp [w]

/-- Settles O26: every way to train ends in initialTrain, whose two outcomes are initialTrain_of_width and initialTrain_of_no_width. -/
theorem portsTrain : Obligations.PortsTrain := by
  unfold Obligations.PortsTrain
  intro t p lanes rev s i hi
  obtain ⟨k, hex, hst, hfails⟩ := exec_of_asksTraining hi
  have hbegin : OnlyPort p s ((tick t s).setPort p k) := (OnlyPort.tick p t s).trans (.setPort _ p k)
  refine ⟨_, hex, ?_⟩
  by_cases hw : laneWidth lanes = 0
  · obtain ⟨k', hk', hwidth, hstate⟩ := initialTrain_of_no_width hw ((tick t s).setPort p k) p rev
    have honly := hbegin.trans (.setPort _ p k')
    rw [hk']
    refine ⟨fun q hq => ⟨honly.port q hq, honly.link q hq⟩, honly.clusters, honly.mem, rfl, fun h => absurd hw h, fun _ => ?_⟩
    refine ⟨by rw [port_setPort_same, hwidth], rfl, ?_⟩
    rw [port_setPort_same, hstate, port_setPort_same, hst]
    simp only [hfails]
  · rw [initialTrain_of_width hw, setPort_setPort, port_setPort_same]
    have hT : OnlyPort p s ((tick t s).setPort p (k.trained lanes rev)) := (OnlyPort.tick p t s).trans (.setPort _ p _)
    have hport : ((tick t s).setPort p (k.trained lanes rev)).port p = k.trained lanes rev := port_setPort_same ..
    have hsent := FlitsSent.startAttest ((tick t s).setPort p (k.trained lanes rev)) p
    have honly := hT.trans hsent.toOnlyPort
    obtain ⟨n, hn⟩ := hsent.counted
    refine ⟨fun q hq => ⟨honly.port q hq, honly.link q hq⟩, honly.clusters, honly.mem, hsent.log, fun _ => ?_, fun h => absurd h hw⟩
    rw [hn, hport]
    refine ⟨rfl, rfl, rfl, rfl, rfl, fun hal hlink => ?_, fun hal => ?_⟩
    · rw [startAttest_of_no_alarm (s := (tick t s).setPort p _) hal]
      exact sendSpdm_of_fresh_link (by rw [hport]; rfl) hlink rfl
    · rw [startAttest_of_alarm (s := (tick t s).setPort p _) hal]
      rfl

-- The end of the exchange (R269, R270)

theorem OnlyPort.denyPort (s : State) (q : Fin 16) (bit event part : Nat) : OnlyPort q s (denyPort s q bit event part) :=
  (OnlyPort.setPort s q _).trans (.logEv q _ ..)

@[simp] theorem port_denyPort_same (s : State) (q : Fin 16) (bit event part : Nat) : (denyPort s q bit event part).port q =
    { s.port q with state := 5, err := (s.port q).err ||| BitVec.ofNat 8 (2 ^ bit) } := by
  simp [denyPort]

@[simp] theorem length_newFlitKey_key (n : Nat) : (newFlitKey n).key.length = 32 := by simp [newFlitKey]
@[simp] theorem length_newFlitKey_salt (n : Nat) : (newFlitKey n).salt.length = 4 := by simp [newFlitKey]

theorem sendHello_of_not_twin {s : State} {p : Fin 8} {q : Fin 16} (h : roleOf s p q ≠ 2) : sendHello s p q = s := if_neg fun hc => h hc.1

/-- The link of a session that begins now, with a key and a salt for each direction. -/
def LinkL.session (now : Nat) (tx rx : FlitKey) : LinkL := { LinkL.reset with keyAt := now, rxKeyAt := now, txKey := tx, rxKey := rx }

/-- The state in which port q is UP with a fresh session, before a twin port says HELLO. -/
def cameUp (s : State) (q : Fin 16) (link : Bytes) : State :=
  setRecovered ((({ s with free := s.free + 2 } : State).setPort q { s.port q with state := 3, keyTx := false, keyRx := false }).setLink q
    (LinkL.session s.now (newFlitKey s.free) (newFlitKey (s.free + 1)))) link true

theorem portUp_of_not_twin {s : State} {q : Fin 16} {p : Fin 8} (link : Bytes) (h : roleOf s p q ≠ 2) : portUp s q p link = cameUp s q link :=
  sendHello_of_not_twin h

theorem OnlyPort.cameUp (s : State) (q : Fin 16) (link : Bytes) : OnlyPort q s (cameUp s q link) :=
  (OnlyPort.setPort s q _).trans ((OnlyPort.setLink _ q _).trans ⟨fun _ _ => rfl, fun _ _ => rfl, rfl, rfl, rfl⟩)

@[simp] theorem port_cameUp_same (s : State) (q : Fin 16) (link : Bytes) :
    (cameUp s q link).port q = { s.port q with state := 3, keyTx := false, keyRx := false } := port_setPort_same ..

@[simp] theorem link_cameUp_same (s : State) (q : Fin 16) (link : Bytes) :
    (cameUp s q link).link q = LinkL.session s.now (newFlitKey s.free) (newFlitKey (s.free + 1)) := link_setLink_same ..

/-- The port with what its peer attested. -/
def Port.attested (k : Port) (r : AttestResult) : Port := { k with peerPkg := r.peerPkg, peerPort := r.peerPort }

section
variable {t : Nat} {p : Fin 16} {r : AttestResult} {s : State} {o : Fin 8} {link : Bytes}

theorem exec_attest_of_auth_failed (hst : (s.port p).state = 2) (hal : alarmLevel (tick t s) = 0) (hd : portDecl (tick t s) p = some (o, link))
    (hr : r.authOk = false) : exec (.attest t p r) s = .next (authFailure (denyPort (tick t s) p 6 0x5004 o.val)) := by
  show execAttest t p r s = _
  simp only [execAttest, hd]
  rw [if_neg (by simp [hst, hal]), if_pos (by simp [hr])]

theorem exec_attest_of_mismatch (hst : (s.port p).state = 2) (hal : alarmLevel (tick t s) = 0) (hd : portDecl (tick t s) p = some (o, link))
    (hr : r.authOk = true) (hdiff : r.sameOwner = false ∨ r.domain.toNat ≠ fieldU link 8 8 ∨
      pkgId r.peerPkg.toNat ≠ pkgId (fieldU link 2 2) ∨ r.peerPort.toNat ≠ fieldU link 4 1) :
    ∃ bit event, exec (.attest t p r) s = .next (denyPort ((tick t s).setPort p ((s.port p).attested r)) p bit event o.val) := by
  have hex : ∀ u, execAttest t p r s = u → exec (.attest t p r) s = u := fun _ h => h
  cases hso : r.sameOwner with
  | false =>
    refine ⟨6, 0x5004, hex _ ?_⟩
    simp only [execAttest, hd]
    rw [if_neg (by simp [hst, hal]), if_neg (by simp [hr]), if_pos (by simp [hso])]
    rfl
  | true =>
    refine ⟨7, 0x5005, hex _ ?_⟩
    simp only [execAttest, hd]
    rw [if_neg (by simp [hst, hal]), if_neg (by simp [hr]), if_neg (by simp [hso]), if_pos (by simpa [hso] using hdiff)]
    rfl

theorem exec_attest_of_match (hst : (s.port p).state = 2) (hal : alarmLevel (tick t s) = 0) (hd : portDecl (tick t s) p = some (o, link))
    (hr : r.authOk = true) (hso : r.sameOwner = true) (hdom : r.domain.toNat = fieldU link 8 8)
    (hpkg : pkgId r.peerPkg.toNat = pkgId (fieldU link 2 2)) (hport : r.peerPort.toNat = fieldU link 4 1) :
    exec (.attest t p r) s = .next (portUp ((tick t s).setPort p ((s.port p).attested r)) p o link) := by
  show execAttest t p r s = _
  simp only [execAttest, hd]
  rw [if_neg (by simp [hst, hal]), if_neg (by simp [hr]), if_neg (by simp [hso]), if_neg (by simp [hdom, hpkg, hport])]
  rfl

end

/-- Settles O27: a failed exchange and a mismatch deny the port (denyPort), a match brings it UP (portUp_of_not_twin). -/
theorem attestationDecidesThePort : Obligations.AttestationDecidesThePort := by
  unfold Obligations.AttestationDecidesThePort
  intro t p r s o link hst hal hd
  refine ⟨fun hr => ?_, fun hr hdiff => ?_, fun hr hso hdom hpkg hport hrole => ?_⟩
  · have honly : OnlyPort p s (denyPort (tick t s) p 6 0x5004 o.val) := (OnlyPort.tick p t s).trans (.denyPort _ p ..)
    exact ⟨_, exec_attest_of_auth_failed hst hal hd hr, by simp, honly.port, honly.mem, honly.clusters⟩
  · obtain ⟨bit, event, hex⟩ := exec_attest_of_mismatch hst hal hd hr hdiff
    have honly := ((OnlyPort.tick p t s).trans (.setPort _ p ((s.port p).attested r))).trans (.denyPort _ p bit event o.val)
    exact ⟨_, hex, by simp, by simp [Port.attested], honly.port, honly.mem, honly.clusters⟩
  · have hex := exec_attest_of_match hst hal hd hr hso hdom hpkg hport
    rw [portUp_of_not_twin (s := (tick t s).setPort p _) link hrole] at hex
    have honly := ((OnlyPort.tick p t s).trans (.setPort _ p ((s.port p).attested r))).trans (.cameUp _ p link)
    refine ⟨_, newFlitKey s.free, newFlitKey (s.free + 1), hex, by simp, by simp [Port.attested], by simp [Port.attested], by simp, by simp,
      link_cameUp_same .., by simp, by simp, by simp, by simp, fun q hq => ⟨honly.port q hq, honly.link q hq⟩, honly.mem, honly.clusters, rfl⟩

end Sys2Proof.Machine
end

section
/-! PROOFS. Flits received and sent again (R263 to R266, R270, R288): the checks of a received flit in order, what each outcome does to the port and
its link, and the resending that a NAK asks for. -/

namespace Sys2Proof.Machine

-- A NAK leaves once for each expected sequence number (R266)

/-- The link notes that a NAK has been sent for the flit that it expects. -/
def nakNoted (s : State) (q : Fin 16) : State := s.setLink q { s.link q with nakFor := some (s.link q).rxSeq }

theorem FlitsSent.sendNak (s : State) (q : Fin 16) : FlitsSent q (nakNoted s q) (sendNak s q) := by
  unfold Machine.sendNak
  extract_lets k
  split
  · next hsent =>
    have hself : nakNoted s q = s := by
      unfold nakNoted
      rw [← hsent]
      exact setLink_self s q
    rw [hself]
    exact refl q s
  · exact sendFlit _ q _

/-- What a NAK leaves of the port and its link: the error bits, the counts of received flits and the expected sequence number stay. -/
structure Nakked (q : Fin 16) (s u : State) : Prop extends OnlyPort q s u where
  counted : ∃ n, u.port q = { s.port q with txFlits := n }
  rxSeq : (u.link q).rxSeq = (s.link q).rxSeq
  nakFor : (u.link q).nakFor = some (s.link q).rxSeq

theorem sendNak_nakked (s : State) (q : Fin 16) : Nakked q s (sendNak s q) := by
  have h := FlitsSent.sendNak s q
  exact ⟨(OnlyPort.setLink s q _).trans h.toOnlyPort, h.counted, by rw [h.rxSeq]; simp [nakNoted], by rw [h.nakFor]; simp [nakNoted]⟩

-- The outcomes of a received flit (R266)

/-- The port with an error bit set. -/
def errNoted (s : State) (q : Fin 16) (bit : Nat) : State :=
  s.setPort q { s.port q with err := (s.port q).err ||| BitVec.ofNat 8 (2 ^ bit) }

@[simp] theorem port_errNoted_same (s : State) (q : Fin 16) (bit : Nat) :
    (errNoted s q bit).port q = { s.port q with err := (s.port q).err ||| BitVec.ofNat 8 (2 ^ bit) } := port_setPort_same ..

theorem badFlit_nakked (s : State) (q : Fin 16) (bit : Nat) : Nakked q (errNoted s q bit) (badFlit s q bit) := sendNak_nakked _ q

/-- The port and the link that have taken flit f as the expected one. -/
structure Taken (q : Fin 16) (f : Flit) (s u : State) : Prop extends OnlyPort q s u where
  rxFlits : (u.port q).rxFlits = (s.port q).rxFlits + 1
  keyRx : (u.port q).keyRx = f.key
  rxSeq : (u.link q).rxSeq = ((s.link q).rxSeq + 1) % 2 ^ 48

theorem FlitsSent.takeAck (s : State) (q : Fin 16) (f : Flit) : FlitsSent q s (takeAck s q f) := by
  refine trans ?_ (drainFlits _ q)
  exact setLink rfl rfl

theorem deliverFlit_taken (s : State) (q : Fin 16) (f : Flit) : Taken q f s (deliverFlit s q f) := by
  unfold deliverFlit
  extract_lets k p held freed s1
  have hsent := (FlitsSent.takeAck (s1.setPort q { p with rxFlits := p.rxFlits + 1, keyRx := f.key }) q f).trans (.sendIdle _ q)
  obtain ⟨n, hn⟩ := hsent.counted
  have hs1 : OnlyPort q s s1 := .setLink s q _
  exact ⟨(hs1.trans (.setPort s1 q _)).trans hsent.toOnlyPort, by rw [hn]; simp [p], by rw [hn]; simp,
    by rw [hsent.rxSeq]; simp [s1, k]⟩

/-- The link with a tag failure noted, the only one within a millisecond. -/
def tagFailNoted (s : State) (q : Fin 16) : State := s.setLink q { s.link q with tagFails := [s.now] }

theorem tagFailure_of_first {s : State} {q : Fin 16} (h : (s.link q).tagFails = []) : tagFailure s q = badFlit (tagFailNoted s q) q 1 := by
  unfold tagFailure
  extract_lets k l s1
  have hl : l = [s.now] := by simp [l, k, h]
  rw [if_neg (by simp [hl])]
  simp only [s1, hl, k, tagFailNoted]

section
variable {t : Nat} {p : Fin 16} {f : Flit} {crcOk tagOk : Bool} {s : State}

/-- A port in ATTEST or UP receives. -/
theorem not_ignored_of_receiving {k : Port} (h : k.state = 2 ∨ k.state = 3) : ¬ (k.state ≠ 2 ∧ k.state ≠ 3) := fun hc => h.elim hc.1 hc.2

theorem exec_flitReceive_bad (hst : (s.port p).state = 2 ∨ (s.port p).state = 3) (hbad : crcOk = false ∨ 7 ≤ f.typ.toNat) :
    exec (.flitReceive t p f crcOk tagOk) s = .next (badFlit (tick t s) p 0) := by
  have hcheck : (!crcOk || decide (7 ≤ f.typ.toNat)) = true := by simpa using hbad
  exact (if_neg (not_ignored_of_receiving hst)).trans (if_pos hcheck)

/-- The check of CRC and TYPE that a flit passes. -/
theorem not_bad_of_crc_and_type (hcrc : crcOk = true) (htyp : f.typ.toNat < 7) : ¬ (!crcOk || decide (7 ≤ f.typ.toNat)) = true := by
  simp [hcrc, htyp]

theorem exec_flitReceive_badTag (hst : (s.port p).state = 3) (hcrc : crcOk = true) (htyp : f.typ.toNat < 7) (htag : tagOk = false) :
    exec (.flitReceive t p f crcOk tagOk) s = .next (tagFailure (tick t s) p) :=
  (if_neg (not_ignored_of_receiving (.inr hst))).trans ((if_neg (not_bad_of_crc_and_type hcrc htyp)).trans (if_pos ⟨hst, htag⟩))

/-- A flit that passes every check is taken, counted as a repeat, or answered with a NAK, by its sequence number. -/
theorem exec_flitReceive_good (hst : (s.port p).state = 2 ∨ ((s.port p).state = 3 ∧ tagOk = true)) (hcrc : crcOk = true)
    (htyp : f.typ.toNat < 7) : exec (.flitReceive t p f crcOk tagOk) s =
      if f.seq % 2 ^ 48 = (s.link p).rxSeq then .next (deliverFlit (tick t s) p f)
      else if seqBelow f.seq (s.link p).rxSeq = true then .next ((tick t s).setPort p { s.port p with dups := (s.port p).dups + 1 })
      else .next (sendNak (tick t s) p) := by
  have htag : ¬ ((s.port p).state = 3 ∧ tagOk = false) := by
    rcases hst with h | ⟨-, h⟩ <;> simp [h]
  exact (if_neg (not_ignored_of_receiving (hst.imp_right And.left))).trans ((if_neg (not_bad_of_crc_and_type hcrc htyp)).trans (if_neg htag))

end

/-- What becomes of a flit that reaches the checks, by their outcome (R266). -/
structure Received (p : Fin 16) (f : Flit) (crcOk : Bool) (s u : State) : Prop extends OnlyPort p s u where
  bad : crcOk = false ∨ 7 ≤ f.typ.toNat → (u.port p).err = (s.port p).err ||| 1 ∧ (u.link p).rxSeq = (s.link p).rxSeq ∧
    (u.port p).rxFlits = (s.port p).rxFlits
  good : crcOk = true → f.typ.toNat < 7 →
    (f.seq % 2 ^ 48 = (s.link p).rxSeq → (u.port p).rxFlits = (s.port p).rxFlits + 1 ∧ (u.port p).keyRx = f.key ∧
      (u.link p).rxSeq = ((s.link p).rxSeq + 1) % 2 ^ 48) ∧
    (f.seq % 2 ^ 48 ≠ (s.link p).rxSeq → seqBelow f.seq (s.link p).rxSeq = true → (u.port p).dups = (s.port p).dups + 1 ∧
      u.links = s.links) ∧
    (f.seq % 2 ^ 48 ≠ (s.link p).rxSeq → seqBelow f.seq (s.link p).rxSeq = false → (u.link p).rxSeq = (s.link p).rxSeq ∧
      (u.link p).nakFor = some (s.link p).rxSeq ∧ (u.port p).rxFlits = (s.port p).rxFlits ∧ (u.port p).err = (s.port p).err)

theorem flitReceive_received {t : Nat} {p : Fin 16} {f : Flit} {crcOk tagOk : Bool} {s : State}
    (hst : (s.port p).state = 2 ∨ ((s.port p).state = 3 ∧ tagOk = true)) :
    ∃ u, exec (.flitReceive t p f crcOk tagOk) s = .next u ∧ Received p f crcOk s u := by
  have htick := OnlyPort.tick p t s
  by_cases hbad : crcOk = false ∨ 7 ≤ f.typ.toNat
  · have hnak := badFlit_nakked (tick t s) p 0
    obtain ⟨n, hn⟩ := hnak.counted
    refine ⟨_, exec_flitReceive_bad (hst.imp_right And.left) hbad, (htick.trans (.setPort _ p _)).trans hnak.toOnlyPort, fun _ => ?_,
      fun hcrc htyp => absurd hbad (by simp [hcrc, htyp])⟩
    exact ⟨by simp [hn], hnak.rxSeq, by simp [hn]⟩
  have hcrc : crcOk = true := by simpa using mt Or.inl hbad
  have htyp : f.typ.toNat < 7 := by simpa using mt Or.inr hbad
  have hex := exec_flitReceive_good (t := t) hst hcrc htyp
  by_cases hseq : f.seq % 2 ^ 48 = (s.link p).rxSeq
  · rw [if_pos hseq] at hex
    have htaken := deliverFlit_taken (tick t s) p f
    exact ⟨_, hex, htick.trans htaken.toOnlyPort, fun h => absurd h hbad, fun _ _ =>
      ⟨fun _ => ⟨htaken.rxFlits, htaken.keyRx, htaken.rxSeq⟩, fun h => absurd hseq h, fun h => absurd hseq h⟩⟩
  rw [if_neg hseq] at hex
  cases hdup : seqBelow f.seq (s.link p).rxSeq with
  | true =>
    rw [if_pos hdup] at hex
    exact ⟨_, hex, htick.trans (.setPort _ p _), fun h => absurd h hbad, fun _ _ =>
      ⟨fun h => absurd h hseq, fun _ _ => ⟨by simp, rfl⟩, fun _ h => by simp [hdup] at h⟩⟩
  | false =>
    rw [if_neg (by simp [hdup])] at hex
    have hnak := sendNak_nakked (tick t s) p
    obtain ⟨n, hn⟩ := hnak.counted
    exact ⟨_, hex, htick.trans hnak.toOnlyPort, fun h => absurd h hbad, fun _ _ => ⟨fun h => absurd h hseq,
      fun _ h => by simp [hdup] at h, fun _ _ => ⟨hnak.rxSeq, hnak.nakFor, by rw [hn]; rfl, by rw [hn]; rfl⟩⟩⟩

-- A NAK from the peer (R266, R288)

theorem foldl_emit_eq (k : OutKind) (d : Nat) : ∀ (l : List TxFlit) (s : State),
    l.foldl (fun (u : State) x => emit u k d x.bytes) s = { s with out := s.out ++ l.map (fun x => { kind := k, dest := d, data := x.bytes }) }
  | [], s => by simp
  | x :: l, s => by
    rw [List.foldl_cons, foldl_emit_eq k d l]
    simp [emit]

/-- The flits that a NAK asks for, in order. -/
def LinkL.again (k : LinkL) (ack : Nat) : List TxFlit := k.replay.filter (fun x => !seqBelow x.seq ack)

/-- The link once a NAK has been answered: it keeps what it has sent again, and counts how often in a row. -/
def LinkL.nakked (k : LinkL) (ack : Nat) : LinkL := { k with
  replay := k.again ack
  resent := if (k.again ack).isEmpty then k.resent else (ack, if k.resent.1 = ack then k.resent.2 + 1 else 1) }

/-- The state in which the flits that a NAK asks for have left once more on port q. -/
def sentAgain (s : State) (q : Fin 16) (ack : Nat) : State :=
  { (s.setLink q ((s.link q).nakked ack)).setPort q { s.port q with
      replays := (s.port q).replays + 1, txFlits := (s.port q).txFlits + BitVec.ofNat 64 ((s.link q).again ack).length } with
    out := s.out ++ ((s.link q).again ack).map (fun x => { kind := .flit, dest := q.val, data := x.bytes }) }

theorem OnlyPort.sentAgain (s : State) (q : Fin 16) (ack : Nat) : OnlyPort q s (sentAgain s q ack) :=
  ((OnlyPort.setLink s q _).trans (.setPort _ q _)).trans ⟨fun _ _ => rfl, fun _ _ => rfl, rfl, rfl, rfl⟩

@[simp] theorem link_sentAgain_same (s : State) (q : Fin 16) (ack : Nat) : (sentAgain s q ack).link q = (s.link q).nakked ack :=
  link_setLink_same ..

@[simp] theorem port_sentAgain_same (s : State) (q : Fin 16) (ack : Nat) : (sentAgain s q ack).port q = { s.port q with
    replays := (s.port q).replays + 1, txFlits := (s.port q).txFlits + BitVec.ofNat 64 ((s.link q).again ack).length } := port_setPort_same ..

/-- With nothing waiting for credit nothing else leaves. -/
theorem exec_nak_of_waiting_nil {p : Fin 16} {s : State} (hst : (s.port p).state = 2 ∨ (s.port p).state = 3)
    (hw : (s.link p).waiting = []) (t ack : Nat) : exec (.nak t p ack) s = .next (sentAgain (tick t s) p ack) := by
  have hnone : ((sentAgain (tick t s) p ack).link p).waiting = [] := by
    rw [link_sentAgain_same]
    exact hw
  refine (if_neg (not_ignored_of_receiving hst)).trans ?_
  rw [foldl_emit_eq]
  exact congrArg Host.Outcome.next (drainFlits_of_waiting_nil hnone)

/-- Settles O28: a received flit is Received, a first tag failure is a bad flit (tagFailure_of_first), and a NAK sends again (sentAgain). -/
theorem flitsAreTakenInOrder : Obligations.FlitsAreTakenInOrder := by
  unfold Obligations.FlitsAreTakenInOrder
  refine ⟨fun t p f crcOk tagOk s => ⟨fun hst => ?_, fun hst hcrc htyp htag hfirst => ?_⟩, fun t p ack s hst hw => ?_⟩
  · obtain ⟨u, hex, hu⟩ := flitReceive_received (t := t) (f := f) (crcOk := crcOk) hst
    exact ⟨u, hex, hu.clusters, hu.mem, hu.slots, fun q hq => ⟨hu.port q hq, hu.link q hq⟩, hu.bad, hu.good⟩
  · have hex := exec_flitReceive_badTag (t := t) hst hcrc htyp htag
    rw [tagFailure_of_first (s := tick t s) hfirst] at hex
    have hnak := badFlit_nakked (tagFailNoted (tick t s) p) p 1
    have hrx : ((errNoted (tagFailNoted (tick t s) p) p 1).link p).rxSeq = (s.link p).rxSeq := by simp [errNoted, tagFailNoted]
    obtain ⟨n, hn⟩ := hnak.counted
    rw [port_errNoted_same] at hn
    exact ⟨_, hex, by rw [hn]; rfl, by rw [hn]; exact hst, hnak.rxSeq.trans hrx, by rw [hn]; rfl, hnak.clusters, hnak.mem, hnak.slots⟩
  · have honly := (OnlyPort.tick p t s).trans (.sentAgain _ p ack)
    refine ⟨_, exec_nak_of_waiting_nil hst hw t ack, rfl, ?_, ?_, ?_, ?_, fun q hq => ⟨honly.port q hq, honly.link q hq⟩, honly.clusters,
      honly.mem, honly.slots⟩
    · rw [link_sentAgain_same]
      rfl
    · rw [link_sentAgain_same]
      rfl
    · rw [port_sentAgain_same]
      rfl
    · rw [port_sentAgain_same]
      rfl

end Sys2Proof.Machine
end

section
/-! PROOFS. Retraining, the bits of BRM_CTRL, new keys and TIME (R267, R268, R271, R287, R441). -/

namespace Sys2Proof.Machine

-- Retraining (R267)

/-- Without all lanes offered, the width at which a retrain ends: what the good lanes allow, and no more than before. -/
def Port.retrainWidth (k : Port) (lanes : BitVec 8) : Nat := Nat.min (laneWidth lanes) k.width.toNat

/-- The end of a retrain of port q in a state: it changes that port alone, and the port has the lanes and the width that are left. -/
structure RetrainEnds (q : Fin 16) (lanes : BitVec 8) (state : BitVec 3) (s u : State) : Prop extends OnlyPort q s u where
  state : (u.port q).state = state
  laneOk : (u.port q).laneOk = lanes
  width : (u.port q).width = BitVec.ofNat 2 ((s.port q).retrainWidth lanes)

section
variable {s : State} {q : Fin 16} {lanes : BitVec 8}

theorem endRetrain_of_no_width (hall : (s.port q).allLanes = false) (hw : (s.port q).retrainWidth lanes = 0) :
    RetrainEnds q lanes 6 s (endRetrain s q lanes) ∧ ((endRetrain s q lanes).link q).replay = [] := by
  unfold endRetrain
  extract_lets k part w k1 _ s1
  have hwidth : w = (s.port q).retrainWidth lanes := if_neg (by simp [k, hall])
  rw [if_pos (hwidth.trans hw)]
  have honly : OnlyPort q s s1 := (OnlyPort.setPort s q _).trans (.setLink _ q _)
  exact ⟨⟨honly.trans (.logEv q s1 ..), by simp [s1], by simp [s1, k1], by simp [s1, k1, hwidth]⟩, by simp [s1]⟩

theorem endRetrain_of_width (hall : (s.port q).allLanes = false) (hw : (s.port q).retrainWidth lanes ≠ 0) :
    RetrainEnds q lanes 3 s (endRetrain s q lanes) := by
  unfold endRetrain
  extract_lets k part w k1 _ _ s1 k2 s2
  have hwidth : w = (s.port q).retrainWidth lanes := if_neg (by simp [k, hall])
  rw [if_neg (by rw [hwidth]; exact hw)]
  have h1 : RetrainEnds q lanes 3 s s1 :=
    ⟨(OnlyPort.setPort s q _).trans (.setLink _ q _), by simp [s1], by simp [s1, k1], by simp [s1, k1, hwidth]⟩
  have h2 : RetrainEnds q lanes 3 s s2 := by
    by_cases hdeg : w < k.width.toNat
    · simp only [s2, if_pos hdeg]
      exact ⟨(h1.toOnlyPort.trans (.setPort s1 q _)).trans (.logEv q _ ..), by simp [k2, h1.state], by simp [k2, h1.laneOk],
        by simp [k2, h1.width]⟩
    · simp only [s2, if_neg hdeg]
      exact h1
  have hsent := FlitsSent.drainFlits s2 q
  obtain ⟨n, hn⟩ := hsent.counted
  exact ⟨h2.toOnlyPort.trans hsent.toOnlyPort, by rw [hn]; exact h2.state, by rw [hn]; exact h2.laneOk, by rw [hn]; exact h2.width⟩

theorem exec_retrain_of_blockLock (hst : (s.port q).state = 3) (t : Nat) :
    exec (.retrain t q .blockLock lanes) s = .next (endRetrain (tick t s) q lanes) := by
  show execRetrain t q .blockLock lanes s = _
  simp [execRetrain, countFec, hst]

end

-- BRM_CTRL (R268, R287)

/-- The state in which a denied or failed port q trains afresh. -/
def trainsAfresh (s : State) (q : Fin 16) : State :=
  (s.setPort q { s.port q with state := 1, width := 0, fails := 0, failAt := s.now }).setLink q LinkL.reset

/-- The state in which BRM_CTRL.DISABLE holds port q OFF. -/
def heldOff (s : State) (q : Fin 16) : State :=
  (s.setPort q { s.port q with disable := true, state := 0, width := 0, leftUp := s.now }).setLink q LinkL.reset

theorem OnlyPort.setBoth (s : State) (q : Fin 16) (k : Port) (l : LinkL) : OnlyPort q s ((s.setPort q k).setLink q l) :=
  (OnlyPort.setPort s q k).trans (.setLink _ q l)

theorem OnlyPort.trainsAfresh (s : State) (q : Fin 16) : OnlyPort q s (trainsAfresh s q) := .setBoth s q ..

theorem OnlyPort.heldOff (s : State) (q : Fin 16) : OnlyPort q s (heldOff s q) := .setBoth s q ..

@[simp] theorem port_trainsAfresh_same (s : State) (q : Fin 16) : (trainsAfresh s q).port q =
    { s.port q with state := 1, width := 0, fails := 0, failAt := s.now } := port_setPort_same ..

@[simp] theorem link_trainsAfresh_same (s : State) (q : Fin 16) : (trainsAfresh s q).link q = LinkL.reset := link_setLink_same ..

theorem port_heldOff_same (s : State) (q : Fin 16) : (heldOff s q).port q =
    { s.port q with disable := true, state := 0, width := 0, leftUp := s.now } := port_setPort_same ..

theorem link_heldOff_same (s : State) (q : Fin 16) : (heldOff s q).link q = LinkL.reset := link_setLink_same ..

section
variable {t : Nat} {who : Requester} {p : Fin 16} {s : State}

theorem exec_brmCtrl_of_not_writer (hw : brmWriter who = false) :
    exec (.brmCtrlRetrain t who p) s = .next (tick t s) ∧ exec (.brmCtrlFullWidth t who p) s = .next (tick t s) ∧
      ∀ v, exec (.brmCtrlDisable t who p v) s = .next (tick t s) := by
  have hno : (!brmWriter who || !lgOn (tick t s) p) = true := by simp [hw]
  refine ⟨congrArg Host.Outcome.next (if_pos hno), congrArg Host.Outcome.next (if_neg ?_), fun v => congrArg Host.Outcome.next (if_pos hno)⟩
  simp [hw]

theorem brmCtrl_not_refused (hw : brmWriter who = true) (hon : lgOn s p = true) : ¬ (!brmWriter who || !lgOn (tick t s) p) = true := by
  simp [hw, hon]

/-- RETRAIN and FULL_WIDTH begin a retrain of an UP port. -/
theorem exec_brmCtrl_of_up (hw : brmWriter who = true) (hon : lgOn s p = true) (hst : (s.port p).state = 3) :
    exec (.brmCtrlRetrain t who p) s = .next ((tick t s).setPort p { s.port p with state := 4, allLanes := false, leftUp := max s.now t }) ∧
      exec (.brmCtrlFullWidth t who p) s =
        .next ((tick t s).setPort p { s.port p with state := 4, allLanes := true, leftUp := max s.now t }) := by
  refine ⟨congrArg Host.Outcome.next ((if_neg (brmCtrl_not_refused hw hon)).trans (if_pos hst)), congrArg Host.Outcome.next (if_pos ?_)⟩
  simp [hw, hon, hst]

/-- RETRAIN trains a denied or failed port afresh. -/
theorem exec_brmCtrlRetrain_of_down (hw : brmWriter who = true) (hon : lgOn s p = true) (hst : (s.port p).state = 5 ∨ (s.port p).state = 6) :
    exec (.brmCtrlRetrain t who p) s = .next (trainsAfresh (tick t s) p) := by
  have hup : ¬ (s.port p).state = 3 := by rcases hst with h | h <;> simp [h]
  exact congrArg Host.Outcome.next ((if_neg (brmCtrl_not_refused hw hon)).trans ((if_neg hup).trans (if_pos hst)))

/-- A disabled port is held OFF; besides, a clock reference recovered from it is lost (R434). -/
theorem exec_brmCtrlDisable_true (hw : brmWriter who = true) (hon : lgOn s p = true) :
    ∃ clk, exec (.brmCtrlDisable t who p true) s = .next { heldOff (tick t s) p with clk := clk } := by
  have hoff : ∃ clk, brmDisable (tick t s) who p true = { heldOff (tick t s) p with clk := clk } := by
    unfold brmDisable
    extract_lets k s1
    rw [if_neg (brmCtrl_not_refused hw hon), if_pos rfl]
    split
    · exact ⟨_, rfl⟩
    · exact ⟨_, rfl⟩
  obtain ⟨clk, hclk⟩ := hoff
  exact ⟨clk, congrArg Host.Outcome.next hclk⟩

theorem exec_brmCtrlDisable_false (hw : brmWriter who = true) (hon : lgOn s p = true) (hd : portDecl s p = none) :
    exec (.brmCtrlDisable t who p false) s = .next ((tick t s).setPort p { s.port p with disable := false }) := by
  have hd' : portDecl ((tick t s).setPort p { s.port p with disable := false }) p = none := hd
  have hstart : startPort ((tick t s).setPort p { s.port p with disable := false }) p =
      (tick t s).setPort p { s.port p with disable := false } := if_neg (by simp [hd'])
  exact congrArg Host.Outcome.next ((if_neg (brmCtrl_not_refused hw hon)).trans ((if_neg (by simp)).trans hstart))

end

-- Keys (R271) and the timebase (R441)

/-- The state in which the transmitter of port q has taken a new key, and keeps the old one. -/
def newTxKey (s : State) (q : Fin 16) : State :=
  (({ s with free := s.free + 1 } : State).setPort q { s.port q with keyTx := !(s.port q).keyTx }).setLink q { s.link q with
    keyFlits := 0, keyAt := s.now, txKey := newFlitKey s.free, oldTx := (s.link q).oldTx ++ [((s.link q).txKey, (s.link q).txSeq)] }

/-- The state in which the receiver of port q has taken a new key. -/
def newRxKey (s : State) (q : Fin 16) : State :=
  ({ s with free := s.free + 1 } : State).setLink q { s.link q with rxKeyAt := s.now, rxKey := newFlitKey s.free }

theorem OnlyPort.newTxKey (s : State) (q : Fin 16) : OnlyPort q s (newTxKey s q) := (OnlyPort.fresh q s).trans (.setBoth _ q ..)

theorem OnlyPort.newRxKey (s : State) (q : Fin 16) : OnlyPort q s (newRxKey s q) := (OnlyPort.fresh q s).trans (.setLink _ q _)

section
variable {t : Nat} {p : Fin 16} {s : State}

theorem exec_keyUpdate_of_due (hst : (s.port p).state = 3)
    (hdue : 2 ^ 40 ≤ (s.link p).keyFlits ∨ (s.link p).keyAt + 86400000000000 ≤ max s.now t) :
    exec (.keyUpdate t p true) s = .next (newTxKey (tick t s) p) :=
  (if_neg (not_not_intro hst)).trans ((if_pos rfl).trans (if_pos (hdue.imp_right decide_eq_true)))

theorem exec_keyUpdate_of_not_due (hst : (s.port p).state = 3) (hf : (s.link p).keyFlits < 2 ^ 40)
    (ht : max s.now t < (s.link p).keyAt + 86400000000000) : exec (.keyUpdate t p true) s = .next (tick t s) := by
  refine (if_neg (not_not_intro hst)).trans ((if_pos rfl).trans (if_neg ?_))
  rintro (h | h)
  · exact absurd hf (Nat.not_lt.mpr h)
  · exact absurd ht (Nat.not_lt.mpr (of_decide_eq_true h))

theorem exec_keyUpdate_receive (hst : (s.port p).state = 3) : exec (.keyUpdate t p false) s = .next (newRxKey (tick t s) p) :=
  (if_neg (not_not_intro hst)).trans (if_neg (by simp))

theorem exec_time_of_primary (hp : primaryPort s = some p) (hst : (s.port p).state = 3) (ns : Nat) :
    exec (.time t p ns) s = .next { tick t s with clk := { (tick t s).clk with slew := (ns : Int) - (tick t s).clk.time.toNat } } :=
  if_pos ⟨hp, hst⟩

theorem exec_timeExchange_of_primary (hp : primaryPort s = some p) : exec (.timeExchange t) s =
    .next (sendFlit { tick t s with free := s.free + 1 } p
      { typ := 3, vc := 0, poison := 0, data := (List.range 224).map (Config.responseByte s.free) }) := by
  have hp' : primaryPort (tick t s) = some p := hp
  show execTimeExchange t s = _
  simp only [execTimeExchange, hp']
  rfl

end

/-- Settles O29: the ends of a retrain are endRetrain_of_no_width and endRetrain_of_width; a bit of BRM_CTRL, a new key and a TIME message each
have one next state, written out by its exec lemma. -/
theorem portsRetrainAndRekey : Obligations.PortsRetrainAndRekey := by
  unfold Obligations.PortsRetrainAndRekey
  refine ⟨fun t p lanes who s => ⟨fun hst hall => ?_, fun hw hon => ⟨exec_brmCtrl_of_up hw hon, fun hst => ?_, ?_,
    exec_brmCtrlDisable_false hw hon⟩, exec_brmCtrl_of_not_writer⟩, fun t p ns s hst => ⟨fun hdue => ?_, exec_keyUpdate_of_not_due hst, ?_,
    fun hp => ⟨exec_time_of_primary hp hst ns, ?_⟩⟩⟩
  · refine ⟨_, exec_retrain_of_blockLock hst t, ?_⟩
    have htick := OnlyPort.tick p t s
    by_cases hw : (s.port p).retrainWidth lanes = 0
    · obtain ⟨hend, hreplay⟩ := endRetrain_of_no_width (s := tick t s) hall hw
      have honly := htick.trans hend.toOnlyPort
      exact ⟨hend.width, hend.laneOk, fun _ => ⟨hend.state, hreplay⟩, fun h => absurd hw h, fun q hq => ⟨honly.port q hq, honly.link q hq⟩,
        honly.clusters, honly.mem⟩
    · have hend := endRetrain_of_width (s := tick t s) hall hw
      have honly := htick.trans hend.toOnlyPort
      exact ⟨hend.width, hend.laneOk, fun h => absurd h hw, fun _ => hend.state, fun q hq => ⟨honly.port q hq, honly.link q hq⟩,
        honly.clusters, honly.mem⟩
  · have honly := (OnlyPort.tick p t s).trans (.trainsAfresh _ p)
    exact ⟨_, exec_brmCtrlRetrain_of_down hw hon hst, by simp, by simp, by simp, fun q hq => ⟨honly.port q hq, honly.link q hq⟩, honly.mem⟩
  · obtain ⟨clk, hex⟩ := exec_brmCtrlDisable_true (t := t) hw hon
    have honly := (OnlyPort.tick p t s).trans (.heldOff _ p)
    have hport := port_heldOff_same (tick t s) p
    exact ⟨_, hex, congrArg Port.state hport, congrArg Port.disable hport, congrArg Port.width hport, link_heldOff_same ..,
      fun q hq => ⟨honly.port q hq, honly.link q hq⟩, honly.mem, honly.clusters⟩
  · have honly := (OnlyPort.tick p t s).trans (.newTxKey _ p)
    exact ⟨_, newFlitKey s.free, exec_keyUpdate_of_due hst hdue, by simp, by simp, port_setPort_same .., link_setLink_same ..,
      fun q hq => ⟨honly.port q hq, honly.link q hq⟩, rfl, honly.clusters, honly.mem⟩
  · have honly := (OnlyPort.tick p t s).trans (.newRxKey _ p)
    exact ⟨_, newFlitKey s.free, exec_keyUpdate_receive hst, by simp, by simp, rfl, link_setLink_same .., honly.link, rfl, honly.clusters,
      honly.mem⟩
  · exact ⟨_, _, exec_timeExchange_of_primary hp, by simp, rfl, rfl, rfl, rfl⟩

end Sys2Proof.Machine
end

section
/-! PROOFS. The walk of a collective engine (R274, R275, R280, R282, R290, R294): its start and its abort, the input of a collective, and its end. -/

namespace Sys2Proof.Machine

@[simp] theorem enginePart_tick (t : Nat) (s : State) (e : Fin 4) : enginePart (tick t s) e = enginePart s e := rfl
@[simp] theorem schedDesc_tick (t : Nat) (s : State) (p : Fin 8) (e : Fin 4) (k : Nat) : schedDesc (tick t s) p e k = schedDesc s p e k := rfl
@[simp] theorem readyWords_tick (t : Nat) (s : State) (p : Fin 8) (d : Bytes) (step : W32) :
    readyWords (tick t s) p d step = readyWords s p d step := rfl

-- Changes of one engine

/-- From s to u only collective engine e differs of the collective engines, and update engines, clusters, main memory and slots stay. -/
structure OnlyCol (e : Fin 4) (s u : State) : Prop where
  col : ∀ f, f ≠ e → u.col f = s.col f
  ues : u.ues = s.ues
  clusters : u.clusters = s.clusters
  mem : u.mem = s.mem
  slots : u.slots = s.slots

namespace OnlyCol

theorem trans {e : Fin 4} {s t u : State} (h1 : OnlyCol e s t) (h2 : OnlyCol e t u) : OnlyCol e s u :=
  ⟨fun f hf => (h2.col f hf).trans (h1.col f hf), h2.ues.trans h1.ues, h2.clusters.trans h1.clusters, h2.mem.trans h1.mem,
    h2.slots.trans h1.slots⟩

theorem tick (e : Fin 4) (t : Nat) (s : State) : OnlyCol e s (tick t s) := ⟨fun _ _ => rfl, rfl, rfl, rfl, rfl⟩

theorem setCol (s : State) (e : Fin 4) (k : Col) : OnlyCol e s (s.setCol e k) :=
  ⟨fun f hf => col_setCol_other s e k f hf.symm, rfl, rfl, rfl, rfl⟩

theorem logCol (s : State) (e : Fin 4) (event : Nat) (l : Bytes) : OnlyCol e s (logCol s e event l) :=
  ⟨fun f _ => congrArg (·.get f) (logEv_cols ..), logEv_ues .., logEv_clusters .., logEv_mem .., logEv_slots ..⟩

end OnlyCol

@[simp] theorem col_logCol (s : State) (e f : Fin 4) (event : Nat) (l : Bytes) : (logCol s e event l).col f = s.col f :=
  congrArg (·.get f) (logEv_cols ..)

-- The walk starts and aborts (R274, R290)

section
variable {t : Nat} {who : Requester} {e : Fin 4} {val : W32} {s : State}

theorem exec_colStep_of_not_writer (hw : engWriter who = false) : exec (.colStep t who e val) s = .next (tick t s) :=
  congrArg Host.Outcome.next (if_pos (by simp [hw]))

theorem exec_colStep_of_not_idle (hst : (s.col e).state ≠ 0) : exec (.colStep t who e val) s = .next (tick t s) :=
  congrArg Host.Outcome.next (if_pos (by simp only [col_tick, bne_iff_ne.mpr hst, Bool.or_true]))

/-- A collective engine at the start of a walk for which it holds nothing. -/
def Col.begun (k : Col) (val : W32) : Col :=
  { k with step := val, next := 0, fly := [], past := [], dupLog := [], held := [], state := if k.count = 0 then 0 else 1 }

theorem exec_colStep_of_idle (hw : engWriter who = true) (hon : ueOn s e = true) (hst : (s.col e).state = 0) (hheld : (s.col e).held = []) :
    exec (.colStep t who e val) s = .next (ueBegin ((tick t s).setCol e ((s.col e).begun val)) e) := by
  refine congrArg Host.Outcome.next ((if_neg (by simp [hw, hon, hst])).trans ?_)
  simp only [col_tick, hheld, List.filter_nil, List.foldl_nil]
  rfl

theorem ueBegin_of_parked (h : (s.ue e).regs.state = 3) : ueBegin s e = s := if_pos h

theorem ueBegin_of_not_parked (h : (s.ue e).regs.state ≠ 3) : ueBegin s e = s.setUe e { s.ue e with
    regs := { (s.ue e).regs with state := 1 }, st := { UeStep.reset with inbox := (s.ue e).st.inbox } } := if_neg h

theorem exec_colCtrlAbort_of_not_writer (hw : engWriter who = false) : exec (.colCtrlAbort t who e) s = .next (tick t s) :=
  congrArg Host.Outcome.next (if_neg (by simp [hw]))

theorem exec_colCtrlAbort_of_writer (hw : engWriter who = true) (hon : ueOn s e = true) :
    exec (.colCtrlAbort t who e) s = .next ((tick t s).setCol e { s.col e with state := 0, fly := [], next := 0 }) :=
  congrArg Host.Outcome.next (if_pos (by simp [hw, hon]))

theorem exec_updCtrlClrDiscord_of_parked (hw : engWriter who = true) (hon : ueOn s e = true) (hst : (s.ue e).regs.state = 3) :
    exec (.updCtrlClrDiscord t who e) s = .next ((tick t s).setUe e { s.ue e with
      regs := { (s.ue e).regs with state := 0, parkStep := 0, parkGroup := 0, parkWhy := 0 } }) :=
  congrArg Host.Outcome.next (if_pos (by simp [hw, hon, hst]))

theorem exec_updCtrlClrDiscord_of_not_writer (hw : engWriter who = false) : exec (.updCtrlClrDiscord t who e) s = .next (tick t s) :=
  congrArg Host.Outcome.next (if_neg (by simp [hw]))

theorem exec_updCtrlClrDiscord_of_not_parked (hst : (s.ue e).regs.state ≠ 3) : exec (.updCtrlClrDiscord t who e) s = .next (tick t s) :=
  congrArg Host.Outcome.next (if_neg (by simp only [ue_tick, beq_eq_false_iff_ne.mpr hst, Bool.and_false, Bool.false_eq_true, not_false_eq_true]))

/-- Settles O30: each command has one next state, and the walk that starts begins the step in the update engine (ueBegin). -/
theorem walksStartAndAbort : Obligations.WalksStartAndAbort := by
  unfold Obligations.WalksStartAndAbort
  intro t who e val s
  refine ⟨fun hw => ⟨exec_colStep_of_not_writer hw, exec_colCtrlAbort_of_not_writer hw, exec_updCtrlClrDiscord_of_not_writer hw⟩,
    fun hw hon => ⟨exec_colStep_of_not_idle, fun hst hheld => ?_, exec_colCtrlAbort_of_writer hw hon,
      exec_updCtrlClrDiscord_of_parked hw hon, exec_updCtrlClrDiscord_of_not_parked⟩⟩
  refine ⟨_, exec_colStep_of_idle hw hon hst hheld, ?_⟩
  have hbegun := (OnlyCol.tick e t s).trans (.setCol _ e ((s.col e).begun val))
  by_cases hpark : (s.ue e).regs.state = 3
  · rw [ueBegin_of_parked (s := (tick t s).setCol e _) hpark]
    exact ⟨col_setCol_same .., fun h => absurd hpark h, fun _ => rfl, fun f hf => ⟨hbegun.col f hf, rfl⟩, rfl, rfl, rfl⟩
  · rw [ueBegin_of_not_parked (s := (tick t s).setCol e _) hpark]
    exact ⟨col_setCol_same .., fun _ => by simp, fun h => absurd h hpark, fun f hf => ⟨hbegun.col f hf, ue_setUe_other _ e _ f hf.symm⟩,
      rfl, rfl, rfl⟩

end

-- The input of a collective (R274, R275, R280, R282)

theorem exec_collectiveStart_of_ready {t : Nat} {e : Fin 4} {s : State} {p : Fin 8} {i : Img} (hon : ueOn s e = true)
    (hst : (s.col e).state = 1 ∨ (s.col e).state = 2) (hfly : (s.col e).fly.length < 2) (hnext : (s.col e).next < (s.col e).count.toNat)
    (hpart : enginePart s e = some (p, i)) (hheld : (s.col e).held = [])
    (hready : readyWords s p (schedDesc s p e (s.col e).next) (s.col e).step = true) :
    ∃ c, exec (.collectiveStart t e) s = .next (pumpAll ((tick t s).setCol e { s.col e with
        state := 2, next := (s.col e).next + 1, fly := (s.col e).fly ++ [c], held := [] }) p i e) ∧
      c.entry = (s.col e).next ∧ c.desc = schedDesc s p e (s.col e).next ∧ c.since = max s.now t ∧ c.got = [] ∧ c.sent = [] ∧
      c.given = [] ∧
      c.inp = collInput (tick t s) p (geoOf i (schedDesc s p e (s.col e).next)) (schedDesc s p e (s.col e).next) := by
  refine ⟨{ entry := (s.col e).next, desc := schedDesc s p e (s.col e).next, since := max s.now t
            inp := collInput (tick t s) p (geoOf i (schedDesc s p e (s.col e).next)) (schedDesc s p e (s.col e).next)
            mult := pU32 s p (s.ue (destUe (schedDesc s p e (s.col e).next))).regs.rate.toNat, got := [], sent := [], given := [] },
    ?_, rfl, rfl, rfl, rfl, rfl, rfl, rfl⟩
  have hopen : ¬ (!ueOn s e || !((s.col e).state == 1 || (s.col e).state == 2) || decide (2 ≤ (s.col e).fly.length) ||
      decide ((s.col e).count.toNat ≤ (s.col e).next)) = true := by
    rcases hst with h | h <;> simp [hon, h, hfly, hnext]
  refine (if_neg hopen).trans ?_
  simp only [enginePart_tick, hpart, col_tick, schedDesc_tick, readyWords_tick, hready, hheld]
  rfl

section
variable {t : Nat} {q : Fin 16} {h : ContribHdr} {data : Bytes} {poi : List Nat} {s : State} {o : Fin 8} {link : Bytes} {i : Img} {e : Fin 4}

theorem exec_contribution_of_up (hst : (s.port q).state = 3) (hd : portDecl s q = some (o, link)) (hi : (s.slot o).img = some i)
    (he : contribEngine s o i q h.collId.toNat = some e) :
    exec (.contribution t q h data poi) s = .next (routeContrib (tick t s) o i e q h data poi) := by
  have hd' : portDecl (tick t s) q = some (o, link) := hd
  have he' : contribEngine (tick t s) o i q h.collId.toNat = some e := he
  show execContribution t q h data poi s = _
  simp [execContribution, hst, hd', hi, he']

theorem routeContrib_of_unnamed (hn : (schedIds s o e).idxOf? h.collId.toNat = none) :
    routeContrib s o i e q h data poi = strayContrib s e h := by
  simp only [routeContrib, hn]

variable {n : Nat}

theorem routeContrib_of_aborted_same (hn : (schedIds s o e).idxOf? h.collId.toNat = some n) (hst : (s.col e).state = 3)
    (hstep : h.step = (s.col e).step) : routeContrib s o i e q h data poi = s := by
  simp only [routeContrib, hn, hst, hstep, if_true]

theorem routeContrib_of_aborted_other (hn : (schedIds s o e).idxOf? h.collId.toNat = some n) (hst : (s.col e).state = 3)
    (hstep : h.step ≠ (s.col e).step) : routeContrib s o i e q h data poi = holdContrib s e q h data poi := by
  simp only [routeContrib, hn, hst, hstep, if_true, if_false]

theorem ne_aborted_and_ne_idle_of_walking {k : Col} (hst : k.state = 1 ∨ k.state = 2) : ¬ k.state = 3 ∧ ¬ k.state = 0 := by
  rcases hst with h | h <;> simp [h]

theorem routeContrib_of_not_started (hn : (schedIds s o e).idxOf? h.collId.toNat = some n) (hst : (s.col e).state = 1 ∨ (s.col e).state = 2)
    (hfly : (s.col e).fly.find? (fun x => x.entry == n) = none) (hnext : (s.col e).next ≤ n) :
    routeContrib s o i e q h data poi = holdContrib s e q h data poi := by
  obtain ⟨h3, h0⟩ := ne_aborted_and_ne_idle_of_walking hst
  simp only [routeContrib, hn, h3, h0, hfly, hnext, if_true, if_false]

theorem routeContrib_of_in_flight {k : Coll} (hn : (schedIds s o e).idxOf? h.collId.toNat = some n)
    (hst : (s.col e).state = 1 ∨ (s.col e).state = 2) (hfly : (s.col e).fly.find? (fun x => x.entry == n) = some k) :
    routeContrib s o i e q h data poi = pumpAll (takeContrib s i e k q h data poi) o i e := by
  obtain ⟨h3, h0⟩ := ne_aborted_and_ne_idle_of_walking hst
  simp only [routeContrib, hn, h3, h0, hfly, if_false]

end

theorem OnlyCol.strayContrib (s : State) (e : Fin 4) (h : ContribHdr) : OnlyCol e s (strayContrib s e h) :=
  ((OnlyCol.setCol s e _).trans (.setCol _ e _)).trans (.logCol _ e ..)

theorem col_strayContrib_same (s : State) (e : Fin 4) (h : ContribHdr) : (strayContrib s e h).col e =
    { s.col e with strays := (s.col e).strays + 1, err := (s.col e).err ||| 2 } := by
  simp [Machine.strayContrib, setColErr]

/-- Settles O31: a start joins the flight (exec_collectiveStart_of_ready), and a contribution goes where routeContrib sends it. -/
theorem collectivesTakeTheirInput : Obligations.CollectivesTakeTheirInput := by
  unfold Obligations.CollectivesTakeTheirInput
  refine ⟨fun t e s p i hon hst hfly hnext hpart hheld hready => exec_collectiveStart_of_ready hon hst hfly hnext hpart hheld hready,
    fun t q h data poi s o link i e hst hd hi he => ?_⟩
  rw [exec_contribution_of_up hst hd hi he]
  refine ⟨fun hn => ?_, fun n hn => ⟨fun hab hstep => ?_, fun hab hstep => ?_, fun hwalk hnone hnext => ?_, fun k hwalk hk => ?_⟩⟩
  · have honly := (OnlyCol.tick e t s).trans (.strayContrib _ e h)
    rw [routeContrib_of_unnamed (s := tick t s) hn]
    exact ⟨_, rfl, col_strayContrib_same .., honly.col, honly.mem, honly.clusters, honly.ues⟩
  · rw [routeContrib_of_aborted_same (s := tick t s) hn hab hstep]
  · rw [routeContrib_of_aborted_other (s := tick t s) hn hab hstep]
    rfl
  · rw [routeContrib_of_not_started (s := tick t s) hn hwalk hnone hnext]
    rfl
  · rw [routeContrib_of_in_flight (s := tick t s) hn hwalk hk]

end Sys2Proof.Machine
end

section
/-! PROOFS. The end of a collective (R275, R282, R294): its NOTIFYs and the engine after it, and the walk that a timeout aborts. -/

namespace Sys2Proof.Machine

-- Completion (R275, R294)

section
variable {t : Nat} {e : Fin 4} {s : State} {p : Fin 8} {i : Img} {k : Coll}

/-- Where every cluster that its NOTIFY names is on, the oldest complete collective sends its SIGs and ends. -/
theorem exec_notify_of_complete (hpart : enginePart s e = some (p, i))
    (hk : (s.col e).fly.find? (fun k => k.complete (geoOf i k.desc) (tick t s) e) = some k)
    (hon : (notifyTargets s p k.desc).all (fun x => clOn s x.1) = true) :
    exec (.notify t e) s = .next (endColl ((notifyTargets s p k.desc).foldl notifySem (tick t s)) e k) := by
  have hk' : ((tick t s).col e).fly.find? (fun k => k.complete (geoOf i k.desc) (tick t s) e) = some k := hk
  show execNotify t e s = _
  simp only [execNotify, enginePart_tick, hpart, hk']
  exact if_pos hon

end

theorem endColl_col (s : State) (e : Fin 4) (k : Coll) : ((endColl s e k).col e).done = (s.col e).done + 1 ∧
    ((endColl s e k).col e).fly = (s.col e).fly.filter (fun x => x.entry != k.entry) ∧ ((endColl s e k).col e).next = (s.col e).next := by
  unfold endColl
  extract_lets c fly u s1
  have hs1 : s1.col e = _ := col_setCol_same ..
  split
  · exact ⟨congrArg Col.done hs1, congrArg Col.fly hs1, (congrArg Col.next hs1 :)⟩
  · exact ⟨congrArg Col.done hs1, congrArg Col.fly hs1, (congrArg Col.next hs1 :)⟩

/-- The end of a collective changes engines alone. -/
theorem endColl_keeps (s : State) (e : Fin 4) (k : Coll) :
    (endColl s e k).clusters = s.clusters ∧ (endColl s e k).mem = s.mem ∧ (endColl s e k).log = s.log := by
  unfold endColl
  extract_lets c fly u s1
  split
  · exact ⟨rfl, rfl, rfl⟩
  · exact ⟨rfl, rfl, rfl⟩

theorem endColl_ues_of_memory (s : State) (e : Fin 4) {k : Coll} (h : fieldU k.desc 9 1 % 16 ≠ 1) : (endColl s e k).ues = s.ues := by
  unfold endColl
  extract_lets c fly u s1
  rw [if_neg h]
  rfl

@[simp] theorem cl_clLog (s : State) (c d : Fin 64) (event : Nat) (l : Bytes) : (clLog s c event l).cl d = s.cl d :=
  congrArg (·.get d) (logEv_clusters ..)

/-- A semaphore's number of the 32. -/
def semIdx (n : Nat) : Fin 32 := ⟨n % 32, Nat.mod_lt _ (by decide)⟩

/-- A NOTIFY adds 1 to its semaphore and changes no other cluster, no engine and no memory (R148). -/
theorem notifySem_adds (s : State) (c : Fin 64) (n : Nat) :
    ((notifySem s (c, n)).cl c).seq.sems = vset (s.cl c).seq.sems (semIdx n)
        (BitVec.ofNat 16 (Nat.min (((s.cl c).seq.sems.get (semIdx n)).toNat + 1) 0xFFFF)) ∧
      (∀ d, d ≠ c → (notifySem s (c, n)).cl d = s.cl d) ∧ (notifySem s (c, n)).cols = s.cols ∧ (notifySem s (c, n)).mem = s.mem := by
  unfold notifySem
  extract_lets k i v exceeds _ _ s1
  have hother : ∀ d, d ≠ c → s1.cl d = s.cl d := fun d hd => cl_setCl_other s c _ d hd.symm
  have hsems : (s1.cl c).seq.sems = _ := congrArg (fun x : Cluster => x.seq.sems) (cl_setCl_same ..)
  split
  · exact ⟨by rw [cl_clLog]; exact hsems, fun d hd => by rw [cl_clLog]; exact hother d hd, logEv_cols .., logEv_mem ..⟩
  · exact ⟨hsems, hother, rfl, rfl⟩

-- Timeout (R282)

/-- The state in which the walk of engine e is aborted for collective x in flight: COL_ERR.TIMEOUT is set and COLL_TIMEOUT logged. -/
def timedOut (s : State) (e : Fin 4) (oldest : Nat) (x : Coll) : State :=
  logCol (setColErr (s.setCol e { s.col e with state := 3, fly := [], aborted := oldest }) e 3) e 0x5023
    (payload [(4, 4, fieldU x.desc 0 4), (12, 4, (s.col e).step.toNat)])

theorem OnlyCol.timedOut (s : State) (e : Fin 4) (oldest : Nat) (x : Coll) : OnlyCol e s (timedOut s e oldest x) :=
  ((OnlyCol.setCol s e _).trans (.setCol _ e _)).trans (.logCol _ e ..)

theorem col_timedOut_same (s : State) (e : Fin 4) (oldest : Nat) (x : Coll) : (timedOut s e oldest x).col e =
    { s.col e with state := 3, fly := [], aborted := oldest, err := (s.col e).err ||| 8 } := by
  simp [Machine.timedOut, setColErr]

/-- Whether a partition is twinned depends on the slots alone. -/
theorem twinned_congr {s u : State} (h : u.slots = s.slots) (p : Fin 8) : twinned u p = twinned s p := by
  simp only [twinned, twinPorts, portsWith, roleOf, State.slot, h]

section
variable {t : Nat} {e : Fin 4} {s : State} {p : Fin 8} {i : Img} {x y : Coll} {r : List Coll}

/-- After a timeout the partition recovers, or where it is twinned and has timed out before it waits to rejoin (R409, R415). -/
def afterTimeout (s : State) (p : Fin 8) : State :=
  if ((s.slot p).twin.timedOut && twinned s p) = true then waitRejoin s p
  else raiseRecovery (setTwin s p { (s.slot p).twin with timedOut := true }) p 3 (stepNow s p)

theorem exec_collTimeout_of_late (hpart : enginePart (tick t s) e = some (p, i)) (hfly : ((tick t s).col e).fly = y :: r)
    (hx : ((tick t s).col e).fly.find? (fun z => elapsed (tick t s).now z.since (((tick t s).col e).timeout.toNat * 1000) &&
      (expectedKeys (geoOf i z.desc)).any (fun q => (z.msg q.1 q.2.1 q.2.2.1 q.2.2.2).isNone)) = some x) :
    exec (.collTimeout t e) s = .next (afterTimeout (timedOut (tick t s) e y.entry x) p) := by
  show execCollTimeout t e s = _
  unfold execCollTimeout
  generalize tick t s = u at hpart hfly hx ⊢
  simp only [hpart, hx]
  rw [hfly]
  exact (apply_ite Host.Outcome.next _ _ _).symm

end

/-- Settles O32: a complete collective ends (exec_notify_of_complete), and one that is late aborts the walk (exec_collTimeout_of_late). -/
theorem collectivesEnd : Obligations.CollectivesEnd := by
  unfold Obligations.CollectivesEnd
  intro t e s p i hpart
  refine ⟨fun k hk => ⟨fun hno hdest => ?_, fun c n hone hon hn => ?_⟩, fun x y r hfly hx => ?_⟩
  · have hex := exec_notify_of_complete hpart hk (by rw [hno]; rfl)
    rw [hno, List.foldl_nil] at hex
    obtain ⟨hdone, hleft, hnext⟩ := endColl_col (tick t s) e k
    obtain ⟨hcl, hmem, hlog⟩ := endColl_keeps (tick t s) e k
    exact ⟨_, hex, hdone, hleft, hnext, endColl_ues_of_memory _ e hdest, hcl, hmem, hlog⟩
  · have hex := exec_notify_of_complete hpart hk (by rw [hone]; simpa using hon)
    rw [hone, List.foldl_cons, List.foldl_nil] at hex
    obtain ⟨hsems, hother, hcols, hmem'⟩ := notifySem_adds (tick t s) c n
    obtain ⟨hdone, -, -⟩ := endColl_col (notifySem (tick t s) (c, n)) e k
    obtain ⟨hcl, hmem, -⟩ := endColl_keeps (notifySem (tick t s) (c, n)) e k
    have hcl' : ∀ d, (endColl (notifySem (tick t s) (c, n)) e k).cl d = (notifySem (tick t s) (c, n)).cl d := fun d => congrArg (·.get d) hcl
    refine ⟨_, hex, by rw [hcl']; exact hsems, fun d hd => (hcl' d).trans (hother d hd), ?_, hmem.trans hmem'⟩
    rw [hdone, State.col, hcols]
    rfl
  · have hex := exec_collTimeout_of_late hpart hfly hx
    have honly := (OnlyCol.tick e t s).trans (.timedOut _ e y.entry x)
    have hcol := col_timedOut_same (tick t s) e y.entry x
    have hslot : (timedOut (tick t s) e y.entry x).slot p = s.slot p := congrArg (·.get p) honly.slots
    have htwin := twinned_congr honly.slots p
    refine ⟨timedOut (tick t s) e y.entry x, congrArg Col.state hcol, congrArg Col.fly hcol, congrArg Col.aborted hcol,
      congrArg Col.err hcol, honly.mem, honly.clusters, fun h => ?_, fun ht htw => ?_⟩
    · exact hex.trans (congrArg Host.Outcome.next (if_neg (by rw [hslot, htwin]; rcases h with h | h <;> simp [h])))
    · exact hex.trans (congrArg Host.Outcome.next (if_pos (by rw [hslot, htwin, ht, htw]; rfl)))

end Sys2Proof.Machine
end

section
/-! PROOFS. The update engines' batts and the close of a step (R294, R304, R308): the check of a chunk, what becomes of it, and the engine that
closes. -/

namespace Sys2Proof.Machine

-- The batts of a chunk (R294, R304)

/-- What parks a chunk that an engine takes (R304): the group, the reason (1 DISCORD flag, 2 counter) and its LAST. -/
def chunkFault (s : State) (p : Fin 8) (e : Fin 4) (c : UChunk) : Option (Nat × Nat × Nat) :=
  if c.checked then none
  else if c.discord then
    match groupOf s p e c.batt with
    | some (gi, _) => some (gi, 1, fieldU (stateEntry s p e gi) 0 4)
    | none => some (0, 1, 0)
  else (counterFault s p e c).map (fun y => (y.1, 2, y.2))

section
variable {s : State} {p : Fin 8} {e : Fin 4} {c : UChunk}

theorem chunkFault_of_checked (h : c.checked = true) : chunkFault s p e c = none := if_pos h

theorem chunkFault_of_discord (h : c.checked = false) (hd : c.discord = true) {gi : Nat} {g : Bytes}
    (hg : groupOf s p e c.batt = some (gi, g)) : chunkFault s p e c = some (gi, 1, fieldU (stateEntry s p e gi) 0 4) := by
  simp [chunkFault, h, hd, hg]

theorem chunkFault_of_concord (h : c.checked = false) (hd : c.discord = false) :
    chunkFault s p e c = (counterFault s p e c).map (fun y => (y.1, 2, y.2)) := by
  simp [chunkFault, h, hd]

end

section
variable {t : Nat} {e : Fin 4} {s : State} {p : Fin 8} {i : Img} {c : UChunk} {r : List UChunk}
  (hpart : enginePart s e = some (p, i)) (hinbox : (s.ue e).st.inbox = c :: r)
include hpart hinbox

theorem exec_battReceive_of_parked (hst : (s.ue e).regs.state = 3) : exec (.battReceive t e) s =
    .next (dropChunk ((tick t s).setUe e { s.ue e with cnt := { (s.ue e).cnt with discards := (s.ue e).cnt.discards + 1 } }) e c) := by
  show execBattReceive t e s = _
  simp only [execBattReceive, enginePart_tick, ue_tick, hpart, hinbox]
  exact if_pos hst

/-- An engine that is not parked checks the chunk at its front: a fault parks it, else its first batt is taken. -/
theorem exec_battReceive_of_not_parked (hst : (s.ue e).regs.state ≠ 3) : exec (.battReceive t e) s =
    match chunkFault (tick t s) p e c with
    | some (gi, why, last) => .next (parkChunk (tick t s) p e c gi why last)
    | none => match c.batts with
      | [] => .next ((tick t s).setUe e { s.ue e with st := { (s.ue e).st with inbox := (s.ue e).st.inbox.drop 1 } })
      | b :: rest => .next (takeBatt (tick t s) p i e c b rest) := by
  show execBattReceive t e s = _
  simp only [execBattReceive, enginePart_tick, ue_tick, hpart, hinbox]
  exact if_neg hst

theorem exec_battReceive_of_fault (hst : (s.ue e).regs.state ≠ 3) {gi why last : Nat}
    (hf : chunkFault (tick t s) p e c = some (gi, why, last)) :
    exec (.battReceive t e) s = .next (parkChunk (tick t s) p e c gi why last) := by
  rw [exec_battReceive_of_not_parked hpart hinbox hst, hf]

theorem exec_battReceive_of_sound (hst : (s.ue e).regs.state ≠ 3) (hf : chunkFault (tick t s) p e c = none)
    {b : List Nat × Bool} {rest : List (List Nat × Bool)} (hb : c.batts = b :: rest) :
    exec (.battReceive t e) s = .next (takeBatt (tick t s) p i e c b rest) := by
  rw [exec_battReceive_of_not_parked hpart hinbox hst, hf, hb]

end

-- The close of a step (R308)

/-- Whether an engine may close (R308): it is in RUN, and every DEST = 1 collective that names it has completed. -/
def ReadyToClose (s : State) (p : Fin 8) (i : Img) (e : Fin 4) : Prop :=
  (s.ue e).regs.state = 1 ∧ (closers s p i e).all (fun c => (s.ue e).st.dones.contains c) = true

/-- The state in which engine e has closed the step: its groups are closed, and its state is CLOSED (R314). -/
def engineClosed (s : State) (p : Fin 8) (e : Fin 4) (step : W32) : State :=
  let u := closeGroups s p e step
  u.setUe e { u.ue e with regs := { (u.ue e).regs with state := 2 } }

theorem engineClosed_state (s : State) (p : Fin 8) (e : Fin 4) (step : W32) : ((engineClosed s p e step).ue e).regs.state = 2 :=
  congrArg (fun x : Ue => x.regs.state) (ue_setUe_same ..)

section
variable {t : Nat} {e : Fin 4} {s : State} {p : Fin 8} {i : Img} (hpart : enginePart s e = some (p, i))
include hpart

theorem exec_close_of_not_ready (h : ¬ ReadyToClose (tick t s) p i e) : exec (.close t e) s = .next (tick t s) := by
  show execClose t e s = _
  simp only [execClose, enginePart_tick, hpart]
  exact if_neg h

/-- An engine that may close does, and the last of its partition closes the step. -/
theorem exec_close_of_ready (h : ReadyToClose (tick t s) p i e) : exec (.close t e) s =
    if (imgUes i).all (fun f => ((engineClosed (tick t s) p e (s.col e).step).ue f).regs.state == 2) then
      .next (closeStep (engineClosed (tick t s) p e (s.col e).step) p i e (s.col e).step)
    else .next (engineClosed (tick t s) p e (s.col e).step) := by
  show execClose t e s = _
  simp only [execClose, enginePart_tick, hpart]
  exact if_pos h

theorem exec_close_of_last (h : ReadyToClose (tick t s) p i e)
    (hall : ∀ f, f ∈ imgUes i → ((engineClosed (tick t s) p e (s.col e).step).ue f).regs.state = 2) :
    exec (.close t e) s = .next (closeStep (engineClosed (tick t s) p e (s.col e).step) p i e (s.col e).step) :=
  (exec_close_of_ready hpart h).trans (if_pos (by simpa using hall))

theorem exec_close_of_not_last (h : ReadyToClose (tick t s) p i e)
    (hopen : ∃ f, f ∈ imgUes i ∧ ((engineClosed (tick t s) p e (s.col e).step).ue f).regs.state ≠ 2) :
    exec (.close t e) s = .next (engineClosed (tick t s) p e (s.col e).step) :=
  (exec_close_of_ready hpart h).trans (if_neg (by simpa using hopen))

end

/-- Settles O33: a chunk is discarded, parked for its chunkFault or its first batt taken; an engine that is ReadyToClose becomes engineClosed, and
the last of the partition closes the step. -/
theorem battsAreAppliedAndStepsClosed : Obligations.BattsAreAppliedAndStepsClosed := by
  unfold Obligations.BattsAreAppliedAndStepsClosed
  refine ⟨fun t e s p i c r hpart hinbox => ⟨?_, ?_, ?_, ?_, ?_⟩, fun t e s p i hpart => ⟨?_, ?_⟩⟩
  · exact exec_battReceive_of_parked hpart hinbox
  · intro hst hchecked b rest hb
    exact exec_battReceive_of_sound hpart hinbox hst (chunkFault_of_checked hchecked) hb
  · intro hst hchecked hdiscord gi g hg
    exact exec_battReceive_of_fault hpart hinbox hst (chunkFault_of_discord hchecked hdiscord hg)
  · intro hst hchecked hdiscord hnone b rest hb
    exact exec_battReceive_of_sound hpart hinbox hst (by rw [chunkFault_of_concord hchecked hdiscord, hnone]; rfl) hb
  · intro hst hchecked hdiscord y hy
    exact exec_battReceive_of_fault hpart hinbox hst (by rw [chunkFault_of_concord hchecked hdiscord, hy]; rfl)
  · exact exec_close_of_not_ready hpart
  · intro hready
    exact ⟨closeGroups (tick t s) p e (s.col e).step, _, rfl, rfl, engineClosed_state .., exec_close_of_last hpart hready,
      exec_close_of_not_last hpart hready⟩

end Sys2Proof.Machine
end

section
/-! PROOFS. Reset and PWR_APP (R331, R343, R344, R460): what the state after a cold reset holds, the harts that PWR_APP.START releases, and the
register as it is read and written. -/

namespace Sys2Proof.Machine

-- Reset

theorem slot_reset (p : Fin 8) : State.reset.slot p = Slot.reset := Vector.getElem_replicate p.isLt

/-- After reset three domains are on (R460). -/
theorem domOn_reset (i : Fin 96) : domOn State.reset i.val = (i.val == 66 || i.val == 67 || i.val == 93) := by
  revert i
  decide

/-- Settles O58: each register has the value of its block's own reset, and every slot that of Slot.reset. -/
theorem resetLeavesTheSpecsValues : Obligations.ResetLeavesTheSpecsValues := by
  unfold Obligations.ResetLeavesTheSpecsValues
  refine ⟨rfl, rfl, rfl, rfl, rfl, rfl, rfl, rfl, rfl, rfl, rfl, rfl, rfl, rfl, rfl, rfl, rfl, rfl, rfl, rfl, rfl, rfl, rfl, rfl,
    fun p => ?_, domOn_reset⟩
  rw [slot_reset]
  exact ⟨rfl, rfl, rfl, rfl, rfl, rfl, rfl, rfl⟩

-- PWR_APP (R331, R344)

/-- The harts that PWR_APP.START can release: 1 to 7 while APP_0 is on and 8 to 15 while APP_1 is. -/
def startable (s : State) : BitVec 16 := (if domOn s 88 then 0x00FE else 0) ||| (if domOn s 89 then 0xFF00 else 0)

theorem getLsbD_startable (s : State) (n : Fin 16) :
    (startable s).getLsbD n.val = (n.val != 0 && domOn s (if n.val < 8 then 88 else 89)) := by
  have hbits : ∀ a b : Bool, ∀ n : Fin 16, BitVec.getLsbD ((if a then 0x00FE#16 else 0) ||| (if b then 0xFF00 else 0)) n.val =
      (n.val != 0 && (if n.val < 8 then a else b)) := by decide
  rw [apply_ite (domOn s)]
  exact hbits ..

theorem appStart_of_app (s : State) (h : Fin 16) (harts : BitVec 16) :
    appStart s (.app h) harts = releaseHarts s (harts &&& startable s) := rfl

/-- A START bit releases its hart where it can be released, and no hart is held again. -/
theorem getLsbD_running_appStart (s : State) (h n : Fin 16) (harts : BitVec 16) :
    (appStart s (.app h) harts).boot.running.getLsbD n.val =
      (s.boot.running.getLsbD n.val || (harts.getLsbD n.val && n.val != 0 && domOn s (if n.val < 8 then 88 else 89))) := by
  rw [appStart_of_app]
  show (s.boot.running ||| (harts &&& startable s)).getLsbD n.val = _
  rw [BitVec.getLsbD_or, BitVec.getLsbD_and, getLsbD_startable, Bool.and_assoc]

theorem csrRead_pwrApp (s : State) (who : Requester) :
    csrRead s who 0x104 4 = BitVec.ofNat 64 (s.boot.running.toNat * 2 ^ 16 % 2 ^ 32) &&& 0xFFFFFFFF := rfl

/-- RUNNING stands in bits 16 to 31, and START reads as 0. -/
theorem csrRead_pwrApp_eq_shift (s : State) (who : Requester) : csrRead s who 0x104 4 = s.boot.running.setWidth 64 <<< 16 := by
  rw [csrRead_pwrApp]
  generalize s.boot.running = b
  have hb := b.isLt
  apply BitVec.eq_of_toNat_eq
  rw [BitVec.toNat_and, BitVec.toNat_ofNat, BitVec.toNat_shiftLeft, BitVec.toNat_setWidth, Nat.shiftLeft_eq]
  refine (Nat.and_two_pow_sub_one_eq_mod _ 32).trans ?_
  omega

theorem csrStore_pwrApp (s : State) (who : Requester) (v : W64) :
    csrStore s who 0x104 4 v = appStart s who (BitVec.ofNat 16 (v.toNat % 2 ^ 32)) := rfl

theorem getLsbD_ofNat_word (v : W64) (n : Fin 16) : (BitVec.ofNat 16 (v.toNat % 2 ^ 32)).getLsbD n.val = v.getLsbD n.val := by
  have h32 : n.val < 32 := by omega
  rw [BitVec.getLsbD_ofNat, Nat.testBit_mod_two_pow, BitVec.testBit_toNat]
  simp only [n.isLt, h32, decide_true, Bool.true_and]

/-- Settles O50: the register reads as RUNNING shifted to bit 16, and its command and its write both are appStart. -/
theorem pwrAppReleasesHarts : Obligations.PwrAppReleasesHarts := by
  unfold Obligations.PwrAppReleasesHarts
  intro t who h n v s
  have h16 : ¬ 16 + n.val < 16 := by omega
  have h64 : 16 + n.val < 64 := by omega
  rw [csrRead_pwrApp_eq_shift s, csrStore_pwrApp]
  refine ⟨?_, ?_, rfl, ⟨_, rfl, ?_, rfl, rfl, rfl, rfl⟩, ?_⟩
  · simp [h16, h64]
  · simp [BitVec.getLsbD_shiftLeft]
  · rw [getLsbD_running_appStart]
    simp
  · rw [getLsbD_running_appStart, getLsbD_ofNat_word]

end Sys2Proof.Machine
end

section
/-! PROOFS. What writes to the device address space, log entries, outputs and a domain's bit leave as it was (R17, R25, R27, R516). -/

namespace Sys2Proof.Machine

-- Log entries and outputs

theorem logEv_eq (s : State) (a b c : Nat) (l : Bytes) : ∃ g, logEv s a b c l = { s with log := g } := by
  unfold logEv
  split
  · exact ⟨s.log, rfl⟩
  · exact ⟨_, rfl⟩

theorem missIn_eq (s : State) (a n : Nat) : ∃ g, missIn s a n = { s with log := g } := by
  unfold missIn
  split
  · exact logEv_eq ..
  · exact ⟨s.log, rfl⟩

theorem alertEdge_eq (old new : State) : ∃ o, alertEdge old new = { new with out := o } := by
  unfold alertEdge
  split
  · exact ⟨_, rfl⟩
  · exact ⟨new.out, rfl⟩

-- Writes to the device address space

/-- The writes that fall in the control SRAM above the trouble log, at their offsets there (R321). -/
def ctlWrites (ws : List WByte) : List WByte := ws.filterMap (fun w => match locOf w.addr with
  | .ctl o => if o < 0x200000 then none else some { w with addr := o, poi := false }
  | _ => none)

/-- A write changes main memory, the clusters' stores, the spine pools and the control SRAM alone. -/
theorem devCommit_eq (s : State) (ws : List WByte) : ∃ cl sp, devCommit s ws = { s with
    mem := s.mem.commit (ws.filter (fun w => decide (w.addr < dramEnd))), clusters := cl, spines := sp
    ctl := s.ctl.commit 32 (ctlWrites ws) } := by
  unfold devCommit
  extract_lets d cs sp ct s1 s2 s3
  have h2 : ∃ cl, s2 = { s1 with clusters := cl } :=
    foldl_keeps (P := fun t : State => ∃ cl, t = { s1 with clusters := cl }) ⟨s1.clusters, rfl⟩ (fun t c ⟨cl, h⟩ => by
      split
      · exact ⟨vset t.clusters c (clCommit (t.cl c) c ws), by rw [h]; rfl⟩
      · exact ⟨cl, h⟩)
  have h3 : ∃ sp, s3 = { s2 with spines := sp } :=
    foldl_keeps (P := fun t : State => ∃ sp, t = { s2 with spines := sp }) ⟨s2.spines, rfl⟩ (fun t i ⟨x, h⟩ => by
      split
      · exact ⟨vset t.spines i ((t.spines.get i).commit 32 (sp i)), by rw [h]⟩
      · exact ⟨x, h⟩)
  obtain ⟨cl, h2⟩ := h2
  obtain ⟨x, h3⟩ := h3
  exact ⟨cl, x, by rw [h3, h2]; rfl⟩

/-- What the control SRAM holds after a write depends on what it held alone. -/
theorem devWrite_ctl_congr {s u : State} (h : u.ctl = s.ctl) (a : Nat) (b : Bytes) (poi : Bool) :
    (devWrite u a b poi).ctl = (devWrite s a b poi).ctl := by
  obtain ⟨_, _, hu⟩ := devCommit_eq u (wbytes a b poi)
  obtain ⟨_, _, hs⟩ := devCommit_eq s (wbytes a b poi)
  simp only [devWrite, hu, hs, h]

/-- A write above main memory leaves main memory alone. -/
theorem devWrite_mem_of_above {a : Nat} (ha : dramEnd ≤ a) (s : State) (b : Bytes) (poi : Bool) : (devWrite s a b poi).mem = s.mem := by
  have hnone : (wbytes a b poi).filter (fun w => decide (w.addr < dramEnd)) = [] := by
    rw [List.filter_eq_nil_iff]
    intro w hw
    obtain ⟨x, -, rfl⟩ := List.mem_map.mp hw
    simp only [decide_eq_true_eq]
    omega
  obtain ⟨_, _, h⟩ := devCommit_eq s (wbytes a b poi)
  rw [devWrite, h, hnone]
  rfl

/-- Between s and u the stores of the block and the log may differ, nothing else. -/
def StoresOnly (s u : State) : Prop :=
  u = { s with mem := u.mem, clusters := u.clusters, spines := u.spines, ctl := u.ctl, log := u.log }

namespace StoresOnly

theorem refl (s : State) : StoresOnly s s := rfl

theorem trans {s t u : State} (h1 : StoresOnly s t) (h2 : StoresOnly t u) : StoresOnly s u := by
  unfold StoresOnly at *
  rw [h2, h1]

theorem logEv (s : State) (a b c : Nat) (l : Bytes) : StoresOnly s (logEv s a b c l) := by
  obtain ⟨g, h⟩ := logEv_eq s a b c l
  rw [h]
  rfl

theorem missIn (s : State) (a n : Nat) : StoresOnly s (missIn s a n) := by
  obtain ⟨g, h⟩ := missIn_eq s a n
  rw [h]
  rfl

theorem devWrite (s : State) (a : Nat) (b : Bytes) (poi : Bool) : StoresOnly s (devWrite s a b poi) := by
  obtain ⟨_, _, h⟩ := devCommit_eq s (wbytes a b poi)
  rw [Machine.devWrite, h]
  rfl

theorem hostWrite (s : State) (a : Nat) (b : Bytes) : StoresOnly s (hostWrite s a b) := by
  unfold Machine.hostWrite
  split
  · exact devWrite ..
  · exact refl s

section
variable {s u : State} (h : StoresOnly s u)
include h

theorem now : u.now = s.now := by rw [h]
theorem out : u.out = s.out := by rw [h]
theorem pwr : u.pwr = s.pwr := by rw [h]
theorem boot : u.boot = s.boot := by rw [h]
theorem net : u.net = s.net := by rw [h]
theorem sec : u.sec = s.sec := by rw [h]
theorem ports : u.ports = s.ports := by rw [h]
theorem slots : u.slots = s.slots := by rw [h]

end

end StoresOnly

-- Power domains (R27)

theorem domOn_setOn_same (s : State) {i : Nat} (hi : i < 96) : domOn (setOn s i true) i = true := by
  have hbit : (1#96 <<< i).getLsbD i = true := by simp [hi]
  show (s.pwr.on ||| 1#96 <<< i).getLsbD i = true
  rw [BitVec.getLsbD_or, hbit, Bool.or_true]

/-- Powering a domain leaves every domain on that is on. -/
theorem domOn_setOn_of_on {s : State} {j : Nat} (h : domOn s j = true) (i : Nat) : domOn (setOn s i true) j = true := by
  have hbit : s.pwr.on.getLsbD j = true := h
  show (s.pwr.on ||| 1#96 <<< i).getLsbD j = true
  rw [BitVec.getLsbD_or, hbit, Bool.true_or]

/-- Which domains are on stands in one field of the power state. -/
theorem domOn_congr {s u : State} (h : u.pwr = s.pwr) (i : Nat) : domOn u i = domOn s i := by rw [domOn, h, domOn]

end Sys2Proof.Machine
end

section
/-! PROOFS. Start-up (R319 to R324, R331, R340, R341, R361, R476): what each shared operation of chapter 12 changes, and its commands. -/

namespace Sys2Proof.Machine

-- Stages and boot failures (R320, R340)

theorem enterStage_eq (s : State) (n : Nat) :
    ∃ o, enterStage s n = { s with boot := { s.boot with stage := BitVec.ofNat 4 n }, out := o } := by
  unfold enterStage
  extract_lets s1
  split
  · exact ⟨_, rfl⟩
  · exact ⟨s.out, rfl⟩

/-- A boot failure noted: its code in PWR_BOOT, no retry where it is fatal, the log and the output as they then stand. -/
def bootFailed (s : State) (code : Nat) (fatal : Bool) (g : Log) (o : List Out) : State :=
  { s with boot := { s.boot with fail := BitVec.ofNat 8 code, retryAt := if fatal then none else s.boot.retryAt }, log := g, out := o }

/-- A boot failure is noted, and a fatal one is FAILED (stage 15) as well. -/
theorem bootFail_eq_ite (s : State) (code : Nat) (event : Option Nat) (pl : Bytes) (fatal : Bool) : ∃ g o, bootFail s code event pl fatal =
    if fatal then alertEdge s (enterStage (bootFailed s code fatal g o) 15) else bootFailed s code fatal g o := by
  unfold bootFail
  extract_lets _ s1 s2 s3
  have h2 : ∃ g, s2 = { s1 with log := g } := by
    cases event with
    | none => exact ⟨s1.log, rfl⟩
    | some e => exact logEv_eq ..
  have h3 : ∃ o, s3 = { s2 with out := o } := by
    by_cases h : s2.boot.running.getLsbD 0 = true
    · exact ⟨s2.out, if_pos h⟩
    · exact ⟨_, if_neg h⟩
  obtain ⟨g, h2⟩ := h2
  obtain ⟨o, h3⟩ := h3
  exact ⟨g, o, by rw [h3, h2]; rfl⟩

/-- A boot failure that is tried again leaves its code, its log entry and its text line. -/
theorem bootFail_eq (s : State) (code : Nat) (event : Option Nat) (pl : Bytes) :
    ∃ g o, bootFail s code event pl false = { s with boot := { s.boot with fail := BitVec.ofNat 8 code }, log := g, out := o } :=
  bootFail_eq_ite s code event pl false

theorem bootFail_fatal_eq (s : State) (code : Nat) (event : Option Nat) (pl : Bytes) : ∃ g o, bootFail s code event pl true =
    { s with boot := { s.boot with fail := BitVec.ofNat 8 code, retryAt := none, stage := 15 }, log := g, out := o } := by
  obtain ⟨g, o, h⟩ := bootFail_eq_ite s code event pl true
  obtain ⟨_, h1⟩ := enterStage_eq (bootFailed s code true g o) 15
  obtain ⟨o2, h2⟩ := alertEdge_eq s (enterStage (bootFailed s code true g o) 15)
  exact ⟨g, o2, by rw [h, if_pos rfl, h2, h1]; rfl⟩

-- The network loader (R323, R324, R340)

/-- A DHCPDISCOVER notes its moment, and leaves where the link is up. -/
theorem discover_eq (s : State) : ∃ o, discover s = { s with boot := { s.boot with askedAt := s.now }, out := o } := by
  unfold discover
  extract_lets _ s1
  split
  · exact ⟨_, rfl⟩
  · exact ⟨s1.out, rfl⟩

/-- Stage 3 begins with MGT powered and no exchange or transfer under way. -/
theorem startNet_eq (s : State) : ∃ o, startNet s = { setOn s 91 true with
    boot := { s.boot with stage := 3, discover := 0, lease := none, retryAt := none, blk := 0, next := 0, got := 0, resends := 0
                          expired := false, askedAt := s.now }
    out := o } := by
  unfold startNet
  obtain ⟨o1, h1⟩ := enterStage_eq (setOn s 91 true) 3
  rw [h1]
  obtain ⟨o2, h2⟩ := discover_eq _
  exact ⟨o2, h2⟩

/-- A fetch begins in stage 4 with an empty staging area, block 1 expected. -/
theorem startFetch_eq (s : State) (ip : BitVec 32) (server : DhcpServer) (file : Bytes) :
    ∃ a o, startFetch s ip server file = { clearStage s with
      boot := { s.boot with stage := 4, lease := some (ip, bootServer server, file), attempt := a, blk := 0, next := 1, got := 0
                            ackAt := s.now, resends := 0 }
      out := o } := by
  unfold startFetch
  obtain ⟨o1, h1⟩ := enterStage_eq (clearStage s) 4
  rw [h1]
  exact ⟨_, _, rfl⟩

/-- A failed fetch is code 5, counts, and is tried again after 2 s. -/
theorem fetchFail_eq (s : State) : ∃ g o, fetchFail s = { s with
    boot := { s.boot with fail := 5, failed := s.boot.failed + 1, retryAt := some (s.now + 2000000000) }, log := g, out := o } := by
  unfold fetchFail
  obtain ⟨g, o, h⟩ := bootFail_eq s 5 (some 0xE005) (payload [])
  rw [h]
  obtain ⟨o', h'⟩ := alertEdge_eq s _
  exact ⟨g, o', h'⟩

-- The identity (R361, R466, R476)

/-- The owner record that is accepted, and an increment of its counter that is completed, are all that the check of the record changes. -/
theorem acceptOwner_eq (s : State) : ∃ o v g, acceptOwner s = { s with
    sec := { s.sec with owner := o, flash := { s.sec.flash with rpmc1 := v } }, log := g } := by
  unfold acceptOwner
  extract_lets f c pick
  split
  case h_1 r _ => exact ⟨some r, f.rpmc1, s.log, rfl⟩
  case h_2 =>
    split
    case h_1 r _ =>
      obtain ⟨g, h⟩ := logEv_eq { s with sec := { s.sec with owner := some r, flash := { f with rpmc1 := f.rpmc1 + 1 } } } 0x0700 0x9004 15
        (payload [])
      exact ⟨some r, f.rpmc1 + 1, g, h⟩
    case h_2 => exact ⟨s.sec.owner, f.rpmc1, s.log, rfl⟩

/-- The state once the identity has been reconstructed (R466): the boot counter has advanced, and BAK with its certificate stands for this boot. -/
def identified (s : State) : State :=
  { s with sec := { s.sec with
    bootC := s.sec.flash.rpmc0.setWidth 16, flash := { s.sec.flash with rpmc0 := s.sec.flash.rpmc0 + 1 }
    bak := true, bakUsed := 0, bakCert := some (bootCert s.sec.flash.rpmc0.toNat) } }

theorem identify_of_bad_flash {r : IdentResult} (h : r.flashOk = false) (s : State) :
    identify s r = bootFail s 1 (some 0xE002) (payload []) true := by
  simp [identify, h]

/-- Where every check passes and no alarm holds the boot, stage 3 follows. -/
theorem identify_of_sound {s : State} (hmark : s.sec.flash.marker = true) (hhelp : s.sec.flash.helperA = true)
    (hcount : s.sec.flash.rpmc0.toNat < 32768) (hpart : partOk s.sec.flash.part true true = true)
    (halarm : alarmLevel (acceptOwner (identified s)) = 0) :
    identify s ⟨true, true, true, true, true, true⟩ = startNet (acceptOwner (identified s)) := by
  have hok : ¬ (!true) = true := Bool.false_ne_true
  have hmark' : ¬ (!s.sec.flash.marker) = true := by simp [hmark]
  have hhelp' : ¬ (!(s.sec.flash.helperA && true || s.sec.flash.helperB && true)) = true := by simp [hhelp]
  have hpart' : ¬ (!partOk s.sec.flash.part true true) = true := by simp [hpart]
  unfold identify
  dsimp only
  rw [if_neg hok, if_neg hmark', if_neg hhelp', if_neg hok, if_neg (Nat.not_le.mpr hcount), if_neg hpart']
  exact if_pos halarm

theorem alarmLevel_of_no_alarm {s : State} (h : s.sec.alarms = []) : alarmLevel s = 0 := by
  rw [alarmLevel, h]
  rfl

theorem bootHeld_of_no_alarm {s : State} (h : s.sec.alarms = []) : bootHeld s = false := by
  rw [bootHeld, alarmLevel_of_no_alarm h]
  rfl

-- The commands of stages 1 and 2 (R319, R320)

section
variable {t : Nat} {s : State}

/-- What the latch of the straps writes: the class, stage 1, the domains SEC and CFB, and the allowance of the class. -/
def strapped (s : State) (cool : BitVec 2) : State :=
  let u := enterStage (setOn (setOn { s with clk := { s.clk with cool := some cool }, boot := { s.boot with cool := cool } } 92 true) 94 true) 1
  { u with pwr := { u.pwr with bucket := bucketCap cool } }

theorem exec_strapLatch (t : Nat) (cool : BitVec 2) (s : State) : exec (.strapLatch t cool) s =
    if (s.boot.pgood && s.boot.resetN && s.boot.stage == 0) = true then
      if cool = 3 then .next (alertEdge (tick t s) (logEv (strapped (tick t s) cool) 0x0701 0x8001 15 (payload [(0, 1, 3)])))
      else .next (strapped (tick t s) cool)
    else .next (tick t s) := rfl

theorem exec_strapLatch_of_not_due (h : s.boot.stage ≠ 0 ∨ s.boot.pgood = false ∨ s.boot.resetN = false) (cool : BitVec 2) :
    exec (.strapLatch t cool) s = .next (tick t s) := by
  rw [exec_strapLatch, if_neg]
  rcases h with h | h | h
  · simpa using fun _ _ => h
  · simp [h]
  · simp [h]

/-- An invalid class is logged and may raise ALERT as well (R22). -/
theorem exec_strapLatch_of_due (hst : s.boot.stage = 0) (hpg : s.boot.pgood = true) (hrs : s.boot.resetN = true) (cool : BitVec 2) :
    ∃ g o, exec (.strapLatch t cool) s = .next { strapped (tick t s) cool with log := g, out := o } := by
  have hdue : (s.boot.pgood && s.boot.resetN && s.boot.stage == 0) = true := by simp [hst, hpg, hrs]
  rw [exec_strapLatch, if_pos hdue]
  split
  · obtain ⟨g, hg⟩ := logEv_eq (strapped (tick t s) cool) 0x0701 0x8001 15 (payload [(0, 1, 3)])
    rw [hg]
    obtain ⟨o, ho⟩ := alertEdge_eq (tick t s) { strapped (tick t s) cool with log := g }
    exact ⟨g, o, by rw [ho]⟩
  · exact ⟨_, _, rfl⟩

/-- The state in which the control clock has locked and the ROM begins stage 2. -/
def ctlLocked (s : State) : State := enterStage { s with clk := { s.clk with readyL := true, run := s.clk.run.set 3 true } } 2

theorem ctlLocked_eq (s : State) : ∃ o, ctlLocked s = { s with
    clk := { s.clk with readyL := true, run := s.clk.run.set 3 true }, boot := { s.boot with stage := 2 }, out := o } := enterStage_eq ..

theorem exec_ctlPllLock (t : Nat) (r : IdentResult) (s : State) : exec (.ctlPllLock t r) s =
    if s.boot.stage = 1 then .next (identify (ctlLocked (tick t s)) r) else .next (tick t s) := rfl

-- The commands of stage 3 (R323)

theorem exec_mgtLinkUp_of_no_edge (h : s.net.link = true ∨ domOn s 91 = false) : exec (.mgtLinkUp t) s = .next (tick t s) := by
  have hedge : (domOn s 91 && !s.net.link) = false := by rcases h with h | h <;> simp [h]
  exact if_neg (ne_true_of_eq_false hedge)

theorem exec_mgtLinkUp_of_edge (hlink : s.net.link = false) (hon : domOn s 91 = true) (hst : s.boot.stage ≠ 3) :
    exec (.mgtLinkUp t) s = .next { tick t s with net := { s.net with link := true } } := by
  have hedge : (domOn s 91 && !s.net.link) = true := by simp [hlink, hon]
  exact (if_pos hedge).trans (if_neg fun h => hst h.1)

theorem exec_dhcpack (t : Nat) (ip : BitVec 32) (server : DhcpServer) (file : Bytes) (s : State) : exec (.dhcpack t ip server file) s =
    if s.boot.stage = 3 ∧ s.net.link = true ∧ bootHeld s = false then .next (startFetch (tick t s) ip server file)
    else .next (tick t s) := rfl

/-- The state in which an exchange without a DHCPACK is repeated. -/
def dhcpRepeated (s : State) : State :=
  let u := bootFail s 4 (some 0xE004) (payload []) false
  discover { u with boot := { u.boot with discover := u.boot.discover + 1 } }

theorem dhcpRepeated_eq (s : State) : ∃ g o, dhcpRepeated s =
    { s with boot := { s.boot with fail := 4, discover := s.boot.discover + 1, askedAt := s.now }, log := g, out := o } := by
  unfold dhcpRepeated
  obtain ⟨g, o, h⟩ := bootFail_eq s 4 (some 0xE004) (payload [])
  rw [h]
  obtain ⟨o', h'⟩ := discover_eq _
  exact ⟨g, o', h'⟩

theorem exec_dhcpRetry (t : Nat) (s : State) : exec (.dhcpRetry t) s =
    if s.boot.stage = 3 ∧ bootHeld s = false ∧ elapsed (max s.now t) s.boot.askedAt (dhcpWait s.boot.discover) = true then
      .next (dhcpRepeated (tick t s))
    else .next (tick t s) := rfl

-- The transfer of stage 4 (R324)

theorem fetching_of_stage4 (hst : s.boot.stage = 4) (hretry : s.boot.retryAt = none) (hlink : s.net.link = true)
    (halarm : s.sec.alarms = []) : fetching s = true := by
  simp [fetching, hst, hretry, hlink, bootHeld_of_no_alarm halarm]

/-- The state that has taken the block expected next, of the full size 8192: its bytes follow those in the staging area. -/
def blockTaken (s : State) (data : Bytes) : State :=
  let u := devWrite s (ctlBase + stageOff + s.boot.got) data false
  { u with boot := { u.boot with blk := 8192, next := s.boot.next + 1, got := s.boot.got + data.length, ackAt := u.now, resends := 0 } }

theorem blockTaken_eq (s : State) (data : Bytes) : ∃ u, StoresOnly s u ∧ u.mem = s.mem ∧
    u.ctl = (devWrite s (0x700000400000 + s.boot.got) data false).ctl ∧ blockTaken s data = { u with
      boot := { s.boot with blk := 8192, next := s.boot.next + 1, got := s.boot.got + data.length, ackAt := s.now, resends := 0 } } := by
  have hstore := StoresOnly.devWrite s (ctlBase + stageOff + s.boot.got) data false
  have habove : dramEnd ≤ ctlBase + stageOff + s.boot.got := Nat.le_add_right_of_le (by decide)
  refine ⟨_, hstore, devWrite_mem_of_above habove s data false, rfl, ?_⟩
  simp only [blockTaken, hstore.boot, hstore.now]

section
variable (hf : fetching s = true) (hblk : s.boot.blk = 8192)
include hf hblk

/-- A block is acknowledged at the end of each window of 16. -/
theorem exec_tftpData_of_expected {data : Bytes} (h0 : s.boot.next ≠ 0) (hlen : data.length = 8192)
    (hfit : s.boot.got + 8192 ≤ stageLen) (v : SigVerdict) : exec (.tftpData t s.boot.next data v) s =
      if s.boot.next % 16 = 0 then .next (sendAck (blockTaken (tick t s) data) s.boot.next) else .next (blockTaken (tick t s) data) := by
  have hf' : fetching (tick t s) = true := hf
  have hfit' : ¬ stageLen < s.boot.got + 8192 := Nat.not_lt.mpr hfit
  show execTftpData t s.boot.next data v s = _
  simp [execTftpData, blockTaken, hf', hblk, h0, hlen, hfit']

/-- A block beyond the one expected has the block before that acknowledged again. -/
theorem exec_tftpData_of_ahead {n : Nat} {data : Bytes} (hn : s.boot.next < n) (hlen : data.length ≤ 8192) (v : SigVerdict) :
    exec (.tftpData t n data v) s = .next (sendAck (tick t s) (s.boot.next - 1)) := by
  have hf' : fetching (tick t s) = true := hf
  have h0 : n ≠ 0 := by omega
  show execTftpData t n data v s = _
  simp [execTftpData, hf', hblk, h0, Nat.not_lt.mpr hlen, Nat.not_lt.mpr (Nat.le_of_lt hn), hn]

end

theorem exec_tftpError (t : Nat) (s : State) : exec (.tftpError t) s =
    if fetching s then .next (fetchFail (tick t s)) else .next (tick t s) := rfl

section
variable (hst : s.boot.stage = 4) (hretry : s.boot.retryAt = none) (halarm : s.sec.alarms = [])
  (hlate : s.boot.ackAt + 1000000000 ≤ max s.now t)
include hst hretry halarm hlate

theorem retransmit_due : (tick t s).boot.stage = 4 ∧ (tick t s).boot.retryAt.isNone = true ∧ bootHeld (tick t s) = false ∧
    elapsed (tick t s).now (tick t s).boot.ackAt 1000000000 = true := by
  refine ⟨hst, ?_, bootHeld_of_no_alarm halarm, decide_eq_true hlate⟩
  rw [tick_boot, hretry]
  rfl

theorem exec_tftpRetransmit_of_given_up (h : 5 ≤ s.boot.resends) : exec (.tftpRetransmit t) s = .next (fetchFail (tick t s)) :=
  (if_pos (retransmit_due hst hretry halarm hlate)).trans (if_pos h)

/-- Once a block has arrived, it is the last ACK that is repeated. -/
theorem exec_tftpRetransmit_of_ack (hlink : s.net.link = true) (h : s.boot.resends < 5) (hnext : 1 < s.boot.next) :
    exec (.tftpRetransmit t) s = .next (sendAck { tick t s with
      boot := { s.boot with resends := s.boot.resends + 1, ackAt := max s.now t } } (s.boot.next - 1)) := by
  have hlink' : ¬ (!s.net.link) = true := by simp [hlink]
  exact (if_pos (retransmit_due hst hretry halarm hlate)).trans ((if_neg (Nat.not_le.mpr h)).trans ((if_neg hlink').trans
    (if_neg (Nat.ne_of_gt hnext))))

end

-- Retries, the lease, and the handoff (R331, R335, R339 to R341)

theorem exec_bootRetry_of_retryAt {x : Nat} (h : s.boot.retryAt = some x) : exec (.bootRetry t) s =
    if x ≤ max s.now t ∧ bootHeld s = false ∧ s.boot.stage ≠ 15 then .next (startNet (tick t s)) else .next (tick t s) := by
  show execBootRetry t s = _
  simp only [execBootRetry, tick_boot, h]
  rfl

section
variable (hon : domOn s 91 = true) (hlink : s.net.link = true) (hst : s.boot.stage ≠ 3)
include hon hlink hst

theorem renew_heard : ¬ (!(domOn s 91 && s.net.link) || s.boot.stage == 3) = true := by
  simpa [hon, hlink] using hst

theorem exec_dhcpRenew_of_renewed {x y : BitVec 32} {z : Bytes} (h : s.boot.lease = some (x, y, z)) (ip : BitVec 32) :
    exec (.dhcpRenew t (some ip)) s = .next { tick t s with boot := { s.boot with lease := some (ip, y, z), expired := false } } := by
  show execDhcpRenew t (some ip) s = _
  simp only [execDhcpRenew, tick_boot, h]
  exact if_neg (renew_heard hon hlink hst)

theorem exec_dhcpRenew_of_expired : exec (.dhcpRenew t none) s =
    if s.boot.stage = 4 then .next { tick t s with boot := { s.boot with expired := true } }
    else .next (discover { tick t s with boot := { s.boot with lease := none } }) := if_neg (renew_heard hon hlink hst)

end

/-- The state in which APP_0 is on with its clock, and the loader of a bundle stands at its address (R331). -/
def loaderCopied (s : State) (b : Bytes) : State :=
  let u := setOn { s with clk := { s.clk with run := s.clk.run.set 4 true } } 88 true
  match bundleSec b 5 with
  | some e => devWrite { u with boot := { u.boot with load := fieldU e 16 8 } } (fieldU e 16 8) (secData b e) false
  | none => u

theorem loaderCopied_eq (s : State) (b : Bytes) :
    ∃ k l, StoresOnly { setOn { s with clk := k } 88 true with boot := { s.boot with load := l } } (loaderCopied s b) := by
  unfold loaderCopied
  split
  · exact ⟨_, _, .devWrite ..⟩
  · exact ⟨_, s.boot.load, rfl⟩

/-- The state in which the loader and the handoff block stand in host memory (R331, R333). -/
def handoffWritten (s : State) : State :=
  let b := staged s s.boot.got
  let u := loaderCopied s b
  devWrite u 0 (handoffBlock u b) false

theorem handoffWritten_eq (s : State) :
    ∃ k l, StoresOnly { setOn { s with clk := k } 88 true with boot := { s.boot with load := l } } (handoffWritten s) := by
  obtain ⟨k, l, h⟩ := loaderCopied_eq s (staged s s.boot.got)
  exact ⟨k, l, h.trans (.devWrite ..)⟩

theorem exec_bootDone (t : Nat) (s : State) : exec (.bootDone t) s =
    if s.boot.stage = 7 ∧ handedOff s = false then .next (logEv (releaseHarts (handoffWritten (tick t s)) 1) 0x0700 0xE00F 15 (payload []))
    else .next (tick t s) := rfl

end

-- What the commands of start-up come to

section
variable {t : Nat} {s : State}

theorem strapLatch_begins_stage1 (hst : s.boot.stage = 0) (hpg : s.boot.pgood = true) (hrs : s.boot.resetN = true) (cool : BitVec 2) :
    ∃ u, exec (.strapLatch t cool) s = .next u ∧ u.boot.stage = 1 ∧ u.boot.cool = cool ∧ u.clk.cool = some cool ∧
      u.pwr.bucket = bucketCap cool ∧ domOn u 92 = true ∧ domOn u 94 = true ∧ u.mem = s.mem ∧ u.clusters = s.clusters ∧
      u.slots = s.slots ∧ u.sec = s.sec := by
  obtain ⟨g, o, h⟩ := exec_strapLatch_of_due (t := t) hst hpg hrs cool
  have h92 := domOn_setOn_same s (i := 92) (by decide)
  exact ⟨_, h, rfl, rfl, rfl, rfl, domOn_setOn_of_on h92 94, domOn_setOn_same _ (by decide), rfl, rfl, rfl, rfl⟩

/-- Without its flash the package is FAILED with code 1 (R340). -/
theorem ctlPllLock_fails {r : IdentResult} (hst : s.boot.stage = 1) (hflash : r.flashOk = false) :
    ∃ u, exec (.ctlPllLock t r) s = .next u ∧ u.boot.stage = 15 ∧ u.boot.fail = 1 ∧ u.sec = s.sec ∧ u.clk.readyL = true := by
  obtain ⟨o, hlock⟩ := ctlLocked_eq (tick t s)
  obtain ⟨g, o', hfail⟩ := bootFail_fatal_eq (ctlLocked (tick t s)) 1 (some 0xE002) (payload [])
  rw [exec_ctlPllLock, if_pos hst, identify_of_bad_flash hflash, hfail, hlock]
  exact ⟨_, rfl, rfl, rfl, rfl, rfl⟩

/-- An identity that every check accepts opens stage 3, with BAK and the next boot count (R361, R466). -/
theorem ctlPllLock_begins_stage3 (hst : s.boot.stage = 1) (hmark : s.sec.flash.marker = true) (hhelp : s.sec.flash.helperA = true)
    (hcount : s.sec.flash.rpmc0.toNat < 32768) (hpart : partOk s.sec.flash.part true true = true) (halarm : s.sec.alarms = []) :
    ∃ u, exec (.ctlPllLock t ⟨true, true, true, true, true, true⟩) s = .next u ∧ u.boot.stage = 3 ∧ domOn u 91 = true ∧
      u.sec.bootC = s.sec.flash.rpmc0.setWidth 16 ∧ u.sec.flash.rpmc0 = s.sec.flash.rpmc0 + 1 ∧ u.sec.bak = true ∧
      u.sec.bakCert = some (bootCert s.sec.flash.rpmc0.toNat) ∧ u.clk.readyL = true ∧ u.mem = s.mem ∧ u.clusters = s.clusters := by
  obtain ⟨o, hlock⟩ := ctlLocked_eq (tick t s)
  obtain ⟨w, c, g, hown⟩ := acceptOwner_eq (identified (ctlLocked (tick t s)))
  obtain ⟨o', hnet⟩ := startNet_eq (acceptOwner (identified (ctlLocked (tick t s))))
  have hsec : (ctlLocked (tick t s)).sec = s.sec := by rw [hlock]; rfl
  have hlevel : alarmLevel (acceptOwner (identified (ctlLocked (tick t s)))) = 0 :=
    alarmLevel_of_no_alarm (by rw [hown, identified, hsec]; exact halarm)
  rw [exec_ctlPllLock, if_pos hst, identify_of_sound (by rwa [hsec]) (by rwa [hsec]) (by rwa [hsec]) (by rwa [hsec]) hlevel, hnet]
  refine ⟨_, rfl, rfl, domOn_setOn_same _ (by decide), ?_⟩
  rw [hown, hlock]
  exact ⟨rfl, rfl, rfl, rfl, rfl, rfl, rfl⟩

theorem dhcpack_begins_fetch (hst : s.boot.stage = 3) (halarm : s.sec.alarms = []) (hlink : s.net.link = true) (ip : BitVec 32)
    (server : DhcpServer) (file : Bytes) : ∃ u, exec (.dhcpack t ip server file) s = .next u ∧ u.boot.stage = 4 ∧
      u.boot.lease = some (ip, bootServer server, file) ∧ u.boot.next = 1 ∧ u.boot.got = 0 ∧ u.mem = s.mem ∧ u.slots = s.slots := by
  obtain ⟨a, o, h⟩ := startFetch_eq (tick t s) ip server file
  rw [exec_dhcpack, if_pos ⟨hst, hlink, bootHeld_of_no_alarm halarm⟩, h]
  exact ⟨_, rfl, rfl, rfl, rfl, rfl, rfl, rfl⟩

theorem dhcpRetry_repeats (hst : s.boot.stage = 3) (halarm : s.sec.alarms = [])
    (hlate : s.boot.askedAt + dhcpWait s.boot.discover ≤ max s.now t) : ∃ u, exec (.dhcpRetry t) s = .next u ∧ u.boot.fail = 4 ∧
      u.boot.stage = 3 ∧ u.boot.discover = s.boot.discover + 1 ∧ u.boot.askedAt = max s.now t ∧ u.mem = s.mem := by
  obtain ⟨g, o, h⟩ := dhcpRepeated_eq (tick t s)
  rw [exec_dhcpRetry, if_pos ⟨hst, bootHeld_of_no_alarm halarm, decide_eq_true hlate⟩, h]
  exact ⟨_, rfl, rfl, hst, rfl, rfl, rfl⟩

theorem tftpData_takes_block {data : Bytes} (hst : s.boot.stage = 4) (hf : fetching s = true) (hblk : s.boot.blk = 8192)
    (h0 : s.boot.next ≠ 0) (hlen : data.length = 8192) (hfit : s.boot.got + 8192 ≤ stageLen) (v : SigVerdict) :
    ∃ u, exec (.tftpData t s.boot.next data v) s = .next u ∧ u.boot.next = s.boot.next + 1 ∧ u.boot.got = s.boot.got + 8192 ∧
      u.boot.stage = 4 ∧ u.ctl = (devWrite s (0x700000400000 + s.boot.got) data false).ctl ∧ u.mem = s.mem ∧
      (s.boot.next % 16 ≠ 0 → u.out = []) ∧
      (s.boot.next % 16 = 0 → u.out = [{ kind := .udp, dest := 69, data := [0, 4] ++ natBe 2 s.boot.next }]) := by
  obtain ⟨u, hu, hmem, hctl, htaken⟩ := blockTaken_eq (tick t s) data
  have hctl' := hctl.trans (devWrite_ctl_congr (tick_ctl t s) _ data false)
  have hout : u.out = [] := hu.out
  rw [exec_tftpData_of_expected hf hblk h0 hlen hfit, htaken, hlen]
  split
  case isTrue hwin =>
    refine ⟨_, rfl, rfl, rfl, hst, hctl', hmem, fun h => absurd hwin h, fun _ => ?_⟩
    show u.out ++ _ = _
    rw [hout]
    rfl
  case isFalse hwin => exact ⟨_, rfl, rfl, rfl, hst, hctl', hmem, fun _ => hout, fun h => absurd h hwin⟩

theorem tftpError_fails_fetch (hf : fetching s = true) : ∃ u, exec (.tftpError t) s = .next u ∧ u.boot.fail = 5 ∧
    u.boot.failed = s.boot.failed + 1 ∧ u.boot.retryAt = some (max s.now t + 2000000000) ∧ u.mem = s.mem ∧ u.ctl = s.ctl := by
  obtain ⟨g, o, h⟩ := fetchFail_eq (tick t s)
  rw [exec_tftpError, if_pos hf, h]
  exact ⟨_, rfl, rfl, rfl, rfl, rfl, rfl⟩

theorem bootRetry_begins_stage3 {x : Nat} (hx : s.boot.retryAt = some x) (halarm : s.sec.alarms = []) (hdue : x ≤ max s.now t)
    (hst : s.boot.stage ≠ 15) : ∃ u, exec (.bootRetry t) s = .next u ∧ u.boot.stage = 3 ∧ u.boot.retryAt = none ∧ u.boot.lease = none ∧
      u.mem = s.mem := by
  obtain ⟨o, h⟩ := startNet_eq (tick t s)
  rw [exec_bootRetry_of_retryAt hx, if_pos ⟨hdue, bootHeld_of_no_alarm halarm, hst⟩, h]
  exact ⟨_, rfl, rfl, rfl, rfl, rfl⟩

theorem bootDone_releases_hart0 (hst : s.boot.stage = 7) (hrun : s.boot.running = 0) : ∃ u, exec (.bootDone t) s = .next u ∧
    u.boot.running = 1 ∧ u.boot.stage = 7 ∧ domOn u 88 = true ∧ u.slots = s.slots ∧ u.sec = s.sec := by
  obtain ⟨k, l, hstore⟩ := handoffWritten_eq (tick t s)
  rw [exec_bootDone, if_pos ⟨hst, by simp [handedOff, hrun]⟩]
  generalize handoffWritten (tick t s) = w at hstore ⊢
  have hrel : w.boot.running ||| 1 = 1 := by rw [hstore.boot]; exact congrArg (· ||| 1) hrun
  have hst' : w.boot.stage = 7 := by rw [hstore.boot]; exact hst
  refine ⟨_, rfl, ?_, ?_, ?_, (logEv_slots ..).trans hstore.slots, (logEv_sec ..).trans hstore.sec⟩
  · rw [logEv_boot]
    exact hrel
  · rw [logEv_boot]
    exact hst'
  · rw [domOn_congr (logEv_pwr ..)]
    exact (domOn_congr hstore.pwr 88).trans (domOn_setOn_same _ (by decide))

end

/-- Settles O55: every command is one equation of the operation it begins, and each operation names the fields that it changes. -/
theorem startUpFetchesTheBundle : Obligations.StartUpFetchesTheBundle := by
  unfold Obligations.StartUpFetchesTheBundle
  intro t cool r s ip server file data n v
  refine ⟨fun h => exec_strapLatch_of_not_due h cool, fun hst hpg hrs => strapLatch_begins_stage1 hst hpg hrs cool, fun h => if_neg h,
    fun hst => ⟨ctlPllLock_fails hst, ?_⟩, rfl, exec_mgtLinkUp_of_no_edge, exec_mgtLinkUp_of_edge, fun hst halarm => ⟨?_, ?_, ?_, ?_⟩,
    fun hst hretry hlink halarm => ?_, fun x hx halarm => ⟨?_, ?_, bootRetry_begins_stage3 hx halarm⟩, fun hon hlink hst => ⟨?_, ?_, ?_⟩,
    bootDone_releases_hart0, fun h => if_neg fun hc => h hc.1⟩
  · rintro rfl
    exact ctlPllLock_begins_stage3 hst
  · exact fun hlink => dhcpack_begins_fetch hst halarm hlink ip server file
  · exact fun hlink => if_neg fun hc => Bool.false_ne_true (hlink.symm.trans hc.2.1)
  · exact fun hearly => if_neg fun hc => Nat.not_le.mpr hearly (of_decide_eq_true hc.2.2)
  · exact dhcpRetry_repeats hst halarm
  · have hf := fetching_of_stage4 hst hretry hlink halarm
    refine ⟨?_, fun hn _ hblk hlen => ?_, tftpError_fails_fetch hf, fun hlate => ⟨fun hfew hnext => ?_, fun hmany => ?_⟩⟩
    · rintro rfl h0 hblk hlen hfit
      exact tftpData_takes_block hst hf hblk h0 hlen hfit v
    · rw [exec_tftpData_of_ahead hf hblk hn hlen]
      exact ⟨_, rfl, rfl, rfl, rfl, rfl⟩
    · rw [exec_tftpRetransmit_of_ack hst hretry halarm hlate hlink hfew hnext]
      exact ⟨_, rfl, rfl, rfl, rfl⟩
    · obtain ⟨g, o, h⟩ := fetchFail_eq (tick t s)
      rw [exec_tftpRetransmit_of_given_up hst hretry halarm hlate hmany, h]
      exact ⟨_, rfl, rfl, rfl⟩
  · exact fun hearly => (exec_bootRetry_of_retryAt hx).trans (if_neg fun hc => Nat.not_le.mpr hearly hc.1)
  · exact fun hst => (exec_bootRetry_of_retryAt hx).trans (if_neg fun hc => hc.2.2 hst)
  · exact fun x y z hlease => exec_dhcpRenew_of_renewed hon hlink hst hlease ip
  · exact fun h4 => (exec_dhcpRenew_of_expired hon hlink hst).trans (if_pos h4)
  · intro h4
    obtain ⟨o, h⟩ := discover_eq { tick t s with boot := { s.boot with lease := none } }
    rw [exec_dhcpRenew_of_expired hon hlink hst, if_neg h4, h]
    exact ⟨_, rfl, rfl, rfl, rfl, rfl⟩

end Sys2Proof.Machine
end

section
/-! PROOFS. The management port and the sideband (R335 to R337, R471): the rings that the host endpoint latches, the frames that it receives and
sends, the answers of the firmware endpoint, and the I3C window. -/

namespace Sys2Proof.Machine

-- The host endpoint (R336)

/-- A transmit frame that leaves notes that it is on its way, logs at most what no range covers, and is an output. -/
theorem startTx_eq (s : State) : ∃ b g o, startTx s = { s with net := { s.net with sending := b }, log := g, out := o } := by
  unfold startTx
  extract_lets k
  split
  case h_1 => exact ⟨k.sending, s.log, s.out, rfl⟩
  case h_2 r _ =>
    split
    case isTrue =>
      extract_lets d a n f s1
      obtain ⟨g, hg⟩ := missIn_eq s d 16
      obtain ⟨g', hg'⟩ := missIn_eq (missIn s d 16) a n
      have hs1 : s1 = { s with log := g' } := by
        show missIn (missIn s d 16) a n = _
        rw [hg', hg]
      exact ⟨true, g', _, by rw [hs1]; rfl⟩
    case isFalse => exact ⟨k.sending, s.log, s.out, rfl⟩

/-- No frame leaves while the tail is not ahead of the head. -/
theorem startTx_of_empty {s : State} (h : s.net.txTail.toNat ≤ s.net.txHead.toNat) : startTx s = s := by
  unfold startTx
  extract_lets k
  split
  case h_1 => rfl
  case h_2 =>
    refine if_neg ?_
    simp [k, Nat.not_lt.mpr h]

@[simp] theorem reserveBase_tick (t : Nat) (s : State) : reserveBase (tick t s) = reserveBase s := congrArg (· - 0x400000) rfl

/-- The host's block does not depend on the moment. -/
theorem hostU_tick (t : Nat) (s : State) : hostU (tick t s) = hostU s := by
  funext a n
  simp only [hostU, hostRead, reserveBase_tick, devRead_tick]

/-- What a sample makes of the receive ring, where the host's block shows a base word and a head: the ring is gone with its enable, held while
it is latched, and else latched with its head. -/
structure RxLatched (word : Nat) (head : W64) (k k' : Net) : Prop where
  disabled : bitAt word 63 = false → k'.rx = none
  held : bitAt word 63 = true → k.rx ≠ none → k'.rx = k.rx ∧ k'.rxHead = k.rxHead
  latched : bitAt word 63 = true → k.rx = none → k'.rx = hostRing word ∧ k'.rxHead = head

/-- Between k and k' the receive ring and its head stay. -/
structure KeepsRx (k k' : Net) : Prop where
  rx : k'.rx = k.rx
  rxHead : k'.rxHead = k.rxHead

theorem RxLatched.of_keepsRx {word : Nat} {head : W64} {k k' k'' : Net} (h : RxLatched word head k k') (hk : KeepsRx k' k'') :
    RxLatched word head k k'' :=
  ⟨fun hb => hk.rx.trans (h.disabled hb), fun hb hn => (h.held hb hn).imp hk.rx.trans hk.rxHead.trans,
    fun hb hn => (h.latched hb hn).imp hk.rx.trans hk.rxHead.trans⟩

theorem KeepsRx.withTx (k : Net) (r : Option Ring) (h : W64) : KeepsRx k { k with tx := r, txHead := h } := ⟨rfl, rfl⟩

theorem KeepsRx.tails {k k' : Net} (h : KeepsRx k k') (a b : W64) : KeepsRx k { k' with rxTail := a, txTail := b } := ⟨h.rx, h.rxHead⟩

theorem exec_hostPortSample_of_on {t : Nat} {s : State} (hon : hostPortOn s = true) :
    ∃ k : Net, RxLatched (hostU s 0x80 8) (BitVec.ofNat 64 (hostU s 0x98 8)) s.net k ∧
      k.rxTail = BitVec.ofNat 64 (hostU s 0x90 8) ∧ k.txTail = BitVec.ofNat 64 (hostU s 0xA0 8) ∧
      exec (.hostPortSample t) s = .next (startTx { tick t s with net := k }) := by
  rw [← hostU_tick t s]
  show ∃ k, _ ∧ _ ∧ _ ∧ execHostPortSample t s = _
  unfold execHostPortSample
  extract_lets s1 k rx tx k1 k2
  have hlatch : RxLatched (hostU s1 0x80 8) (BitVec.ofNat 64 (hostU s1 0x98 8)) k k1 := by
    refine ⟨fun h => ?_, fun h hk => ?_, fun h hk => ?_⟩
    · simp [k1, rx, h]
    · obtain ⟨r, hr⟩ := Option.ne_none_iff_exists'.mp hk
      simp [k1, rx, h, hr]
    · simp [k1, rx, h, hk]
  have hkeep : KeepsRx k1 k2 := by
    unfold k2
    generalize k1 = k'
    split
    · exact .withTx k' none k'.txHead
    split
    · exact ⟨rfl, rfl⟩
    · exact .withTx k' (hostRing tx) (BitVec.ofNat 64 (hostU s1 0xA8 8))
  exact ⟨{ k2 with rxTail := BitVec.ofNat 64 (hostU s1 0x90 8), txTail := BitVec.ofNat 64 (hostU s1 0xA0 8) },
    hlatch.of_keepsRx (hkeep.tails ..), rfl, rfl, if_pos hon⟩

-- Frames received and sent (R336)

section
variable {t : Nat} {s : State} {f : Bytes} {r : Ring}

/-- The state in which a received frame has been written to the buffer of the next descriptor, with its length and DONE. -/
def frameStored (s : State) (r : Ring) (f : Bytes) : State :=
  let d := r.desc s.net.rxHead.toNat
  let data := f.take (f.length - 4)
  let a := hostU s d 8
  hostWrite (hostWrite (hostWrite (missIn (missIn s d 16) a data.length) a data) (d + 10) (natLe 2 data.length)) (d + 12) (natLe 2 1)

theorem StoresOnly.withNet {s u : State} (h : StoresOnly s u) (k : Net) : StoresOnly { s with net := k } { u with net := k } := by
  unfold StoresOnly at *
  rw [h]

theorem frameStored_storesOnly (s : State) (r : Ring) (f : Bytes) : StoresOnly s (frameStored s r f) :=
  ((((StoresOnly.missIn ..).trans (.missIn ..)).trans (.hostWrite ..)).trans (.hostWrite ..)).trans (.hostWrite ..)

/-- A frame for HOST_MAC, of a length that fits, takes the next descriptor, or is dropped and counted where the ring is full. -/
theorem exec_hostFrameReceive_of_mine (hon : hostPortOn s = true) (hlink : s.net.link = true)
    (hmac : sliceB f 0 6 = sliceB s.sec.flash.part 32 6) (hmin : 4 ≤ f.length) (hmax : f.length ≤ 9018) (hrx : s.net.rx = some r) :
    exec (.hostFrameReceive t f true) s = if s.net.rxHead.toNat < s.net.rxTail.toNat then
      .next (hostWrite { frameStored (tick t s) r f with net := { s.net with rxHead := s.net.rxHead + 1 } } 0x98
        (natLe 8 (s.net.rxHead + 1).toNat))
      else .next (hostWrite { tick t s with net := { s.net with rxDrops := s.net.rxDrops + 1 } } 0xB0
        (natLe 8 (s.net.rxDrops + 1).toNat)) := by
  have hon' : hostPortOn (tick t s) = true := hon
  show execHostFrameReceive t f true s = _
  simp only [execHostFrameReceive, hon', tick_net, tick_sec, hlink, hmac, hmin, hmax, hrx, BEq.rfl, Bool.true_or, Bool.and_self,
    decide_true, if_true]
  rfl

/-- A frame whose check sequence is wrong is not taken. -/
theorem exec_hostFrameReceive_of_bad_fcs (t : Nat) (f : Bytes) (s : State) : exec (.hostFrameReceive t f false) s = .next (tick t s) := by
  show execHostFrameReceive t f false s = _
  simp [execHostFrameReceive]

/-- A frame that has left marks its descriptor DONE and moves the head; with nothing more to send the endpoint rests. -/
theorem exec_hostFrameSent_of_last (htx : s.net.tx = some r) (hsend : s.net.sending = true)
    (hlast : s.net.txTail.toNat ≤ (s.net.txHead + 1).toNat) : exec (.hostFrameSent t) s = .next
      (hostWrite { hostWrite (tick t s) (r.desc s.net.txHead.toNat + 12) (natLe 2 1) with
        net := { s.net with sending := false, txHead := s.net.txHead + 1 } } 0xA8 (natLe 8 (s.net.txHead + 1).toNat)) := by
  show execHostFrameSent t s = _
  simp only [execHostFrameSent, tick_net, htx, hsend, if_true]
  rw [startTx_of_empty, ite_self]
  rw [(StoresOnly.hostWrite ..).net]
  exact hlast

end

-- The firmware endpoint (R335, R471) and the I3C window (R337)

section
variable {t : Nat} {s : State} (hon : hostPortOn s = true) (hlink : s.net.link = true)
include hon hlink

/-- The firmware endpoint is heard wherever the host endpoint runs on a link that is up. -/
theorem firmwareFrame_heard : ¬ (!(handedOff (tick t s) && domOn (tick t s) 91 && (tick t s).net.link)) = true := by
  simp only [hostPortOn, Bool.and_eq_true] at hon
  obtain ⟨⟨hoff, h91⟩, -⟩ := hon
  have hoff' : handedOff (tick t s) = true := hoff
  simp [hoff', h91, hlink]

theorem exec_firmwareFrame_arp_of_own {ip x : BitVec 32} {y : Bytes} (h : s.boot.lease = some (ip, x, y)) :
    exec (.firmwareFrame t (.arp ip)) s = .next (emit (tick t s) .frame 0x0806 (sliceB s.sec.flash.part 24 6 ++ natBe 4 ip.toNat)) := by
  show execFirmwareFrame t (.arp ip) s = _
  unfold execFirmwareFrame
  rw [if_neg (firmwareFrame_heard hon hlink)]
  simp only [tick_boot, h, if_true, tick_sec]

theorem exec_firmwareFrame_icmpEcho (data : Bytes) :
    exec (.firmwareFrame t (.icmpEcho data)) s = .next (emit (tick t s) .frame 0x0800 data) :=
  if_neg (firmwareFrame_heard hon hlink)

theorem exec_firmwareFrame_udpSpdm_of_new (h : s.net.cache = []) (src : BitVec 48) (data : Bytes) :
    exec (.firmwareFrame t (.udpSpdm src data)) s =
      .next { tick t s with net := { s.net with cache := [(src, data, max s.now t, [])] } } := by
  show execFirmwareFrame t (.udpSpdm src data) s = _
  unfold execFirmwareFrame
  rw [if_neg (firmwareFrame_heard hon hlink)]
  simp only [tick_net, h]
  rfl

/-- A datagram repeated within 1 s has the response that is kept for it (R471). -/
theorem exec_firmwareFrame_udpSpdm_of_repeated {src : BitVec 48} {data resp : Bytes} {since : Nat}
    (h : s.net.cache = [(src, data, since, resp)]) (hlive : max s.now t < since + 1000000000) :
    exec (.firmwareFrame t (.udpSpdm src data)) s = .next (emit (tick t s) .udp 7341 resp) := by
  have hfresh : elapsed (max s.now t) since 1000000000 = false := decide_eq_false (Nat.not_le.mpr hlive)
  have hkept : s.net.cache.filter (fun c => !elapsed (max s.now t) c.2.2.1 1000000000) = s.net.cache := by simp [h, hfresh]
  have hfind : s.net.cache.find? (fun c => c.1 == src && c.2.1 == data) = some (src, data, since, resp) := by simp [h]
  show execFirmwareFrame t (.udpSpdm src data) s = _
  unfold execFirmwareFrame
  rw [if_neg (firmwareFrame_heard hon hlink)]
  simp only [tick_net, tick_now, hkept, hfind]
  rfl

end

/-- The I3C window as it reads at moment t (R337). -/
def i3cWindow (t : Nat) (s : State) : Bytes :=
  natLe 1 s.boot.stage.toNat ++ natLe 1 s.boot.fail.toNat ++ natLe 1 s.boot.cool.toNat ++ natLe 1 (alarmLevel s) ++
    natLe 2 s.pwr.temp.toNat ++ natLe 2 (Nat.min 0xFFFF (s.pwr.p1 / 1000)) ++ natLe 4 (max s.now t / 1000000000) ++ zeroB 4

theorem exec_i3cPrivateRead (t : Nat) (s : State) : exec (.i3cPrivateRead t) s =
    if (gateOn s 3 && s.boot.pgood && s.boot.resetN) = true then .next (emit (tick t s) .i3c 0 (i3cWindow t s))
    else .next (tick t s) := rfl

/-- Settles O56: a sample latches as RxLatched says, a frame received or sent writes stores and the endpoint's own state, and an answer is one
output. -/
theorem hostPortAndSideband : Obligations.HostPortAndSideband := by
  unfold Obligations.HostPortAndSideband
  intro t s f data ip src r hon hlink
  refine ⟨?_, fun hmac hmin hmax hrx => ⟨fun hroom => ?_, fun hfull => ?_, exec_hostFrameReceive_of_bad_fcs t f s⟩, fun htx hsend hlast => ?_,
    fun _ => ⟨fun x y => exec_firmwareFrame_arp_of_own hon hlink, exec_firmwareFrame_icmpEcho hon hlink data, fun h => ?_, fun a b => ?_⟩,
    fun hgate hpg hrs => ?_, fun hgate => ?_⟩
  · obtain ⟨k, hrx, hrt, htt, hex⟩ := exec_hostPortSample_of_on (t := t) hon
    obtain ⟨b, g, o, hstart⟩ := startTx_eq { tick t s with net := k }
    exact ⟨_, hex.trans (congrArg Host.Outcome.next hstart), hrt, htt, hrx.disabled, hrx.held, hrx.latched, rfl, rfl, rfl⟩
  · have hstore := ((frameStored_storesOnly (tick t s) r f).withNet { s.net with rxHead := s.net.rxHead + 1 }).trans
      (.hostWrite _ 0x98 (natLe 8 (s.net.rxHead + 1).toNat))
    exact ⟨_, (exec_hostFrameReceive_of_mine hon hlink hmac hmin hmax hrx).trans (if_pos hroom), by rw [hstore.net], by rw [hstore.net],
      hstore.slots, hstore.ports⟩
  · have hstore := StoresOnly.hostWrite { tick t s with net := { s.net with rxDrops := s.net.rxDrops + 1 } } 0xB0
      (natLe 8 (s.net.rxDrops + 1).toNat)
    exact ⟨_, (exec_hostFrameReceive_of_mine hon hlink hmac hmin hmax hrx).trans (if_neg (Nat.not_lt.mpr hfull)),
      by rw [hstore.net], by rw [hstore.net], hstore.slots, hstore.ports⟩
  · have hstore := ((StoresOnly.hostWrite (tick t s) (r.desc s.net.txHead.toNat + 12) (natLe 2 1)).withNet
      { s.net with sending := false, txHead := s.net.txHead + 1 }).trans (.hostWrite _ 0xA8 (natLe 8 (s.net.txHead + 1).toNat))
    exact ⟨_, exec_hostFrameSent_of_last htx hsend hlast, hstore.net, hstore.slots, hstore.ports⟩
  · exact exec_firmwareFrame_udpSpdm_of_new hon hlink h src data
  · exact exec_firmwareFrame_udpSpdm_of_repeated hon hlink
  · exact (exec_i3cPrivateRead t s).trans (if_pos (by simp [hgate, hpg, hrs]))
  · exact (exec_i3cPrivateRead t s).trans (if_neg (by simp [hgate]))

end Sys2Proof.Machine
end

section
/-! PROOFS. What the answer to a ticket changes (R370, R375), and what the programming of an image leaves of the slots (R355, R359). -/

namespace Sys2Proof.Machine

-- Writes to stores leave the slots

theorem devCommit_slots (s : State) (ws : List WByte) : (devCommit s ws).slots = s.slots := by
  obtain ⟨_, _, h⟩ := devCommit_eq s ws
  rw [h]

theorem pCommit_slots (s : State) (p : Fin 8) (ws : List WByte) : (pCommit s p ws).slots = s.slots := devCommit_slots ..

theorem syncHdr_slots (s : State) (p : Fin 8) : (syncHdr s p).slots = s.slots := by
  unfold syncHdr
  extract_lets k l
  split
  · exact devCommit_slots ..
  · rfl

/-- A slot is read from the slots alone. -/
theorem slot_congr {s u : State} (h : u.slots = s.slots) (p : Fin 8) : u.slot p = s.slot p := congrArg (·.get p) h

/-- A walk whose every turn leaves the slots leaves them. -/
theorem foldl_slots {α : Type} {f : State → α → State} (hf : ∀ u x, (f u x).slots = u.slots) (l : List α) (s : State) :
    (l.foldl f s).slots = s.slots :=
  foldl_keeps (P := fun u : State => u.slots = s.slots) rfl (fun u x hu => (hf u x).trans hu)

/-- Both branches of a choice leave the slots. -/
theorem ite_slots {c : Prop} [Decidable c] {s t u : State} (ht : t.slots = s.slots) (hu : u.slots = s.slots) :
    (if c then t else u).slots = s.slots := by
  split
  · exact ht
  · exact hu

@[simp] theorem slot_setLed_same (s : State) (p : Fin 8) (l : Ledger) : (setLed s p l).slot p = { s.slot p with led := l } :=
  slot_setSlot_same ..

theorem slot_setLed_other (s : State) {p q : Fin 8} (l : Ledger) (h : q ≠ p) : (setLed s p l).slot q = s.slot q :=
  slot_setSlot_other _ _ _ _ h.symm

-- Answers (R370, R375)

theorem writeReply_storesOnly (s : State) (p : Fin 8) (num : Nat) (reply : Bytes) : StoresOnly s (writeReply s p num reply) := by
  unfold writeReply
  extract_lets l
  split
  · exact .devWrite ..
  · exact .refl s

theorem putStored_storesOnly (s : State) (p : Fin 8) (e : Stored) : StoresOnly
    (setLed s p { (s.slot p).led with stored := alPut (s.slot p).led.stored (e.num % 4096) (some e) }) (putStored s p e) := .devWrite ..

/-- Storing the reply in a ledger that has dropped the ticket makes it the answered one. -/
theorem setLed_answered (s : State) (p : Fin 8) (k : Ticket) (status detail value : Nat) :
    let s1 := setLed s p { (s.slot p).led with queue := (s.slot p).led.queue.filter (fun x => x.num != k.num) }
    setLed s1 p { (s1.slot p).led with stored := alPut (s1.slot p).led.stored (k.num % 4096) (some {
      num := k.num, reply := replyBytes k.num k.epoch k.typ status detail value (s.slot p).led.step.toNat
      crc := fieldU k.raw 60 4, replied := true }) } = setLed s p ((s.slot p).led.answered k status detail value) := by
  simp only [setLed, slot_setSlot_same, setSlot_setSlot, Ledger.answered]

/-- An answer writes stores; beside them only the slot's ledger and, for a RUN, the meter's tags change. -/
theorem answer_storesOnly (s : State) (p : Fin 8) (k : Ticket) (status detail value : Nat) : ∃ u,
    StoresOnly (setLed s p ((s.slot p).led.answered k status detail value)) u ∧
      answer s p k status detail value = if k.typ = 1 then meterTag u p 0 else u := by
  refine ⟨_, ?_, rfl⟩
  rw [← setLed_answered]
  exact (putStored_storesOnly ..).trans (writeReply_storesOnly ..)

theorem meterTag_slots_sched (s : State) (p : Fin 8) (k : W64) : (meterTag s p k).slots = s.slots ∧ (meterTag s p k).sched = s.sched := by
  unfold meterTag
  extract_lets d
  split <;> exact ⟨rfl, rfl⟩

theorem answer_slots_sched (s : State) (p : Fin 8) (k : Ticket) (status detail value : Nat) :
    (answer s p k status detail value).slots = (setLed s p ((s.slot p).led.answered k status detail value)).slots ∧
      (answer s p k status detail value).sched = s.sched := by
  obtain ⟨u, hu, hans⟩ := answer_storesOnly s p k status detail value
  have hsched : u.sched = s.sched := by rw [hu]; rfl
  rw [hans]
  split
  · exact ⟨(meterTag_slots_sched ..).1.trans hu.slots, (meterTag_slots_sched ..).2.trans hsched⟩
  · exact ⟨hu.slots, hsched⟩

/-- An answer changes no slot but the ticket's own, and of that its ledger alone. -/
theorem slot_answer (s : State) (p : Fin 8) (k : Ticket) (status detail value : Nat) (q : Fin 8) :
    (answer s p k status detail value).slot q = (setLed s p ((s.slot p).led.answered k status detail value)).slot q :=
  slot_congr (answer_slots_sched ..).1 q

-- Programming (R355)

theorem wantOn_slots (s : State) (i : Nat) : (wantOn s i).slots = s.slots := by
  unfold wantOn
  split <;> rfl

theorem wantCl_slots (s : State) (c : Fin 64) : (wantCl s c).slots = s.slots := (wantOn_slots ..).trans (wantOn_slots ..)

theorem startPort_slots (s : State) (q : Fin 16) : (startPort s q).slots = s.slots := by
  unfold startPort
  extract_lets k
  split <;> rfl

theorem imageEngine_slots (s : State) (p : Fin 8) (i : Img) (e : Fin 4) : (imageEngine s p i e).slots = s.slots := by
  unfold imageEngine
  extract_lets
  split <;> rfl

theorem imageEngines_slots (s : State) (p : Fin 8) (i : Img) : (imageEngines s p i).slots = s.slots :=
  foldl_slots (fun u e => imageEngine_slots u p i e) ..

theorem writeImage_slots (s : State) (c : Fin 64) : (writeImage s c).slots = s.slots := by
  unfold writeImage
  split
  · rfl
  · split <;> rfl

theorem wantDomains_slots (s : State) (p : Fin 8) (i : Img) : (wantDomains s p i).slots = s.slots := by
  unfold wantDomains
  extract_lets ports s1 s2 s3
  have h1 : s1.slots = s.slots := foldl_slots (fun u g => ite_slots rfl (wantOn_slots ..)) ..
  have h2 : s2.slots = s1.slots := foldl_slots (fun u e => wantOn_slots ..) ..
  have h3 : s3.slots = s2.slots := foldl_slots (fun u d => ite_slots (wantOn_slots ..) rfl) ..
  exact (foldl_slots (fun u q => ite_slots (startPort_slots ..) rfl) ..).trans (h3.trans (h2.trans h1))

theorem wantClusters_slots (s : State) (p : Fin 8) (i : Img) : (wantClusters s p i).slots = s.slots := by
  unfold wantClusters
  split
  · exact foldl_slots wantCl_slots ..
  · exact foldl_slots (fun u n => ite_slots (foldl_slots wantCl_slots ..) rfl) ..

theorem measureImage_slots (s : State) (p : Fin 8) (i : Img) (kind : Nat) : (measureImage s p i kind).slots = s.slots := rfl

theorem loadedState_run (s : State) (p : Fin 8) : ((loadedState s p).slot p).run = (s.slot p).run := by
  unfold loadedState
  split
  · rw [slot_setSlot_same]
  · rw [setPState, slot_congr (syncHdr_slots ..), slot_setSlot_same]

/-- The programming of an image leaves the slot's run as it is (R359: the next step of a run restarts it). -/
theorem programImage_run (s : State) (p : Fin 8) (k : Ticket) (m : Marked) : ((programImage s p k m).slot p).run = (s.slot p).run := by
  unfold programImage
  extract_lets b i full x0 s0 s1 s2 s3 s4 s5 o w x6 w6 s6 s7 s8 x8
  have h0 : (s0.slot p).run = (s.slot p).run := by rw [slot_setSlot_same]
  have h1 : s1.slots = s0.slots := foldl_slots (fun u x => pCommit_slots ..) ..
  have h2 : s2.slots = s1.slots := imageEngines_slots ..
  have h3 : s3.slots = s2.slots := by
    simp only [s3]
    split
    · exact (wantClusters_slots ..).trans (wantDomains_slots ..)
    · rfl
  have h4 : s4.slots = s3.slots := foldl_slots (fun u c => ite_slots (writeImage_slots ..) rfl) ..
  have h5 : s5.slots = s0.slots := (measureImage_slots ..).trans (h4.trans (h3.trans (h2.trans h1)))
  have h6 : (s6.slot p).run = (s5.slot p).run := by
    simp only [s6]
    split
    · rw [slot_setSlot_same]
    · rfl
  have h7 : (s7.slot p).run = (s6.slot p).run := by
    simp only [s7]
    split
    · exact loadedState_run ..
    · rfl
  have h8 : s8.slots = s7.slots := logEv_slots ..
  rw [slot_answer, slot_setLed_same]
  show (s8.slot p).run = _
  rw [slot_congr h8, h7, h6, slot_congr h5, h0]

end Sys2Proof.Machine
end

section
/-! PROOFS. The image loader's commands (R351 to R363): a LOAD and the PARTIAL_RELOAD and LOAD_ALARM_TIMEOUT that may follow it. -/

namespace Sys2Proof.Machine

-- A load that fails (R356)

theorem rejectLoad_slots_sched (s : State) (p : Fin 8) (k : Ticket) (reason dir : Nat) (image : Bytes) :
    (rejectLoad s p k reason dir image).slots =
        (setLed s p ((s.slot p).led.answered k stFailed (2 * 256 + reason) (imgIdent image))).slots ∧
      (rejectLoad s p k reason dir image).sched = s.sched := by
  unfold rejectLoad
  extract_lets s1
  have hslots : s1.slots = s.slots := logEv_slots ..
  obtain ⟨hans, hsched⟩ := answer_slots_sched s1 p k stFailed (2 * 256 + reason) (imgIdent image)
  refine ⟨hans.trans ?_, hsched.trans (logEv_sched ..)⟩
  rw [slot_congr hslots, setLed, setLed, slot_congr hslots, State.setSlot, hslots, State.setSlot]

/-- The state with no load under way (R351). -/
def endJob (s : State) : State := { s with sched := { s.sched with job := none } }

/-- A load without resources of its own that fails for a reason other than SIGNATURE and UNAUTHORISED is rejected, and nothing is undone. -/
theorem failLoad_eq_rejectLoad {j : LoadJob} {reason : Nat} (hfull : j.full = false) (hauth : ¬ (reason = 4 ∨ reason = 5)) (s : State)
    (p : Fin 8) (k : Ticket) (dir : Nat) : failLoad s p k j reason dir = rejectLoad (endJob s) p k reason dir j.image :=
  calc failLoad s p k j reason dir
      = rejectLoadAuth (endJob (if j.full then undoLoad s j else s)) p k reason dir j.image := rfl
    _ = rejectLoadAuth (endJob s) p k reason dir j.image := by rw [hfull]; rfl
    _ = rejectLoad (endJob s) p k reason dir j.image := if_neg hauth

/-- From s to u a load of slot p has ended: of the slots only p's ledger differs, which is l, and no load is under way. -/
structure LoadEnded (p : Fin 8) (l : Ledger) (s u : State) : Prop where
  other : ∀ q, q ≠ p → u.slot q = s.slot q
  job : u.sched.job = none
  own : u.slot p = { s.slot p with led := l }

/-- A load that holds no resources and fails for a reason other than SIGNATURE and UNAUTHORISED ends with the answer to its ticket. -/
theorem failLoad_ends {j : LoadJob} {reason : Nat} (hfull : j.full = false) (hauth : ¬ (reason = 4 ∨ reason = 5)) (s : State)
    (p : Fin 8) (k : Ticket) (dir : Nat) :
    LoadEnded p ((s.slot p).led.answered k stFailed (2 * 256 + reason) (imgIdent j.image)) s (failLoad s p k j reason dir) := by
  obtain ⟨hslots, hsched⟩ := rejectLoad_slots_sched (endJob s) p k reason dir j.image
  rw [failLoad_eq_rejectLoad hfull hauth]
  refine ⟨fun q hq => ?_, by rw [hsched]; rfl, ?_⟩
  · exact (slot_congr hslots q).trans (slot_setLed_other _ _ hq)
  · exact (slot_congr hslots p).trans (slot_setLed_same ..)

/-- Without a run no boundary waits for the load. -/
theorem afterLoad_of_no_run {s : State} {p : Fin 8} (h : (s.slot p).run = none) : afterLoad s p = s := by
  unfold afterLoad
  rw [h]

/-- Where the partition has no run, nothing follows such a failure. -/
theorem afterLoad_failLoad_ends {j : LoadJob} {reason : Nat} (hfull : j.full = false) (hauth : ¬ (reason = 4 ∨ reason = 5)) {s : State}
    {p : Fin 8} (hrun : (s.slot p).run = none) (k : Ticket) (dir : Nat) :
    LoadEnded p ((s.slot p).led.answered k stFailed (2 * 256 + reason) (imgIdent j.image)) s
      (afterLoad (failLoad s p k j reason dir) p) := by
  have h := failLoad_ends hfull hauth s p k dir
  rw [afterLoad_of_no_run (by rw [h.own]; exact hrun)]
  exact h

-- LOAD (R351 to R353)

/-- The job of an image that a LOAD ticket has read. -/
def LoadJob.ofRead (p : Fin 8) (k : Ticket) (v : SigVerdict) (m : Marked) : LoadJob :=
  { slot := p, num := k.num, image := m.bytes, verdict := v, full := false, waitFrom := none, poison := m.poison, powered := [], before := [] }

/-- Check 1 of R353 comes first. -/
theorem loadTicket_of_bad_header {s : State} {k : Ticket} (h : headerOk (readImage s (fieldU k.raw 16 8)).bytes = false) (p : Fin 8)
    (v : SigVerdict) (tr : List Training) :
    loadTicket s p k v tr = failLoad (missIn (beginTicket s p k.num) (fieldU k.raw 16 8) (readImage s (fieldU k.raw 16 8)).bytes.length) p k
      (.ofRead p k v (readImage s (fieldU k.raw 16 8))) 1 0xFF := by
  unfold loadTicket
  extract_lets a m s1 b j
  exact if_pos (by rw [h]; rfl)

section
variable {t : Nat} {p : Fin 8} {s : State} {k : Ticket} {v : SigVerdict} {tr : List Training}

theorem exec_load_of_not_may (h : loadMay (tick t s) p = false) : exec (.load t p v tr) s = .next (tick t s) := if_pos (by rw [h]; rfl)

theorem exec_load_of_may (hmay : loadMay (tick t s) p = true) (hturn : turnOf s p 9 = some k) : exec (.load t p v tr) s =
    if loadFirst (tick t s) p k then .next (afterLoad (loadTicket (tick t s) p k v tr) p) else .next (tick t s) := by
  have hturn' : turnOf (tick t s) p 9 = some k := hturn
  show execLoad t p v tr s = _
  simp [execLoad, hmay, hturn']

/-- A LOAD whose image has been read, n bytes from a, and has no sound header ends with its answer where the partition has no run. -/
theorem bad_header_ends (hrun : (s.slot p).run = none) (a n : Nat) (m : Marked) :
    LoadEnded p (((s.slot p).led.began k.num).answered k stFailed 0x0201 (imgIdent m.bytes)) s
      (afterLoad (failLoad (missIn (beginTicket (tick t s) p k.num) a n) p k (.ofRead p k v m) 1 0xFF) p) := by
  let s1 := missIn (beginTicket (tick t s) p k.num) a n
  have hslots : s1.slots = (setLed s p ((s.slot p).led.began k.num)).slots := (StoresOnly.missIn ..).slots
  have hown : s1.slot p = { s.slot p with led := (s.slot p).led.began k.num } := (slot_congr hslots p).trans (slot_setLed_same ..)
  have h := afterLoad_failLoad_ends (j := .ofRead p k v m) (reason := 1) rfl (by decide) (by rw [hown]; exact hrun) k 0xFF
  refine ⟨fun q hq => ?_, h.job, ?_⟩
  · rw [h.other q hq, slot_congr hslots, slot_setLed_other _ _ hq]
  · rw [h.own, hown]
    rfl

-- PARTIAL_RELOAD and LOAD_ALARM_TIMEOUT (R359, R363)

theorem exec_partialReload_of_no_job (h : s.sched.job = none) : exec (.partialReload t p) s = .next (tick t s) := by
  show execPartialReload t p s = _
  simp [execPartialReload, h]

theorem exec_loadAlarmTimeout_of_no_job (h : s.sched.job = none) : exec (.loadAlarmTimeout t p) s = .next (tick t s) := by
  show execLoadAlarmTimeout t p s = _
  simp [execLoadAlarmTimeout, h]

variable {j : LoadJob} {i : Img} (hjob : s.sched.job = some j) (hslot : j.slot = p) (hup : schedUp (tick t s) = true)
include hjob hslot hup

section
variable (hpart : j.full = false) (himg : (s.slot p).img = some i) (hidle : (s.slot p).st = .idle) (hquiet : quiesced s p i = true)
include hpart himg hidle hquiet

theorem exec_partialReload_of_quiesced (halarm : alarmLevel s = 0) (hrun : (s.slot p).run = none) (hfind : findTicket s p j.num = some k) :
    exec (.partialReload t p) s = .next (programImage (tick t s) p k j.marked) := by
  have hquiet' : quiesced (tick t s) p i = true := hquiet
  have halarm' : alarmLevel (tick t s) = 0 := halarm
  have hfind' : findTicket (tick t s) p j.num = some k := hfind
  have hrun' : ((programImage (tick t s) p k j.marked).slot p).run = none := (programImage_run ..).trans hrun
  show execPartialReload t p s = _
  simp [execPartialReload, hjob, hslot, hup, hpart, himg, hidle, hquiet', halarm', hfind', hrun']

theorem exec_partialReload_of_alarm (halarm : alarmLevel s ≠ 0) (hwait : j.waitFrom = none) : exec (.partialReload t p) s =
    .next { tick t s with sched := { s.sched with job := some { j with waitFrom := some (max s.now t) } } } := by
  have hquiet' : quiesced (tick t s) p i = true := hquiet
  have halarm' : alarmLevel (tick t s) ≠ 0 := halarm
  show execPartialReload t p s = _
  simp [execPartialReload, hjob, hslot, hup, hpart, himg, hidle, hquiet', halarm', hwait]

end

theorem exec_loadAlarmTimeout_of_late {x : Nat} (hwait : j.waitFrom = some x) (halarm : alarmLevel s ≠ 0)
    (hlate : x + 1000000000 ≤ max s.now t) (hfind : findTicket s p j.num = some k) :
    exec (.loadAlarmTimeout t p) s = .next (afterLoad (failLoad (tick t s) p k j 13 0xFF) p) := by
  have halarm' : alarmLevel (tick t s) ≠ 0 := halarm
  have hfind' : findTicket (tick t s) p j.num = some k := hfind
  have hlate' : elapsed (max s.now t) x 1000000000 = true := decide_eq_true hlate
  show execLoadAlarmTimeout t p s = _
  simp [execLoadAlarmTimeout, hjob, hslot, hup, hwait, halarm', hlate', hfind']

end

/-- Settles O39: LOAD is exec_load_of_may; a bad header and a late alarm end the load as failLoad_ends says; a reload that programs its
image leaves no run to restart (programImage_run). -/
theorem loadsAreCarriedOut : Obligations.LoadsAreCarriedOut := by
  unfold Obligations.LoadsAreCarriedOut
  intro t p s k v tr
  refine ⟨exec_load_of_not_may, fun hmay hturn hfirst => ?_, fun hmay hturn hfirst => ?_, fun j i hjob hslot hpart hfind himg hup => ?_,
    fun h => ⟨exec_partialReload_of_no_job h, exec_loadAlarmTimeout_of_no_job h⟩⟩
  · exact (exec_load_of_may hmay hturn).trans (if_neg (by simp [hfirst]))
  · have hexec : exec (.load t p v tr) s = .next (afterLoad (loadTicket (tick t s) p k v tr) p) :=
      (exec_load_of_may hmay hturn).trans (if_pos hfirst)
    refine ⟨hexec, fun hrun hbad => ?_⟩
    rw [loadTicket_of_bad_header hbad] at hexec
    obtain ⟨hother, hjob, hown⟩ := bad_header_ends hrun _ _ _
    exact ⟨_, hexec, hother, hjob, hown⟩
  · refine ⟨fun hidle hrun hquiet halarm => ?_, fun hidle hquiet halarm hwait => ?_, fun x hwait halarm hlate hrun => ?_⟩
    · exact exec_partialReload_of_quiesced hjob hslot hup hpart himg hidle hquiet halarm hrun hfind
    · exact exec_partialReload_of_alarm hjob hslot hup hpart himg hidle hquiet halarm hwait
    · obtain ⟨hother, hjob', hown⟩ := afterLoad_failLoad_ends (reason := 13) (s := tick t s) hpart (by decide) hrun k 0xFF
      exact ⟨_, exec_loadAlarmTimeout_of_late hjob hslot hup hwait halarm hlate hfind, hother, hjob', hown⟩

end Sys2Proof.Machine
end

section
/-! PROOFS. The scheduler core (R370 to R380, R393): when it serves, commands that change one slot alone, and what answers, headers and trace
points leave of the slots. -/

namespace Sys2Proof.Machine

-- Serving (R385, R393)

/-- A restart that is over stays over. -/
theorem schedUp_tick {s : State} (h : schedUp s = true) (t : Nat) : schedUp (tick t s) = true := by
  cases hat : s.sched.restartAt with
  | none => simpa [schedUp, restarting, hat] using h
  | some x =>
    have hmono : elapsed s.now x 200000 = true → elapsed (tick t s).now x 200000 = true := fun hx =>
      decide_eq_true (Nat.le_trans (of_decide_eq_true hx) (Nat.le_max_left ..))
    simp only [schedUp, restarting, hat, tick_sched, Bool.and_eq_true, Bool.not_not] at h ⊢
    exact ⟨h.1, hmono h.2⟩

theorem serving_tick {s : State} (h : serving s = true) (t : Nat) : serving (tick t s) = true := by
  simp only [serving, Bool.and_eq_true] at h ⊢
  exact ⟨schedUp_tick h.1 t, h.2⟩

-- Changes of one slot

/-- Of the slots only p's differs between s and u, and in u it is x. -/
def SlotBecomes (p : Fin 8) (x : Slot) (s u : State) : Prop := u.slots = (s.setSlot p x).slots

namespace SlotBecomes

variable {p : Fin 8} {x y : Slot} {s t u : State}

theorem own (h : SlotBecomes p x s u) : u.slot p = x := (slot_congr h p).trans (slot_setSlot_same ..)

theorem other (h : SlotBecomes p x s u) (q : Fin 8) (hq : q ≠ p) : u.slot q = s.slot q :=
  (slot_congr h q).trans (slot_setSlot_other _ _ _ _ hq.symm)

theorem trans (h1 : SlotBecomes p x s t) (h2 : SlotBecomes p y t u) : SlotBecomes p y s u := by
  have ht : t.slots = (s.setSlot p x).slots := h1
  have hu : u.slots = (t.setSlot p y).slots := h2
  have hy : (s.setSlot p x).setSlot p y = s.setSlot p y := setSlot_setSlot ..
  calc u.slots = vset t.slots p y := hu
    _ = ((s.setSlot p x).setSlot p y).slots := by rw [ht]; rfl
    _ = (s.setSlot p y).slots := by rw [hy]

/-- What follows may do anything that leaves the slots. -/
theorem andThen (h : SlotBecomes p x s t) (hu : u.slots = t.slots) : SlotBecomes p x s u := hu.trans h

/-- What comes before may do anything that leaves the slots. -/
theorem after (ht : t.slots = s.slots) (h : SlotBecomes p x t u) : SlotBecomes p x s u := by
  have hu : u.slots = vset t.slots p x := h
  rwa [ht] at hu

theorem setSlot (s : State) (p : Fin 8) (x : Slot) : SlotBecomes p x s (s.setSlot p x) := rfl

theorem setLed (s : State) (p : Fin 8) (l : Ledger) : SlotBecomes p { s.slot p with led := l } s (setLed s p l) := rfl

theorem setPState (s : State) (p : Fin 8) (st : PState) : SlotBecomes p { s.slot p with st := st } s (setPState s p st) :=
  (setSlot s p _).andThen (syncHdr_slots ..)

/-- An answer changes the ledger of the ticket's slot alone (R370, R375). -/
theorem answer (s : State) (p : Fin 8) (k : Ticket) (status detail value : Nat) :
    SlotBecomes p { s.slot p with led := (s.slot p).led.answered k status detail value } s (answer s p k status detail value) :=
  (answer_slots_sched ..).1

end SlotBecomes

-- Tests, trace points and messages leave the slots (R387, R391, R400)

theorem fwTracePoint_slots (s : State) (source part : Nat) (mask : BitVec 256) : (fwTracePoint s source part mask).slots = s.slots := by
  unfold fwTracePoint
  extract_lets f n
  split
  · rfl
  · split
    · exact logEv_slots ..
    · rfl

theorem fwTracePoint_of_mask_zero (s : State) (source part : Nat) : fwTracePoint s source part 0 = s := if_pos rfl

theorem sendTwin_slots (s : State) (qs : List (Fin 16)) (data : Bytes) : (sendTwin s qs data).slots = s.slots :=
  foldl_slots (fun u q => (FlitsSent.sendFlit u q _).slots) qs s

/-- A self-test that a ticket asked for is answered by that ticket. -/
theorem answerTest_of_ticket {s : State} {p : Fin 8} {n : Nat} {k : Ticket} (h : findTicket s p n = some k) (r : Option MgmtReq)
    (status detail value : Nat) : answerTest s p (some n) r status detail value = answer s p k status detail value := by
  simp only [answerTest, h]

-- Claims (R349)

/-- Which partition claims a cluster stands in the cluster maps alone. -/
theorem claimOf_congr {s u : State} (h : ∀ p, (u.slot p).asg = (s.slot p).asg) (c : Fin 64) : claimOf u c = claimOf s c := by
  simp only [claimOf, h]

theorem SlotBecomes.claimOf {p : Fin 8} {x : Slot} {s u : State} (h : SlotBecomes p x s u) (hx : x.asg = (s.slot p).asg) (c : Fin 64) :
    claimOf u c = claimOf s c :=
  claimOf_congr (fun q => by
    by_cases hq : q = p
    · rw [hq, h.own, hx]
    · rw [h.other q hq]) c

end Sys2Proof.Machine
end

section
/-! PROOFS. SELFTEST by ticket on a controller group that is off (R391, log entry 35): the answer goes to the first queued ticket of its number. -/

namespace Sys2Proof.Machine

section
variable {t : Nat} {p : Fin 8} {s : State} {k j : Ticket} {g : Fin 8}

/-- A MEM_SCRUB on a group that is off is answered at once, by the first queued ticket that bears its number. -/
theorem exec_selftest_of_group_off (hserv : serving s = true) (hturn : turnOf s p 6 = some k) (hst : (s.slot p).st = .idle)
    (hkind : fieldU k.raw 16 1 = 2) (hown : (pkgGroups (claimPkgs (slotPart s p))).find? (fun g => g.val == fieldU k.raw 17 1) = some g)
    (hoff : mgOn s g = false) (hfind : findTicket (beginTicket s p k.num) p k.num = some j) (res : Nat) :
    exec (.selftest t p res) s = .next (answer (beginTicket (tick t s) p k.num) p j (katStatus res).1 (katStatus res).2 res) := by
  have hturn' : turnOf (tick t s) p 6 = some k := hturn
  have hown' : (pkgGroups (claimPkgs (slotPart (tick t s) p))).find? (fun g => g.val == fieldU k.raw 17 1) = some g := hown
  have hoff' : mgOn (beginTicket (tick t s) p k.num) g = false := hoff
  have hfind' : findTicket (beginTicket (tick t s) p k.num) p k.num = some j := hfind
  show execSelftest t p res s = _
  simp [execSelftest, serving_tick hserv, hturn', hst, hkind, hown', scrubTest, hoff', answerTest_of_ticket hfind']

end

/-- A RUN of number 8 that is being carried out. -/
def runBefore : Ticket := { num := 8, ord := 0, epoch := 0, typ := 1, raw := zeroB 64, begun := true }

/-- A SELFTEST of number 8 that asks for MEM_SCRUB on group 0; the CRC field of its slot holds 1. -/
def scrubAfter : Ticket := { num := 8, ord := 1, epoch := 0, typ := 6, raw := zeroB 16 ++ [2] ++ zeroB 43 ++ [1], begun := false }

/-- An image that claims package 0, and so group 0, and nothing else. -/
def packageImg : Img :=
  { imageId := 0, digest := [], keyDigest := [], finger := [], loadArea := 0, total := 0, part := zeroB 8 ++ [1], clusters := [], layers := []
    ladders := [], streams := [], groups := [], links := [], barriers := [], symbols := [], wake := [], scheds := [], gtab := 0, dests := [] }

/-- An IDLE partition in whose ledger both tickets of number 8 are queued; group 0 is off. -/
def twoOfOneNumber : State := State.reset.setSlot 0
  { Slot.reset with st := .idle, img := some packageImg, led := { Ledger.reset with queue := [runBefore, scrubAfter] } }

/-- The test of the second ticket is answered by the first. -/
theorem exec_selftest_twoOfOneNumber : exec (.selftest 0 0 0) twoOfOneNumber =
    .next (answer (beginTicket (tick 0 twoOfOneNumber) 0 8) 0 runBefore stDone 0 0) :=
  exec_selftest_of_group_off (k := scrubAfter) (g := 0) rfl rfl rfl rfl rfl rfl rfl 0

/-- The CRC that a slot stores for ticket number 8. -/
def storedCrc (x : Slot) : Option Nat := (alGet x.led.stored 8).map Stored.crc

/-- Refutes O34: where an earlier queued ticket bears the number of a SELFTEST on a group that is off, the reply that is stored is the earlier
ticket's (exec_selftest_of_group_off), with the CRC of its slot. Acceptance by HIGH (R373) keeps two tickets of one number out of a queue; the
statement ranges over every state and does not ask for that. -/
theorem not_ticketsActOnTheirPartition : ¬ Obligations.TicketsActOnTheirPartition := by
  unfold Obligations.TicketsActOnTheirPartition
  intro h
  obtain ⟨-, -, -, hself⟩ := h 0 0 twoOfOneNumber scrubAfter 0 rfl
  obtain ⟨u, hexec, -, hslot⟩ := ((hself rfl (.inl rfl) rfl).2 0 rfl).2 rfl
  rw [exec_selftest_twoOfOneNumber] at hexec
  obtain rfl := Host.Outcome.next.inj hexec
  rw [(SlotBecomes.answer ..).own] at hslot
  have hcrc : (some 0 : Option Nat) = some 1 := congrArg storedCrc hslot
  exact absurd hcrc (by decide)

end Sys2Proof.Machine
end

section
/-! PROOFS. RUN, CHECKPOINT and DUMP (R369, R380, R407, R513): the policy area written at the start of a RUN leaves the slots, and each command
changes its own slot alone. -/

namespace Sys2Proof.Machine

-- What writes to a partition and to its policy area leave (R176 to R181, R297)

theorem StoresOnly.foldl {α : Type} {f : State → α → State} (hf : ∀ u x, StoresOnly u (f u x)) (l : List α) (s : State) :
    StoresOnly s (l.foldl f s) :=
  foldl_keeps (P := StoresOnly s) (.refl s) (fun u x h => h.trans (hf u x))

theorem StoresOnly.ite {c : Prop} [Decidable c] {s t u : State} (ht : StoresOnly s t) (hu : StoresOnly s u) :
    StoresOnly s (if c then t else u) := by
  split
  · exact ht
  · exact hu

theorem StoresOnly.pWrite (s : State) (p : Fin 8) (a : Nat) (b : Bytes) (poi : Bool) : StoresOnly s (pWrite s p a b poi) := by
  unfold Machine.pWrite pCommit
  obtain ⟨_, _, h⟩ := devCommit_eq s (((wbytes a b poi).filter (fun w => partOwns s p w.addr 1)).map
    (fun w => { w with addr := partAddr s p w.addr }))
  rw [h]
  rfl

theorem writePol_storesOnly (s : State) (p : Fin 8) (i : Img) (L d : Nat) (r : PolRec) : StoresOnly s (writePol s p i L d r) := .pWrite ..

theorem writeVectors_storesOnly (s : State) (p : Fin 8) (i : Img) (L : Nat) : StoresOnly s (writeVectors s p i L) :=
  .trans (.pWrite ..) (.pWrite ..)

theorem plAppend_storesOnly (s : State) (p : Fin 8) (i : Img) (t L d cause : Nat) (old new : PolRec) (frac : Nat) :
    StoresOnly s (plAppend s p i t L d cause old new frac) := .trans (.pWrite ..) (.pWrite ..)

theorem freshTables_storesOnly (s : State) (p : Fin 8) (i : Img) : StoresOnly s (freshTables s p i) :=
  .foldl (fun _ _ => .pWrite ..) ..

theorem freshPolicy_storesOnly (s : State) (p : Fin 8) (i : Img) : StoresOnly s (freshPolicy s p i) :=
  .trans
    (.foldl (fun _ _ => .trans (.trans (.foldl (fun _ _ => writePol_storesOnly ..) ..) (.pWrite ..)) (writeVectors_storesOnly ..)) ..)
    (.pWrite ..)

theorem rebuildLadder_storesOnly (s : State) (p : Fin 8) (i : Img) (t L d why : Nat) : StoresOnly s (rebuildLadder s p i t L d why) :=
  .trans (.trans (.trans (writePol_storesOnly ..) (writeVectors_storesOnly ..)) (.logEv ..)) (plAppend_storesOnly ..)

theorem restartPolicy_storesOnly (s : State) (p : Fin 8) (i : Img) (t : Nat) : StoresOnly s (restartPolicy s p i t) :=
  .foldl (fun _ _ => .ite (.refl _) (rebuildLadder_storesOnly ..)) ..

-- RUN (R369, R380)

/-- The RUN of ticket k that is to start with a step (R380): B5 is due from now on. -/
def runOf (k : Ticket) (now step : Nat) (fresh : Bool) : Run :=
  { num := k.num, left := fieldU k.raw 16 4, step := step % 2 ^ 32, stage := .atB5, fresh := fresh, started := false, dueAt := now
    applied := false }

/-- The state in which ticket k of slot p has begun and its RUN is due to start with a step. -/
def runBegun (s : State) (p : Fin 8) (k : Ticket) (step : Nat) (fresh : Bool) : State :=
  meterTag (setPState (beginTicket (s.setSlot p { s.slot p with run := some (runOf k s.now step fresh) }) p k.num) p .running) p
    (BitVec.ofNat 64 k.num)

theorem runBegun_becomes (s : State) (p : Fin 8) (k : Ticket) (step : Nat) (fresh : Bool) :
    SlotBecomes p { s.slot p with st := .running, led := (s.slot p).led.began k.num, run := some (runOf k s.now step fresh) } s
      (runBegun s p k step fresh) := by
  have h := ((SlotBecomes.setSlot s p { s.slot p with run := some (runOf k s.now step fresh) }).trans (.setLed _ p _)).trans
    (.setPState (beginTicket _ p k.num) p .running)
  have hrun := h.andThen (meterTag_slots_sched _ p (BitVec.ofNat 64 k.num)).1
  simpa [runBegun, beginTicket, Ledger.began] using hrun

/-- The step with which a RUN starts, where it names no handle: 0 where FROM is 0, else FROM or the step after the last. -/
def firstStep (s : State) (p : Fin 8) (k : Ticket) : Nat :=
  if fieldU k.raw 20 4 = 0xFFFFFFFF then lastStep s p + 1 else fieldU k.raw 20 4

/-- The RUN that a ticket without a handle starts on slot p (R369). -/
def ticketRun (s : State) (p : Fin 8) (k : Ticket) : Run :=
  if fieldU k.raw 20 4 = 0 then runOf k s.now 0 true else runOf k s.now (firstStep s p k) false

theorem runBegun_mod (s : State) (p : Fin 8) (k : Ticket) (step : Nat) (fresh : Bool) :
    runBegun s p k (step % 2 ^ 32) fresh = runBegun s p k step fresh := by
  simp only [runBegun, runOf, Nat.mod_mod]

/-- A RUN without a handle begins once its policy area has been written (R179, R180). -/
theorem startRun_eq_runBegun {s : State} {p : Fin 8} {i : Img} {k : Ticket} (hhandle : fieldU k.raw 24 8 = 0) (buddy : Option Marked) :
    ∃ u, StoresOnly s u ∧ startRun s p i k buddy =
      if fieldU k.raw 20 4 = 0 then runBegun u p k 0 true else runBegun u p k (firstStep s p k) false := by
  by_cases hfrom : fieldU k.raw 20 4 = 0
  · refine ⟨freshPolicy (freshTables s p i) p i, (freshTables_storesOnly ..).trans (freshPolicy_storesOnly ..), ?_⟩
    simp only [startRun, hhandle, hfrom, ne_eq, not_true_eq_false, if_false, if_true]
    rfl
  · by_cases hnext : fieldU k.raw 20 4 = 0xFFFFFFFF
    · refine ⟨_, restartPolicy_storesOnly s p i (((lastStep s p + 1) % 2 ^ 32 + 2 ^ 32 - 1) % 2 ^ 32), ?_⟩
      rw [firstStep, if_neg hfrom, if_pos hnext, ← runBegun_mod]
      simp only [startRun, hhandle, hnext, ne_eq, not_true_eq_false, if_false, if_true]
      rfl
    · refine ⟨_, restartPolicy_storesOnly s p i ((fieldU k.raw 20 4 + 2 ^ 32 - 1) % 2 ^ 32), ?_⟩
      simp only [startRun, firstStep, hhandle, hfrom, hnext, ne_eq, not_true_eq_false, if_false]
      rfl

theorem startRun_becomes {s : State} {p : Fin 8} {i : Img} {k : Ticket} (hhandle : fieldU k.raw 24 8 = 0) (buddy : Option Marked) :
    SlotBecomes p { s.slot p with st := .running, led := (s.slot p).led.began k.num, run := some (ticketRun s p k) } s
      (startRun s p i k buddy) := by
  obtain ⟨u, hu, hrun⟩ := startRun_eq_runBegun (s := s) (p := p) (i := i) hhandle buddy
  rw [hrun, ticketRun]
  split
  · have h := SlotBecomes.after hu.slots (runBegun_becomes u p k 0 true)
    rwa [slot_congr hu.slots, hu.now] at h
  · have h := SlotBecomes.after hu.slots (runBegun_becomes u p k (firstStep s p k) false)
    rwa [slot_congr hu.slots, hu.now] at h

-- A checkpoint in memory (R407)

/-- A checkpoint of slot p that streams to memory for a ticket (R407). -/
def memoryStream (s : State) (p : Fin 8) (i : Img) (c n a : Nat) : CkStream :=
  { ticket := some n, memory := some a, slot := nextSlot (s.slot p).ck, step := c, shard := readShard s p i }

/-- Opening a checkpoint in memory changes the ledger and the checkpoints of its slot alone. -/
theorem openCkpt_of_memory (s : State) (p : Fin 8) (i : Img) (c n a : Nat) : ∃ ms h, openCkpt s p i c (some n) (some a) = s.setSlot p { s.slot p with
    led := (s.slot p).led.began n
    ck := { (s.slot p).ck with mems := ms, stream := some (memoryStream s p i c n a), handle := h } } := by
  let ms := (s.slot p).ck.mems.filter (fun m => m.1 != a)
  refine ⟨ms, agreedHandle { (s.slot p).ck with mems := ms, stream := some (memoryStream s p i c n a) }, ?_⟩
  unfold openCkpt
  simp only [beginTicket, setLed, slot_setSlot_same, setSlot_setSlot]
  rfl

-- The commands (R369, R380, R407, R513)

section
variable {t : Nat} {p : Fin 8} {s : State} {k : Ticket} {i : Img} (hserv : serving s = true)
include hserv

section
variable (himg : (s.slot p).img = some i)
include himg

section
variable (hturn : turnOf s p 1 = some k) (hidle : (s.slot p).st = .idle)
include hturn hidle

theorem exec_run_of_may (hjob : s.sched.job = none) (htwin : (s.slot p).twin.st = .unpaired ∨ (s.slot p).twin.st = .paired ∨
    (s.slot p).twin.st = .solo) (hnone : noneRuns s p = true) (buddy : Option Marked) :
    exec (.run t p buddy) s = .next (startRun (tick t s) p i k buddy) := by
  have hturn' : turnOf (tick t s) p 1 = some k := hturn
  have hnone' : noneRuns (tick t s) p = true := hnone
  show execRun t p buddy s = _
  rcases htwin with h | h | h <;> simp [execRun, serving_tick hserv, hturn', hidle, himg, h, hjob, hnone']

theorem exec_run_of_fenced (htwin : (s.slot p).twin.st = .fenced) (buddy : Option Marked) :
    exec (.run t p buddy) s = .next (answer (tick t s) p k stFailed 0x0303 (lastStep s p)) := by
  have hturn' : turnOf (tick t s) p 1 = some k := hturn
  show execRun t p buddy s = _
  simp [execRun, serving_tick hserv, hturn', hidle, himg, htwin]
  rfl

end

theorem exec_checkpoint_of_memory (hturn : turnOf s p 4 = some k) (hidle : (s.slot p).st = .idle) (hfree : (s.slot p).ck.stream = none)
    (hkind : fieldU k.raw 16 1 = 1) (hdram : fieldU k.raw 24 8 < dramEnd)
    (howns : partOwns s p (fieldU k.raw 24 8) (4096 + shardSize i) = true) : exec (.checkpoint t p) s =
      .next (openCkpt (tick t s) p i (lastStep s p) (some k.num) (some (fieldU k.raw 24 8))) := by
  have hturn' : turnOf (tick t s) p 4 = some k := hturn
  have howns' : partOwns (tick t s) p (fieldU k.raw 24 8) (4096 + shardSize i) = true := howns
  show execCheckpoint t p s = _
  simp [execCheckpoint, ckptTicket, serving_tick hserv, hturn', hidle, himg, hfree, hkind, hdram, howns']
  rfl

end

theorem exec_dump_of_turn (hturn : turnOf s p 5 = some k) : exec (.dump t p) s = .next (dumpTicket (tick t s) p k) := by
  have hturn' : turnOf (tick t s) p 5 = some k := hturn
  show execDump t p s = _
  simp [execDump, serving_tick hserv, hturn']

end

section
variable {s : State} {p : Fin 8} {i : Img} {k : Ticket} (himg : (s.slot p).img = some i)
include himg

theorem dumpTicket_of_bad_auth (h : sliceB k.raw 40 16 ≠ dumpAuth s p k.raw) : dumpTicket s p k = answer s p k stDenied 0 0 := by
  simp [dumpTicket, himg, h]

/-- The DUMP that a ticket arms for the tensor of a SYMBOLS entry (R513). -/
def armedDump (k : Ticket) (e : Bytes) : DumpJob :=
  { num := k.num, entry := e, step := fieldU k.raw 24 4, dest := fieldU k.raw 32 8, taken := none }

theorem dumpTicket_of_fit {e : Bytes} (hauth : sliceB k.raw 40 16 = dumpAuth s p k.raw) (hsym : symEntry i (fieldU k.raw 16 8) = some e)
    (hsize : fieldU k.raw 32 8 + symSize e ≤ partSize s p) (howns : partOwns s p (fieldU k.raw 32 8) (symSize e) = true)
    (hlen : dumpLen s p (symSize e) ≤ (s.slot p).obs.dumpLen.toNat) (hstep : (s.slot p).led.step.toNat < fieldU k.raw 24 4)
    (hfree : (s.slot p).obs.dump = none) : dumpTicket s p k = s.setSlot p { s.slot p with
      led := (s.slot p).led.began k.num, obs := { (s.slot p).obs with dump := some (armedDump k e) } } := by
  have hfits : ¬ (partSize s p < fieldU k.raw 32 8 + symSize e ∨ partOwns s p (fieldU k.raw 32 8) (symSize e) = false ∨
      (s.slot p).obs.dumpLen.toNat < dumpLen s p (symSize e)) := by
    simp only [howns, Bool.true_eq_false, false_or]
    omega
  have hlater : ¬ (fieldU k.raw 24 4 ≤ (s.slot p).led.step.toNat ∨ (s.slot p).obs.dump.isSome = true) := by
    simp only [hfree, Option.isSome_none, Bool.false_eq_true, or_false]
    omega
  simp only [dumpTicket, himg, hsym, ne_eq, hauth, not_true_eq_false, if_false, hfits, hlater, beginTicket, setLed, slot_setSlot_same,
    setSlot_setSlot]
  rfl

end

/-- Settles O35: a RUN writes stores and then begins (startRun_becomes), a checkpoint opens (openCkpt_of_memory), and a dump is armed or denied
(dumpTicket_of_fit, dumpTicket_of_bad_auth). -/
theorem runsCheckpointsAndDumpsBegin : Obligations.RunsCheckpointsAndDumpsBegin := by
  unfold Obligations.RunsCheckpointsAndDumpsBegin
  intro t p s k i buddy hserv himg
  refine ⟨fun hturn hidle hjob htwin hhandle hnone => ?_, fun hturn hidle hfenced => ?_,
    fun hturn hidle hfree hkind hdram howns => ?_, fun hturn => ⟨fun hauth => ?_, fun e hauth hsym hsize howns hlen hstep hfree => ?_⟩⟩
  · have h := startRun_becomes (s := tick t s) (p := p) (i := i) hhandle buddy
    exact ⟨_, exec_run_of_may hserv himg hturn hidle hjob htwin hnone buddy, h.other, h.own⟩
  · have h := SlotBecomes.answer (tick t s) p k stFailed 0x0303 (lastStep s p)
    exact ⟨_, exec_run_of_fenced hserv himg hturn hidle hfenced buddy, h.own, h.other⟩
  · obtain ⟨ms, h, hopen⟩ := openCkpt_of_memory (tick t s) p i (lastStep s p) k.num (fieldU k.raw 24 8)
    have hexec := exec_checkpoint_of_memory (t := t) hserv himg hturn hidle hfree hkind hdram howns
    rw [hopen] at hexec
    refine ⟨_, hexec, ?_⟩
    rw [slot_setSlot_same]
    exact ⟨rfl, hidle, rfl, rfl, fun q hq => slot_setSlot_other _ _ _ _ hq.symm, rfl, rfl⟩
  · have h := SlotBecomes.answer (tick t s) p k stDenied 0 0
    refine ⟨_, (exec_dump_of_turn hserv hturn).trans ?_, h.own, h.other⟩
    rw [dumpTicket_of_bad_auth (s := tick t s) himg hauth]
  · rw [exec_dump_of_turn hserv hturn, dumpTicket_of_fit (s := tick t s) himg hauth hsym hsize howns hlen hstep hfree]
    rfl

end Sys2Proof.Machine
end

section
/-! PROOFS. The ticket ledgers (R364 to R379, R395, R396): the checks of one ticket, the sample of one ledger, CLAIM, TKT_BASE and the lapse of a
lease. -/

namespace Sys2Proof.Machine

-- Fields (R6)

theorem leNat_lt (b : Bytes) : leNat b < 256 ^ b.length := by
  induction b with
  | nil => decide
  | cons x r ih =>
    have hx := x.isLt
    simp only [leNat, List.length_cons, Nat.pow_succ]
    omega

theorem fieldU_lt (b : Bytes) (off n : Nat) : fieldU b off n < 256 ^ n := by
  have h := leNat_lt (sliceB b off n)
  rwa [length_sliceB] at h

/-- Writing back the slot that stands there changes nothing. -/
theorem setSlot_self (s : State) (p : Fin 8) : s.setSlot p (s.slot p) = s := by
  have h : vset s.slots p (s.slots.get p) = s.slots := Vector.set_getElem_self p.isLt
  unfold State.setSlot State.slot
  rw [h]

-- A ticket accepted (R373 to R376)

/-- The ticket that 64 bytes of a ledger hold, as the n-th that the scheduler core accepts. -/
def ticketOf (n : Nat) (b : Bytes) : Ticket := { num := tkNum b, ord := n, epoch := tkEpoch b, typ := tkType b, raw := b, begun := false }

/-- A ledger that has accepted those bytes. -/
def Ledger.accepted (l : Ledger) (n : Nat) (b : Bytes) : Ledger :=
  { l with
    high := BitVec.ofNat 64 (tkNum b), queue := l.queue ++ [ticketOf n b]
    stored := alPut l.stored (tkNum b % 4096) (some { num := tkNum b, reply := zeroB 32, crc := fieldU b 60 4, replied := false }) }

theorem acceptTicket_storesOnly (s : State) (p : Fin 8) (b : Bytes) :
    StoresOnly (setLed { s with sched := { s.sched with accepted := s.sched.accepted + 1 } } p
      ((s.slot p).led.accepted s.sched.accepted b)) (acceptTicket s p b) := by
  have h : StoresOnly _ (acceptTicket s p b) := putStored_storesOnly ..
  simp only [setLed, slot_setSlot_same, setSlot_setSlot] at h
  exact h

theorem acceptTicket_becomes (s : State) (p : Fin 8) (b : Bytes) :
    SlotBecomes p { s.slot p with led := (s.slot p).led.accepted s.sched.accepted b } s (acceptTicket s p b) :=
  (acceptTicket_storesOnly s p b).slots

-- The checks of one ticket (R373)

section
variable {s : State} {p : Fin 8} {b : Bytes}

theorem examine_of_old_epoch (h : tkEpoch b < (s.slot p).led.epoch.toNat) : examine s p b =
    logSch (countReject s p) 0x7002 p.val (payload [(0, 8, tkNum b), (8, 4, tkEpoch b)]) := if_pos h

theorem examine_of_new (hep : tkEpoch b = (s.slot p).led.epoch.toNat) (hnum : (s.slot p).led.high.toNat < tkNum b) (htyp : tkType b ≠ 7)
    (hargs : badArgs b = false) (hlapse : lapsed s p = false) : examine s p b = acceptTicket s p b := by
  have hnum' : ¬ tkNum b ≤ (s.slot p).led.high.toNat := by omega
  simp [examine, hep, hnum', htyp, hargs, hlapse]

theorem examine_of_claim (hep : (s.slot p).led.epoch.toNat < tkEpoch b) (hnum : (s.slot p).led.high.toNat < tkNum b)
    (htyp : tkType b = 7) : examine s p b = claimTicket s p b := by
  have hep' : ¬ tkEpoch b < (s.slot p).led.epoch.toNat := by omega
  have hnum' : ¬ tkNum b ≤ (s.slot p).led.high.toNat := by omega
  simp [examine, hep, hep', hnum', htyp]

end

-- CLAIM (R377, R380)

/-- The state in which a CLAIM leaves a slot. -/
def claimedState (x : Slot) : PState :=
  if x.st = .parked then (match x.parkFrom with | .empty => .empty | .paused => .paused | _ => .idle) else x.st

/-- Slot x once a CLAIM has been carried out and before its answer. -/
def claimedSlot (x : Slot) (n now : Nat) (b : Bytes) : Slot :=
  { x with
    st := claimedState x, parking := false
    led := { x.led.accepted n b with
      epoch := BitVec.ofNat 32 (tkEpoch b), claimed := true, leaseAt := now
      live := decide (x.led.lease.toNat / 2 ^ 32 = tkEpoch b % 2 ^ 32) } }

/-- The CLAIM itself is queued, so a ticket of its number is found. -/
theorem findTicket_of_claimed {s : State} {p : Fin 8} {x : Slot} {n now : Nat} {b : Bytes} (h : s.slot p = claimedSlot x n now b) :
    ∃ j, findTicket s p (tkNum b) = some j ∧ j.num = tkNum b := by
  have hsome : (findTicket s p (tkNum b)).isSome = true := by
    rw [findTicket, h, List.find?_isSome]
    exact ⟨ticketOf n b, List.mem_append_right _ List.mem_cons_self, beq_self_eq_true _⟩
  obtain ⟨j, hj⟩ := Option.isSome_iff_exists.mp hsome
  have hnum := List.find?_some (p := fun t : Ticket => t.num == tkNum b) hj
  exact ⟨j, hj, eq_of_beq hnum⟩

/-- The state in which a CLAIM has been carried out and waits for its answer. -/
def claimCarried (s : State) (p : Fin 8) (b : Bytes) : State :=
  (acceptTicket s p b).setSlot p (claimedSlot (s.slot p) s.sched.accepted s.now b)

theorem claimTicket_eq (s : State) (p : Fin 8) (b : Bytes) : claimTicket s p b = answerClaim (claimCarried s p b) p (s.slot p).led.high.toNat
    (findTicket (claimCarried s p b) p (tkNum b)) := by
  have hown := (acceptTicket_becomes s p b).own
  have hnow : (acceptTicket s p b).now = s.now := (acceptTicket_storesOnly s p b).now
  simp only [claimTicket, hown, hnow]
  rfl

theorem claimTicket_becomes (s : State) (p : Fin 8) (b : Bytes) : ∃ j v, j.num = tkNum b ∧ SlotBecomes p
    (let x := claimedSlot (s.slot p) s.sched.accepted s.now b
     { x with led := x.led.answered j stDone 0 v }) s (claimTicket s p b) := by
  have hcarried : SlotBecomes p (claimedSlot (s.slot p) s.sched.accepted s.now b) s (claimCarried s p b) :=
    (acceptTicket_becomes s p b).trans (.setSlot ..)
  obtain ⟨j, hj, hnum⟩ := findTicket_of_claimed hcarried.own
  have hans := hcarried.trans (.answer (claimCarried s p b) p j stDone 0 (s.slot p).led.high.toNat)
  rw [hcarried.own] at hans
  rw [claimTicket_eq, hj]
  exact ⟨j, _, hnum, hans.andThen (syncHdr_slots ..)⟩

-- The lease word (R378)

theorem readLease_of_same {s : State} {p : Fin 8}
    (h : (s.slot p).led.lease = BitVec.ofNat 64 (leNat (devRead s ((s.slot p).led.addr + 24) 8))) : readLease s p = s := by
  simp only [readLease, ← h, if_true]

/-- Reading the lease word changes what is known of the lease alone. -/
theorem readLease_eq (s : State) (p : Fin 8) : ∃ w a v,
    readLease s p = setLed s p { (s.slot p).led with lease := w, leaseAt := a, live := v } := by
  unfold readLease
  extract_lets l w
  split
  · exact ⟨l.lease, l.leaseAt, l.live, (setSlot_self s p).symm⟩
  · split
    · exact ⟨_, _, _, rfl⟩
    · exact ⟨_, l.leaseAt, _, rfl⟩

/-- A sample that leaves LIVE as it was ends no lease. -/
theorem afterLease_of_live {before s : State} {p : Fin 8} (h : (s.slot p).led.live = (before.slot p).led.live) : afterLease before s p = s := by
  simp [afterLease, h]

/-- A CLAIM in the sample keeps the lease from lapsing (R377). -/
theorem afterLease_of_epoch {before s : State} {p : Fin 8} (h : (before.slot p).led.epoch ≠ (s.slot p).led.epoch) :
    afterLease before s p = s := by
  simp [afterLease, h]

-- Sampling (R367, R372)

theorem sampleLedger_of_off {s : State} {q : Fin 8} (h : (s.slot q).led.en = false) : sampleLedger s q = s := by
  simp [sampleLedger, h]

theorem foldl_sampleLedger_of_off {l : List (Fin 8)} {s : State} (h : ∀ q ∈ l, (s.slot q).led.en = false) : l.foldl sampleLedger s = s := by
  induction l with
  | nil => rfl
  | cons q r ih =>
    rw [List.foldl_cons, sampleLedger_of_off (h q List.mem_cons_self)]
    exact ih fun a ha => h a (List.mem_cons_of_mem _ ha)

/-- Where one ledger alone is registered, sampling all is sampling that one. -/
theorem sampleAll_of_single {s : State} {p : Fin 8} {x : Slot} (hserv : serving s = true) (hoff : ∀ q, q ≠ p → (s.slot q).led.en = false)
    (hx : SlotBecomes p x s (sampleLedger s p)) : sampleAll s = sampleLedger s p := by
  obtain ⟨l1, l2, hl⟩ := List.append_of_mem (List.mem_finRange p)
  have hnodup : (l1 ++ p :: l2).Nodup := hl ▸ List.nodup_finRange 8
  obtain ⟨-, hright, hapart⟩ := List.nodup_append.mp hnodup
  have h1 : ∀ q ∈ l1, q ≠ p := fun q hq => hapart q hq p List.mem_cons_self
  have h2 : ∀ q ∈ l2, q ≠ p := fun q hq h => (List.nodup_cons.mp hright).1 (h ▸ hq)
  rw [sampleAll, if_pos hserv, hl, List.foldl_append, List.foldl_cons, foldl_sampleLedger_of_off fun q hq => hoff q (h1 q hq)]
  exact foldl_sampleLedger_of_off fun q hq => by rw [hx.other q (h2 q hq)]; exact hoff q (h2 q hq)

section
variable {s : State} {p : Fin 8}

/-- The bytes of the ticket slot at HEAD. -/
def headTicket (s : State) (p : Fin 8) : Bytes := ticketSlot s p (s.slot p).led.head

/-- One whole ticket stands between HEAD and TAIL of a registered ledger with room for it, and the lease word is as it was. -/
structure OneTicket (s : State) (p : Fin 8) : Prop where
  en : (s.slot p).led.en = true
  tail : leNat (devRead s (s.slot p).led.addr 8) = (s.slot p).led.head + 1
  crc : fieldU (headTicket s p) 60 4 = crc32 ((headTicket s p).take 60)
  room : (s.slot p).led.queue.length < 4096
  lease : (s.slot p).led.lease = BitVec.ofNat 64 (leNat (devRead s ((s.slot p).led.addr + 24) 8))

theorem sampleLedger_of_oneTicket (h : OneTicket s p) :
    sampleLedger s p = syncHdr (afterLease s (examine (headNext s p) p (headTicket s p)) p) p := by
  obtain ⟨hen, htail, hcrc, hroom, hlease⟩ := h
  have hslots : sampleSlots p 1 s = examine (headNext s p) p (headTicket s p) := by
    have hroom' : ¬ 4096 ≤ (s.slot p).led.queue.length := by omega
    rw [sampleSlots, if_neg hroom']
    exact if_pos hcrc
  have hmore : ¬ (s.slot p).led.head + 1 ≤ (s.slot p).led.head := Nat.not_succ_le_self _
  have hone : (s.slot p).led.head + 1 - (s.slot p).led.head = 1 := Nat.add_sub_cancel_left ..
  have hkept : 1 - 4096 = 0 := rfl
  simp only [sampleLedger, hen, readLease_of_same hlease, htail, hmore, hone, hkept, hslots, Bool.not_true, Bool.false_eq_true, if_false,
    if_true]

/-- A sample of one ticket that leaves LIVE as it was makes the slot what the ticket's check makes it. -/
theorem sampleLedger_becomes {x : Slot} (h : OneTicket s p) (hx : SlotBecomes p x s (examine (headNext s p) p (headTicket s p)))
    (hlive : x.led.live = (s.slot p).led.live) : SlotBecomes p x s (sampleLedger s p) := by
  rw [sampleLedger_of_oneTicket h, afterLease_of_live (by rw [hx.own, hlive])]
  exact hx.andThen (syncHdr_slots ..)

/-- The ledger of slot p one ticket further. -/
def Ledger.next (l : Ledger) : Ledger := { l with head := l.head + 1, badReads := 0 }

theorem headNext_becomes (s : State) (p : Fin 8) : SlotBecomes p { s.slot p with led := (s.slot p).led.next } s (headNext s p) :=
  .setLed s p _

theorem examine_accepts (hep : tkEpoch (headTicket s p) = (s.slot p).led.epoch.toNat)
    (hnum : (s.slot p).led.high.toNat < tkNum (headTicket s p)) (htyp : tkType (headTicket s p) ≠ 7)
    (hargs : badArgs (headTicket s p) = false) (hlapse : lapsed s p = false) :
    SlotBecomes p { s.slot p with led := (s.slot p).led.next.accepted s.sched.accepted (headTicket s p) } s
      (examine (headNext s p) p (headTicket s p)) := by
  have hnext := headNext_becomes s p
  have hlapse' : lapsed (headNext s p) p = false := by
    rw [lapsed, hnext.own]
    exact hlapse
  have h := hnext.trans (acceptTicket_becomes (headNext s p) p (headTicket s p))
  rw [hnext.own] at h
  rw [examine_of_new (by rw [hnext.own]; exact hep) (by rw [hnext.own]; exact hnum) htyp hargs hlapse']
  exact h

theorem examine_rejects (hep : tkEpoch (headTicket s p) < (s.slot p).led.epoch.toNat) :
    SlotBecomes p { s.slot p with led := { (s.slot p).led.next with rejects := satInc (s.slot p).led.rejects } } s
      (examine (headNext s p) p (headTicket s p)) := by
  have hnext := headNext_becomes s p
  have h := hnext.trans (.setLed (headNext s p) p { ((headNext s p).slot p).led with rejects := satInc ((headNext s p).slot p).led.rejects })
  rw [hnext.own] at h
  rw [examine_of_old_epoch (by rw [hnext.own]; exact hep)]
  exact h.andThen (by rw [countReject, hnext.own]; exact logEv_slots ..)

/-- LEDGER_SAMPLE where one ledger alone is registered. -/
theorem exec_ledgerSample_of_single {t : Nat} {x : Slot} (hserv : serving s = true) (hoff : ∀ q, q ≠ p → (s.slot q).led.en = false)
    (hx : SlotBecomes p x (tick t s) (sampleLedger (tick t s) p)) : ∃ u, exec (.ledgerSample t) s = .next u ∧ SlotBecomes p x s u := by
  refine ⟨_, if_pos (serving_tick hserv t), ?_⟩
  rw [sampleAll_of_single (serving_tick hserv t) hoff hx]
  exact hx.andThen (fwTracePoint_slots ..)

theorem exec_ledgerSample_of_down {t : Nat} (h : serving (tick t s) = false) : exec (.ledgerSample t) s = .next (tick t s) :=
  if_neg (by simp [h])

theorem exec_claim_of_down {t : Nat} (h : serving (tick t s) = false) : exec (.claim t p) s = .next (tick t s) := by
  show execClaim t p s = _
  simp [execClaim, h]

/-- CLAIM where the ticket at HEAD is one (R377). -/
theorem exec_claim_of_head {t : Nat} (hserv : serving s = true) (hen : (s.slot p).led.en = true)
    (htail : (s.slot p).led.head < leNat (devRead s (s.slot p).led.addr 8)) (htyp : tkType (headTicket s p) = 7)
    (hcrc : fieldU (headTicket s p) 60 4 = crc32 ((headTicket s p).take 60)) : exec (.claim t p) s = .next
      (syncHdr (afterLease (tick t s) (examine (headNext (readLease (tick t s) p) p) p (headTicket (tick t s) p)) p) p) := by
  have hall : (serving (tick t s) && (s.slot p).led.en && decide ((s.slot p).led.head < leNat (devRead s (s.slot p).led.addr 8)) &&
      tkType (headTicket s p) == 7 && fieldU (headTicket s p) 60 4 == crc32 ((headTicket s p).take 60)) = true := by
    simp [serving_tick hserv, hen, htail, htyp, hcrc]
  exact if_pos hall

/-- A CLAIM of a newer epoch at HEAD is carried out and answered; the lease cannot lapse over it. -/
theorem claim_becomes (htyp : tkType (headTicket s p) = 7) (hep : (s.slot p).led.epoch.toNat < tkEpoch (headTicket s p))
    (hnum : (s.slot p).led.high.toNat < tkNum (headTicket s p)) : ∃ w a v j y, j.num = tkNum (headTicket s p) ∧ SlotBecomes p
      (let x := claimedSlot { s.slot p with led := { (s.slot p).led.next with lease := w, leaseAt := a, live := v } } s.sched.accepted s.now
        (headTicket s p)
       { x with led := x.led.answered j stDone 0 y }) s
      (syncHdr (afterLease s (examine (headNext (readLease s p) p) p (headTicket s p)) p) p) := by
  obtain ⟨w, a, v, hread⟩ := readLease_eq s p
  have hnext : headNext (readLease s p) p = setLed s p { (s.slot p).led.next with lease := w, leaseAt := a, live := v } := by
    rw [hread]
    simp only [headNext, setLed, slot_setSlot_same, setSlot_setSlot]
    rfl
  obtain ⟨j, y, hj, hclaim⟩ := claimTicket_becomes (headNext (readLease s p) p) p (headTicket s p)
  have hbecomes := (SlotBecomes.setLed s p _).trans (hnext ▸ hclaim)
  rw [slot_setLed_same] at hbecomes
  refine ⟨w, a, v, j, y, hj, ?_⟩
  have hexam : examine (headNext (readLease s p) p) p (headTicket s p) = claimTicket (headNext (readLease s p) p) p (headTicket s p) := by
    refine examine_of_claim ?_ ?_ htyp
    · rw [hnext, slot_setLed_same]
      exact hep
    · rw [hnext, slot_setLed_same]
      exact hnum
  have hepoch : (s.slot p).led.epoch ≠ BitVec.ofNat 32 (tkEpoch (headTicket s p)) := fun h => by
    have hlt : tkEpoch (headTicket s p) < 2 ^ 32 := fieldU_lt _ 8 4
    rw [h, BitVec.toNat_ofNat, Nat.mod_eq_of_lt hlt] at hep
    exact Nat.lt_irrefl _ hep
  rw [hexam, hnext, afterLease_of_epoch (by rw [hbecomes.own]; exact hepoch)]
  exact hbecomes.andThen (syncHdr_slots ..)

end

-- TKT_BASE (R366)

section
variable {t : Nat} {p : Fin 8} {s : State} {val : W64}

theorem exec_tktBase (t : Nat) (who : Requester) (p : Fin 8) (part : RegPart) (val : W64) (s : State) :
    exec (.tktBase t who p part val) s = .next (tktBaseWrite (tick t s) who p part val) := rfl

theorem tktBaseWrite_of_not_app {who : Requester} (h : ∀ n, who ≠ .app n) (s : State) (p : Fin 8) (part : RegPart) (val : W64) :
    tktBaseWrite s who p part val = s := by
  cases who with
  | app n => exact absurd rfl (h n)
  | _ => rfl

theorem tktBaseWrite_of_claimed (hclaimed : (s.slot p).led.claimed = true) (hlapse : lapsed s p = false) (h : Fin 16) (val : W64) :
    (tktBaseWrite s (.app h) p .whole val).slots = s.slots := by
  simp only [tktBaseWrite, halfWrite_whole, Bool.not_true, Bool.false_eq_true, if_false]
  show State.slots (if ((s.slot p).led.claimed && !lapsed s p || _) = true then _ else _) = _
  rw [hclaimed, hlapse]
  rfl

/-- A base without EN moves a ledger that is not claimed, and registers none. -/
theorem tktBaseWrite_of_unclaimed (hclaimed : (s.slot p).led.claimed = false) (hen : val.getLsbD 63 = false) (h : Fin 16) :
    SlotBecomes p { s.slot p with led := { (s.slot p).led with base := val &&& 0x8000FFFFFFFFF000, badReads := 0 } } s
      (tktBaseWrite s (.app h) p .whole val) := by
  have hbit : (val &&& 0x8000FFFFFFFFF000).getLsbD 63 = false := by rw [BitVec.getLsbD_and, hen, Bool.false_and]
  simp only [tktBaseWrite, halfWrite_whole, hclaimed, hbit, Bool.not_true, Bool.false_and, Bool.false_or, Bool.false_eq_true, if_false]
  rfl

end

-- The lapse of a lease (R378, R379)

section
variable {t : Nat} {p : Fin 8} {s : State}

theorem exec_leaseLapsed_of_due (hserv : serving s = true) (hen : (s.slot p).led.en = true) (hclaimed : (s.slot p).led.claimed = true)
    (hlapse : lapsed s p = false) (hdue : (s.slot p).led.leaseAt + 200000000 ≤ max s.now t) :
    exec (.leaseLapsed t p) s = .next (lapse (tick t s) p) := by
  have hlapse' : lapsed (tick t s) p = false := hlapse
  show execLeaseLapsed t p s = _
  simp [execLeaseLapsed, serving_tick hserv, hen, hclaimed, hlapse', elapsed, hdue]

theorem exec_leaseLapsed_of_not_due (h : (s.slot p).led.claimed = false ∨ max s.now t < (s.slot p).led.leaseAt + 200000000) :
    exec (.leaseLapsed t p) s = .next (tick t s) := by
  show execLeaseLapsed t p s = _
  rcases h with h | h
  · simp [execLeaseLapsed, h]
  · have hdue : elapsed (max s.now t) (s.slot p).led.leaseAt 200000000 = false := decide_eq_false (by omega)
    simp [execLeaseLapsed, hdue]

/-- Slot x with a lease that has lapsed. -/
def lapsedSlot (x : Slot) : Slot := { x with led := { x.led with live := false } }

/-- The state in which the lapse of slot p's lease has been noted and logged. -/
def lapseNoted (s : State) (p : Fin 8) : State :=
  logSch (setLed s p { (s.slot p).led with live := false }) 0x7006 p.val (payload [(0, 1, p.val), (4, 4, (s.slot p).led.epoch.toNat)])

theorem lapseNoted_becomes (s : State) (p : Fin 8) : SlotBecomes p (lapsedSlot (s.slot p)) s (lapseNoted s p) :=
  (SlotBecomes.setLed s p _).andThen (logEv_slots ..)

/-- Whether parking waits for a boundary (R379, R393): a step or a recovery is in progress. -/
def inProgress (x : Slot) : Bool :=
  x.st == .recovering || (x.st == .running && (match x.run with | some r => r.stage == .inStep | none => false))

theorem lapse_eq (s : State) (p : Fin 8) : lapse s p =
    if inProgress (s.slot p) then (lapseNoted s p).setSlot p { (lapseNoted s p).slot p with parking := true }
    else park (lapseNoted s p) p := rfl

/-- A recovery goes on to its boundary before the partition parks (R393). -/
theorem lapse_of_recovering (h : (s.slot p).st = .recovering) :
    SlotBecomes p { lapsedSlot (s.slot p) with parking := true } s (lapse s p) := by
  have hnoted := lapseNoted_becomes s p
  rw [lapse_eq, if_pos (by simp [inProgress, h]), hnoted.own]
  exact hnoted.trans (.setSlot ..)

theorem lapse_of_rest (h : (s.slot p).st = .idle ∨ (s.slot p).st = .empty) : lapse s p = park (lapseNoted s p) p := by
  rw [lapse_eq]
  refine if_neg ?_
  rcases h with h | h <;> simp [inProgress, h]

-- Parking (R379)

/-- A ticket that parking leaves unanswered: a LOAD or a SELFTEST that is executing. -/
def outlastsParking (x : Slot) (k : Ticket) : Bool :=
  k.begun && (k.typ == 9 || (k.typ == 6 && !x.kat.any (fun w => w.ticket == some k.num && !w.ready)))

/-- The answers that parking gives. -/
def answerLapsed (keep : Ticket → Bool) (p : Fin 8) (u : State) (k : Ticket) : State :=
  if keep k then u else answer u p k stLapsed 0 (idleValue u p k.typ)

/-- Answering tickets LAPSED leaves queued those of other numbers alone, and LIVE as it was. -/
theorem foldl_answerLapsed (keep : Ticket → Bool) (p : Fin 8) (ks : List Ticket) (s : State) : ∃ l,
    SlotBecomes p { s.slot p with led := l } s (ks.foldl (answerLapsed keep p) s) ∧ l.live = (s.slot p).led.live ∧
      ∀ x ∈ l.queue, x ∈ (s.slot p).led.queue ∧ ∀ k ∈ ks, keep k = false → x.num ≠ k.num := by
  induction ks generalizing s with
  | nil => exact ⟨_, congrArg State.slots (setSlot_self s p).symm, rfl, fun x hx => ⟨hx, fun k hk => absurd hk List.not_mem_nil⟩⟩
  | cons k r ih =>
    rw [List.foldl_cons]
    cases hkeep : keep k with
    | true =>
      obtain ⟨l, h, hlive, hq⟩ := ih s
      refine ⟨l, by rw [answerLapsed, if_pos hkeep]; exact h, hlive, fun x hx => ⟨(hq x hx).1, fun y hy hyk => ?_⟩⟩
      rcases List.mem_cons.mp hy with rfl | hr
      · rw [hkeep] at hyk
        exact absurd hyk (by decide)
      · exact (hq x hx).2 y hr hyk
    | false =>
      have hans := SlotBecomes.answer s p k stLapsed 0 (idleValue s p k.typ)
      obtain ⟨l, h, hlive, hq⟩ := ih (answer s p k stLapsed 0 (idleValue s p k.typ))
      rw [hans.own] at h hlive hq
      refine ⟨l, by rw [answerLapsed, if_neg (by simp [hkeep])]; exact hans.trans h, hlive, fun x hx => ?_⟩
      obtain ⟨hmem, hothers⟩ := hq x hx
      obtain ⟨hold, hnum⟩ := List.mem_filter.mp hmem
      refine ⟨hold, fun y hy hyk => ?_⟩
      rcases List.mem_cons.mp hy with rfl | hr
      · simpa using hnum
      · exact hothers y hr hyk

/-- What parking makes of a slot that is not PAUSED: it is PARKED without a run, and holds the tickets alone that outlast it. -/
structure ParkedFrom (x y : Slot) : Prop where
  st : y.st = .parked
  parkFrom : y.parkFrom = x.st
  parking : y.parking = false
  run : y.run = none
  live : y.led.live = x.led.live
  queue : ∀ k ∈ y.led.queue, outlastsParking x k = true

/-- Slot y, whose tickets have been answered, once it has parked from x. -/
def parkedSlot (x y : Slot) : Slot :=
  { y with
    parkFrom := x.st, parking := false, pauseNum := none, run := if x.st = .paused then y.run else none
    kat := y.kat.filter (fun w => w.ready || w.ticket.isNone), obs := { y.obs with dump := none } }

/-- The state in which parking has answered the tickets of slot p. -/
def parkAnswered (s : State) (p : Fin 8) : State := (s.slot p).led.queue.foldl (answerLapsed (outlastsParking (s.slot p)) p) s

theorem park_eq (s : State) (p : Fin 8) : park s p =
    (let u := setPState ((parkAnswered s p).setSlot p (parkedSlot (s.slot p) ((parkAnswered s p).slot p))) p .parked
     sendTwin u (twinPorts u p) (twinData 4 p [] [])) := rfl

theorem park_becomes (h : (s.slot p).st ≠ .paused) : ∃ y, SlotBecomes p y s (park s p) ∧ ParkedFrom (s.slot p) y := by
  obtain ⟨l, hans, hlive, hq⟩ := foldl_answerLapsed (outlastsParking (s.slot p)) p (s.slot p).led.queue s
  have hown : (parkAnswered s p).slot p = { s.slot p with led := l } := hans.own
  have hparked := (hans.trans (.setSlot (parkAnswered s p) p (parkedSlot (s.slot p) ((parkAnswered s p).slot p)))).trans (.setPState _ p .parked)
  rw [slot_setSlot_same, hown] at hparked
  refine ⟨_, by rw [park_eq, hown]; exact hparked.andThen (sendTwin_slots ..), rfl, rfl, rfl, if_neg h, hlive, fun k hk => ?_⟩
  obtain ⟨hmem, hothers⟩ := hq k hk
  cases hkeep : outlastsParking (s.slot p) k with
  | true => rfl
  | false => exact absurd rfl (hothers k hmem hkeep)

/-- A lease that lapses on an EMPTY or IDLE partition parks it at once (R379). -/
theorem lapse_parks (h : (s.slot p).st = .idle ∨ (s.slot p).st = .empty) : ∃ y, SlotBecomes p y s (lapse s p) ∧
    ParkedFrom (lapsedSlot (s.slot p)) y := by
  have hnoted := lapseNoted_becomes s p
  have hst : ((lapseNoted s p).slot p).st ≠ .paused := by
    rw [hnoted.own]
    rcases h with h | h <;> simp [lapsedSlot, h]
  obtain ⟨y, hy, hpark⟩ := park_becomes hst
  rw [hnoted.own] at hpark
  rw [lapse_of_rest h]
  exact ⟨y, hnoted.trans hy, hpark⟩

end

/-- Settles O37: the ticket at HEAD of the one registered ledger is accepted or rejected (examine_accepts, examine_rejects), a CLAIM there is
carried out (claim_becomes), and a lapse waits for a recovery or parks (lapse_of_recovering, lapse_parks). -/
theorem ledgersAndLeases : Obligations.LedgersAndLeases := by
  unfold Obligations.LedgersAndLeases
  intro t p s
  refine ⟨fun hserv hoff hen htail hcrc hroom hlease => ?_, fun h => ⟨exec_ledgerSample_of_down h, exec_claim_of_down h⟩,
    fun hserv hen htail htyp hcrc hep hnum => ?_, fun who val hwho part => ?_, fun h val => ⟨fun hclaimed hlapse => ?_, fun hclaimed hbit => ?_⟩,
    fun hserv hen hclaimed hlapse hdue => ⟨fun hst => ?_, fun hst => ?_⟩, exec_leaseLapsed_of_not_due⟩
  · have hone : OneTicket (tick t s) p := ⟨hen, htail, hcrc, hroom, hlease⟩
    refine ⟨fun hep hnum htyp hargs hlapse => ?_, fun hep => ?_⟩
    · obtain ⟨u, hexec, hu⟩ := exec_ledgerSample_of_single hserv hoff
        (sampleLedger_becomes hone (examine_accepts (s := tick t s) hep hnum htyp hargs hlapse) rfl)
      exact ⟨u, hexec, hu.other, hu.own⟩
    · obtain ⟨u, hexec, hu⟩ := exec_ledgerSample_of_single hserv hoff
        (sampleLedger_becomes hone (examine_rejects (s := tick t s) hep) rfl)
      exact ⟨u, hexec, hu.other, hu.own⟩
  · obtain ⟨w, a, v, j, y, hj, h⟩ := claim_becomes (s := tick t s) htyp hep hnum
    refine ⟨_, exec_claim_of_head hserv hen htail htyp hcrc, h.other, ?_⟩
    rw [h.own]
    refine ⟨rfl, rfl, rfl, rfl, rfl, rfl, rfl, rfl, ?_, rfl⟩
    rw [List.all_eq_true]
    intro x hx
    have hnum' := (List.mem_filter.mp hx).2
    rwa [hj] at hnum'
  · rw [exec_tktBase, tktBaseWrite_of_not_app hwho]
  · exact ⟨_, exec_tktBase .., tktBaseWrite_of_claimed (s := tick t s) hclaimed hlapse h val⟩
  · have hbase := tktBaseWrite_of_unclaimed (s := tick t s) hclaimed hbit h
    exact ⟨_, exec_tktBase .., hbase.own, hbase.other⟩
  · have h := lapse_of_recovering (s := tick t s) hst
    exact ⟨_, exec_leaseLapsed_of_due hserv hen hclaimed hlapse hdue, h.own, h.other⟩
  · obtain ⟨y, h, hpark⟩ := lapse_parks (s := tick t s) hst
    refine ⟨_, exec_leaseLapsed_of_due hserv hen hclaimed hlapse hdue, ?_⟩
    rw [h.own]
    refine ⟨hpark.st, hpark.parkFrom, hpark.parking, hpark.run, hpark.live, ?_, h.other⟩
    rw [List.all_eq_true]
    intro k hk
    have hkeep := hpark.queue k hk
    simp only [outlastsParking, Bool.and_eq_true, Bool.or_eq_true] at hkeep ⊢
    exact ⟨hkeep.1, hkeep.2.elim .inr fun h6 => .inl h6.1⟩

end Sys2Proof.Machine
end

section
/-! PROOFS. Management requests (R381 to R384, R388, R391, R507): when one is served, what a reply writes, and what each new request does. -/

namespace Sys2Proof.Machine

-- Serving a request (R381, R383)

/-- The package serves requests, and this one's session is live and the owner's. -/
structure Served (s : State) (r : MgmtReq) : Prop where
  alive : s.sched.failed = false
  sampling : s.sched.sampling = true
  session : ownerSession s r.session = true

/-- A request of a number above every earlier one of its session. -/
structure NewRequest (s : State) (r : MgmtReq) : Prop extends Served s r where
  above : ∀ h, alGet s.sched.highest r.session = some h → h < r.reqId

/-- The cached reply to a request. -/
def cachedReply (s : State) (r : MgmtReq) : Option MReply :=
  s.sched.cache.find? (fun x => x.session == r.session && x.reqId == r.reqId)

/-- The state with a request noted as its session's highest. -/
def noted (s : State) (r : MgmtReq) : State :=
  { s with sched := { s.sched with highest := alPut s.sched.highest r.session (some r.reqId) } }

section
variable {s : State} {r : MgmtReq} {op : Nat} {f : State → State}

theorem mgmtServe_of_unserved (h : s.sched.failed = true ∨ s.sched.sampling = false ∨ ownerSession s r.session = false) :
    mgmtServe s r op f = s := by
  rcases h with h | h | h <;> simp [mgmtServe, h]

/-- A repeated request is answered from the cache, or as STALE. -/
theorem mgmtServe_of_repeated (hs : Served s r) {h : Nat} (hhigh : alGet s.sched.highest r.session = some h) (hrep : r.reqId ≤ h) :
    mgmtServe s r op f = match cachedReply s r with
      | some x => mgmtSend s r x.bytes
      | none => mgmtSend (logSch s 0x7030 15 (payload [])) r (mgmtBytes r.reqId op 9 0 []) := by
  obtain ⟨halive, hsampling, hsession⟩ := hs
  simp only [mgmtServe, halive, hsampling, hsession, hhigh, hrep, Bool.not_true, Bool.or_self, Bool.false_eq_true, if_false, decide_true, if_true]
  rfl

theorem mgmtServe_of_new (hn : NewRequest s r) : mgmtServe s r op f = f (noted s r) := by
  obtain ⟨⟨halive, hsampling, hsession⟩, habove⟩ := hn
  unfold mgmtServe
  rw [if_neg (by simp [halive, hsampling, hsession])]
  refine if_neg ?_
  cases hhigh : alGet s.sched.highest r.session with
  | none => exact Bool.false_ne_true
  | some h => simpa using habove h hhigh

theorem Served.tick (hs : Served s r) (t : Nat) : Served (tick t s) r := ⟨hs.alive, hs.sampling, hs.session⟩

theorem NewRequest.tick (hn : NewRequest s r) (t : Nat) : NewRequest (tick t s) r := ⟨hn.toServed.tick t, hn.above⟩

end

-- The requests (R382, R384, R388, R391, R507)

/-- The ten management requests that O40 speaks of. -/
def mgmtRequests (t : Nat) (r : MgmtReq) (a b c : Nat) (m : BitVec 256) (w : W64) (f : Bool) (v : SigVerdict) (d : Bytes) : List Instr :=
  [.status t r, .logRead t r a b, .traceSet t r a m, .mgmtSelftest t r a b c w f 0, .fwBegin t r a, .fwData t r a d, .fwCommit t r v,
    .fwAbort t r, .procRestart t r a f, .cntRead t r a b c]

/-- Each of the ten requests is served by mgmtServe. -/
theorem exec_eq_mgmtServe {t : Nat} {r : MgmtReq} {a b c : Nat} {m : BitVec 256} {w : W64} {f : Bool} {v : SigVerdict} {d : Bytes} {i : Instr}
    (hi : i ∈ mgmtRequests t r a b c m w f v d) (s : State) :
    ∃ op g, exec i s = .next (mgmtServe (tick t s) r op g) := by
  simp only [mgmtRequests, List.mem_cons, List.not_mem_nil, or_false] at hi
  rcases hi with rfl | rfl | rfl | rfl | rfl | rfl | rfl | rfl | rfl | rfl <;> exact ⟨_, _, rfl⟩

section
variable {t : Nat} {r : MgmtReq} {s : State} (hn : NewRequest s r)
include hn

theorem exec_status_of_new : exec (.status t r) s =
    .next (mgmtAnswer (noted (tick t s) r) r 0x0001 stDone 0 (statusData (noted (tick t s) r))) :=
  congrArg Host.Outcome.next (mgmtServe_of_new (hn.tick t))

theorem exec_logRead_of_new {a b : Nat} (h1 : 1 ≤ b) (h40 : b ≤ 40) : exec (.logRead t r a b) s =
    .next (mgmtAnswer (noted (tick t s) r) r 0x0002 stDone 0 (logFrom (noted (tick t s) r) a b)) :=
  congrArg Host.Outcome.next ((mgmtServe_of_new (hn.tick t)).trans (if_neg (by omega)))

/-- TRACE_SET on a processor that has a mask. -/
theorem exec_traceSet_of_mask {a : Nat} {m : BitVec 256} {u : State} (h : setMask (noted (tick t s) r) a m = some u) :
    exec (.traceSet t r a m) s = .next (mgmtAnswer u r 0x0003 stDone 0 []) := by
  refine congrArg Host.Outcome.next ((mgmtServe_of_new (hn.tick t)).trans ?_)
  simp only [h]

theorem exec_cntRead_of_new {a b c : Nat} (ha : a ≤ 8) (hc : 1 ≤ c) (hbc : b + c ≤ 96) : exec (.cntRead t r a b c) s =
    .next (mgmtAnswer (noted (tick t s) r) r 0x0030 stDone 0
      ((((if h : a < 8 then (s.slot ⟨a, h⟩).obs.live else s.gbank).toList.drop b).take c).flatMap (fun x => natLe 8 x.toNat))) :=
  congrArg Host.Outcome.next ((mgmtServe_of_new (hn.tick t)).trans (if_neg (by omega)))

/-- SELFTEST with a time limit in range is a MEM_SCRUB where it asks for test 2 on a controller group. -/
theorem exec_mgmtSelftest_scrub {c : Nat} {w : W64} {f : Bool} (g : Fin 8) (h1 : 1 ≤ c) (h2 : c ≤ 65535) :
    exec (.mgmtSelftest t r 2 g.val c w f 0) s = .next (scrubTest (noted (tick t s) r) g 0 none (some r) 0) := by
  refine congrArg Host.Outcome.next ((mgmtServe_of_new (hn.tick t)).trans ?_)
  rw [if_neg (by omega)]
  exact dif_pos g.isLt

/-- A test that a management request asks for on a cluster, and that is to wait. -/
def requestedTest (r : MgmtReq) (b : Nat) (e : Fin 64) (deadline : Nat) (f : Bool) : KatWait :=
  { ticket := none, mgmt := some r, target := b, cluster := e, deadline := deadline, allow := f, token := none, ready := false }

/-- Test 1 on a cluster of a RUNNING partition waits for its window (R392). -/
theorem exec_mgmtSelftest_defer {b c : Nat} {w : W64} {f : Bool} {p : Fin 8} {l : Nat} (h1 : 1 ≤ c) (h2 : c ≤ 65535) (hb : b < 64)
    (hclaim : claimOf s ⟨b, hb⟩ = some (p, l)) (hst : (s.slot p).st = .running) : exec (.mgmtSelftest t r 1 b c w f 0) s =
      .next (deferKat (noted (tick t s) r) p (requestedTest r b ⟨b, hb⟩ (max s.now t + c * 1000000) f) 1 w.toNat) := by
  have hclaim' : claimOf (noted (tick t s) r) ⟨b, hb⟩ = some (p, l) := hclaim
  have hst' : ((noted (tick t s) r).slot p).st = .running := hst
  refine congrArg Host.Outcome.next ((mgmtServe_of_new (hn.tick t)).trans ?_)
  rw [if_neg (by omega)]
  simp only [hb, dif_pos, hclaim', hst', true_or, if_true]
  rfl

theorem exec_fwBegin_of_new {a : Nat} (hfree : s.sched.fwTotal = none) (ha : a ≤ 0x400000) : exec (.fwBegin t r a) s =
    .next (mgmtAnswer { clearStage (noted (tick t s) r) with
      sched := { (noted (tick t s) r).sched with fwTotal := some a, fwCommit := false } } r 0x0010 stDone 0 []) := by
  have hno : ¬ ((noted (tick t s) r).sched.fwTotal.isSome = true ∨ stageLen < a) := by
    have hsome : (noted (tick t s) r).sched.fwTotal.isSome = false := by
      show s.sched.fwTotal.isSome = false
      rw [hfree]
      rfl
    simp only [hsome, stageLen, Bool.false_eq_true, false_or]
    omega
  exact congrArg Host.Outcome.next ((mgmtServe_of_new (hn.tick t)).trans (if_neg hno))

section
variable {n : Nat} (htotal : s.sched.fwTotal = some n) (hcommit : s.sched.fwCommit = false)
include htotal hcommit

theorem exec_fwData_of_new {a : Nat} {d : Bytes} (hlen : d.length ≤ 1024) (hfit : a + d.length ≤ n) : exec (.fwData t r a d) s =
    .next (mgmtAnswer { noted (tick t s) r with ctl := s.ctl.write 32 (0x400000 + a) d false } r 0x0011 stDone 0 []) := by
  have htotal' : (noted (tick t s) r).sched.fwTotal = some n := htotal
  have hcommit' : (noted (tick t s) r).sched.fwCommit = false := hcommit
  have hno : ¬ (1024 < d.length ∨ n < a + d.length) := by omega
  refine congrArg Host.Outcome.next ((mgmtServe_of_new (hn.tick t)).trans ?_)
  simp only [htotal', hcommit', hno, Bool.false_eq_true, if_false]
  rfl

/-- The state in which a bundle that fails its check has been dropped (R388). -/
def bundleDropped (s : State) : State :=
  let u := clearStage (logSch s 0x7014 15 (payload []))
  { u with sched := { u.sched with fwTotal := none } }

theorem exec_fwCommit_of_new (v : SigVerdict) : exec (.fwCommit t r v) s =
    .next (if bundleCheck (staged s n) v (fwFloor s) = 0 then
      mgmtAnswer (commitBundle (noted (tick t s) r) (staged s n)) r 0x0012 stDone 0 []
    else mgmtAnswer (bundleDropped (noted (tick t s) r)) r 0x0012 stFailed (0x0600 + bundleCheck (staged s n) v (fwFloor s)) []) := by
  have htotal' : (noted (tick t s) r).sched.fwTotal = some n := htotal
  have hcommit' : (noted (tick t s) r).sched.fwCommit = false := hcommit
  refine congrArg Host.Outcome.next ((mgmtServe_of_new (hn.tick t)).trans ?_)
  simp only [htotal', hcommit', Bool.false_eq_true, if_false]
  rfl

theorem exec_fwCommit_of_accepted {v : SigVerdict} (hok : bundleCheck (staged s n) v (fwFloor s) = 0) : exec (.fwCommit t r v) s =
    .next (mgmtAnswer (commitBundle (noted (tick t s) r) (staged s n)) r 0x0012 stDone 0 []) := by
  rw [exec_fwCommit_of_new hn htotal hcommit, if_pos hok]

theorem exec_fwAbort_of_new : exec (.fwAbort t r) s =
    .next (mgmtAnswer { clearStage (noted (tick t s) r) with
      sched := { (noted (tick t s) r).sched with fwTotal := none } } r 0x0013 stDone 0 []) := by
  have hno : ¬ ((noted (tick t s) r).sched.fwTotal.isNone = true ∨ (noted (tick t s) r).sched.fwCommit = true) := by
    show ¬ (s.sched.fwTotal.isNone = true ∨ s.sched.fwCommit = true)
    simp [htotal, hcommit]
  exact congrArg Host.Outcome.next ((mgmtServe_of_new (hn.tick t)).trans (if_neg hno))

end

theorem exec_procRestart_of_cluster {f : Bool} (e : Fin 64) : exec (.procRestart t r (0x0780 + e.val) f) s =
    .next (mgmtAnswer (coreWatchdog (noted (tick t s) r) e f) r 0x0020 stDone 0 []) := by
  have hne : ¬ 0x0780 + e.val = 0x0702 := by omega
  have hrange : 0x0780 ≤ 0x0780 + e.val ∧ 0x0780 + e.val < 0x07C0 := by omega
  have he : (⟨0x0780 + e.val - 0x0780, by omega⟩ : Fin 64) = e := Fin.ext (Nat.add_sub_cancel_left ..)
  refine congrArg Host.Outcome.next ((mgmtServe_of_new (hn.tick t)).trans ?_)
  rw [if_neg hne, dif_pos hrange, he]

theorem exec_procRestart_of_scheduler {f : Bool} (h : (restartSched (noted (tick t s) r) f).sched.failed = false) :
    exec (.procRestart t r 0x0702 f) s = .next (mgmtAnswer (restartSched (noted (tick t s) r) f) r 0x0020 stDone 0 []) := by
  refine congrArg Host.Outcome.next ((mgmtServe_of_new (hn.tick t)).trans ?_)
  rw [if_pos rfl]
  exact if_neg (by simp [h])

end

-- Masks (R384, R387)

theorem setMask_of_package (s : State) (k : Fin 3) (m : BitVec 256) : setMask s (0x0700 + k.val) m =
    some { s with sched := { s.sched with masks := vset s.sched.masks k m } } := by
  have hrange : 0x0700 ≤ 0x0700 + k.val ∧ 0x0700 + k.val < 0x0703 := by omega
  have hk : (⟨0x0700 + k.val - 0x0700, by omega⟩ : Fin 3) = k := Fin.ext (Nat.add_sub_cancel_left ..)
  rw [setMask, dif_pos hrange, hk]

theorem setMask_of_cluster {s : State} {e : Fin 64} (hon : clOn s e = true) (m : BitVec 256) : setMask s (0x0780 + e.val) m =
    some (s.setCl e { s.cl e with core := { (s.cl e).core with mask := m } }) := by
  have hno : ¬ (0x0700 ≤ 0x0780 + e.val ∧ 0x0780 + e.val < 0x0703) := by omega
  have hrange : 0x0780 ≤ 0x0780 + e.val ∧ 0x0780 + e.val < 0x07C0 := by omega
  have he : (⟨0x0780 + e.val - 0x0780, by omega⟩ : Fin 64) = e := Fin.ext (Nat.add_sub_cancel_left ..)
  simp only [setMask, dif_neg hno, dif_pos hrange, he, hon, if_true]

-- Self-tests (R391, R392)

section
variable {s : State} {g : Fin 8} {r : MgmtReq}

theorem scrubTest_of_trained (hon : mgOn s g = true) (ht : (s.mg g).trained = true) (p : Fin 8) (k : Option Nat) (res : Nat) :
    scrubTest s g p k (some r) res = s.setMg g { s.mg g with
      tests := (s.mg g).tests ++ [{ slot := p, ticket := k, mgmt := some r, result := res, left := passGranules }] } :=
  if_pos (by rw [hon, ht]; rfl)

theorem scrubTest_of_off (hoff : mgOn s g = false) (p : Fin 8) : scrubTest s g p none (some r) 0 =
    mgmtAnswer s r 0x0004 stDone 0 (natLe 8 0) := if_neg (by rw [hoff]; exact Bool.false_ne_true)

end

theorem deferKat_becomes (s : State) (p : Fin 8) (k : KatWait) (test token : Nat) : SlotBecomes p { s.slot p with
    kat := (s.slot p).kat ++ [{ k with token := tokenWindow token test k.target (stepNow s p) }] } s (deferKat s p k test token) := by
  unfold deferKat
  generalize tokenWindow token test k.target (stepNow s p) = win
  cases win with
  | none => exact .setSlot ..
  | some x =>
    have hlog : (logSch s 0x7020 p.val (payload [])).slots = s.slots := logEv_slots ..
    show SlotBecomes p _ s ((logSch s 0x7020 p.val (payload [])).setSlot p _)
    rw [slot_congr hlog]
    exact .after hlog (.setSlot ..)

-- A reply (R376, R383)

/-- The state with a reply cached: the 1,024 most recent stay. -/
def replyCached (s : State) (e : MReply) : State :=
  { s with sched := { s.sched with cache := (e :: s.sched.cache).take 1024, replies := s.sched.replies + 1 } }

/-- A reply is cached, stored in its entry of the firmware reserve, and sent. -/
theorem mgmtAnswer_eq (s : State) (r : MgmtReq) (op status detail : Nat) (data : Bytes) : mgmtAnswer s r op status detail data =
    mgmtSend (devWrite (replyCached s { session := r.session, reqId := r.reqId, bytes := mgmtBytes r.reqId op status detail data })
      (reserveBase s + 0x200000 + 1536 * (s.sched.replies % 1024)) (sliceB (mgmtBytes r.reqId op status detail data) 0 1536) false) r
      (mgmtBytes r.reqId op status detail data) := rfl

section
variable (s : State) (r : MgmtReq) (op status detail : Nat) (data : Bytes)

theorem mgmtAnswer_fwTotal : (mgmtAnswer s r op status detail data).sched.fwTotal = s.sched.fwTotal := by
  obtain ⟨_, _, h⟩ := devCommit_eq (replyCached s { session := r.session, reqId := r.reqId, bytes := mgmtBytes r.reqId op status detail data })
    (wbytes (reserveBase s + 0x200000 + 1536 * (s.sched.replies % 1024)) (sliceB (mgmtBytes r.reqId op status detail data) 0 1536) false)
  rw [mgmtAnswer_eq, devWrite, h]
  rfl

theorem mgmtAnswer_out : (mgmtAnswer s r op status detail data).out = s.out ++
    [{ kind := .mgmt, dest := r.session * 2 ^ 48 + r.addr.toNat * 2 ^ 16 + r.port.toNat
       data := mgmtBytes r.reqId op status detail data }] := by
  rw [mgmtAnswer_eq, mgmtSend, emit_out, (StoresOnly.devWrite ..).out]
  rfl

theorem mgmtAnswer_slots : (mgmtAnswer s r op status detail data).slots = s.slots := by
  rw [mgmtAnswer_eq, mgmtSend, emit_slots, (StoresOnly.devWrite ..).slots]
  rfl

theorem mgmtAnswer_sec : (mgmtAnswer s r op status detail data).sec = s.sec := by
  rw [mgmtAnswer_eq, mgmtSend, emit_sec, (StoresOnly.devWrite ..).sec]
  rfl

end

/-- The state after the writes to main memory and to the clusters' stores. -/
def clusterWrites (s : State) (ws : List WByte) : State :=
  (ws.filterMap (fun w => locCl (locOf w.addr))).eraseDups.foldl
    (fun (t : State) c => if clOn t c then t.setCl c (clCommit (t.cl c) c ws) else t)
    { s with mem := s.mem.commit (ws.filter (fun w => decide (w.addr < dramEnd))) }

/-- Main memory, the clusters' stores and the power are the same in both states. -/
structure SameStores (s u : State) : Prop where
  mem : u.mem = s.mem
  clusters : u.clusters = s.clusters
  pwr : u.pwr = s.pwr

namespace SameStores

variable {s u : State}

theorem cl (h : SameStores s u) (c : Fin 64) : u.cl c = s.cl c := congrArg (·.get c) h.clusters

theorem clOn (h : SameStores s u) (c : Fin 64) : clOn u c = clOn s c := congrArg (fun x : Pwr => x.on.getLsbD c.val) h.pwr

theorem trans {t : State} (h1 : SameStores s t) (h2 : SameStores t u) : SameStores s u :=
  ⟨h2.mem.trans h1.mem, h2.clusters.trans h1.clusters, h2.pwr.trans h1.pwr⟩

theorem symm (h : SameStores s u) : SameStores u s := ⟨h.mem.symm, h.clusters.symm, h.pwr.symm⟩

/-- The writes that are left go to the spine pools and to the control SRAM. -/
theorem of_clusterWrites (s : State) (ws : List WByte) : SameStores (Machine.clusterWrites s ws) (devCommit s ws) := by
  unfold devCommit
  extract_lets d cs sp ct s1 s2 s3
  have hspines : SameStores s2 s3 := foldl_keeps (P := SameStores s2) ⟨rfl, rfl, rfl⟩ (fun x i hx => by
    split
    · exact ⟨hx.mem, hx.clusters, hx.pwr⟩
    · exact hx)
  exact ⟨hspines.mem, hspines.clusters, hspines.pwr⟩

theorem clusterWrites (h : SameStores s u) (ws : List WByte) : SameStores (Machine.clusterWrites s ws) (Machine.clusterWrites u ws) := by
  refine List.foldl_rel (r := SameStores) ⟨by rw [h.mem], h.clusters, h.pwr⟩ (fun c _ x y hxy => ?_)
  rw [hxy.clOn c, hxy.cl c]
  split
  · exact ⟨hxy.mem, congrArg (vset · c _) hxy.clusters, hxy.pwr⟩
  · exact hxy

/-- A write keeps two such states alike: what it stores there depends on nothing else. -/
theorem devWrite (h : SameStores s u) (a : Nat) (b : Bytes) (poi : Bool) : SameStores (devWrite s a b poi) (devWrite u a b poi) :=
  ((of_clusterWrites s _).symm.trans (h.clusterWrites (wbytes a b poi))).trans (of_clusterWrites u _)

theorem reserveBase_eq (h : SameStores s u) : reserveBase u = reserveBase s := by
  have hsize : hostSize u = hostSize s := by
    unfold hostSize hostOwner
    rw [h.mem]
  unfold reserveBase
  rw [hsize]

theorem mgmtSend (h : SameStores s u) (r : MgmtReq) (b : Bytes) : SameStores (mgmtSend s r b) (mgmtSend u r b) :=
  ⟨h.mem, h.clusters, h.pwr⟩

/-- Replies of the same number keep two such states alike. -/
theorem mgmtAnswer (h : SameStores s u) (hn : u.sched.replies = s.sched.replies) (r : MgmtReq) (op status detail : Nat) (data : Bytes) :
    SameStores (mgmtAnswer s r op status detail data) (mgmtAnswer u r op status detail data) := by
  have hcached : SameStores (replyCached s { session := r.session, reqId := r.reqId, bytes := mgmtBytes r.reqId op status detail data })
      (replyCached u { session := r.session, reqId := r.reqId, bytes := mgmtBytes r.reqId op status detail data }) :=
    ⟨h.mem, h.clusters, h.pwr⟩
  rw [mgmtAnswer_eq, mgmtAnswer_eq, h.reserveBase_eq, hn]
  have hstored := hcached.devWrite (reserveBase s + 0x200000 + 1536 * (s.sched.replies % 1024))
    (sliceB (mgmtBytes r.reqId op status detail data) 0 1536) false
  exact hstored.mgmtSend r _

end SameStores

-- A bundle that fails its check (R388)

section
variable (s : State)

theorem bundleDropped_sched : (bundleDropped s).sched = { s.sched with fwTotal := none } := by
  have hlog : (logSch s 0x7014 15 (payload [])).sched = s.sched := logEv_sched ..
  show { (logSch s 0x7014 15 (payload [])).sched with fwTotal := none } = _
  rw [hlog]

theorem bundleDropped_out : (bundleDropped s).out = s.out := logEv_out ..

theorem bundleDropped_slots : (bundleDropped s).slots = s.slots := logEv_slots ..

theorem bundleDropped_sec : (bundleDropped s).sec = s.sec := logEv_sec ..

theorem bundleDropped_sameStores : SameStores s (bundleDropped s) := ⟨logEv_mem .., logEv_clusters .., logEv_pwr ..⟩

end

-- The clauses of O40

section
variable {t : Nat} {r : MgmtReq} {a b c : Nat} {m : BitVec 256} {w : W64} {f : Bool} {v : SigVerdict} {d : Bytes} {i : Instr} {s : State}

theorem exec_unserved (hi : i ∈ mgmtRequests t r a b c m w f v d)
    (h : s.sched.failed = true ∨ s.sched.sampling = false ∨ ownerSession s r.session = false) : exec i s = .next (tick t s) := by
  obtain ⟨op, g, hex⟩ := exec_eq_mgmtServe hi s
  rw [hex, mgmtServe_of_unserved (s := tick t s) h]

section
variable (hi : i ∈ mgmtRequests t r a b c m w f v d) (hs : Served s r)
  {h : Nat} (hhigh : alGet s.sched.highest r.session = some h) (hrep : r.reqId ≤ h)
include hi hs hhigh hrep

theorem exec_repeated_of_cached {x : MReply} (hx : cachedReply s r = some x) : exec i s = .next { tick t s with
    out := [{ kind := .mgmt, dest := r.session * 2 ^ 48 + r.addr.toNat * 2 ^ 16 + r.port.toNat, data := x.bytes }] } := by
  obtain ⟨op, g, hex⟩ := exec_eq_mgmtServe hi s
  have hx' : cachedReply (tick t s) r = some x := hx
  rw [hex, mgmtServe_of_repeated (hs.tick t) hhigh hrep, hx']
  rfl

theorem exec_repeated_of_stale (hx : cachedReply s r = none) : ∃ u op, exec i s = .next u ∧
    u.out = [{ kind := .mgmt, dest := r.session * 2 ^ 48 + r.addr.toNat * 2 ^ 16 + r.port.toNat
               data := mgmtBytes r.reqId op 9 0 [] }] ∧
    u.sched = s.sched ∧ u.slots = s.slots ∧ u.clusters = s.clusters ∧ u.mem = s.mem := by
  obtain ⟨op, g, hex⟩ := exec_eq_mgmtServe hi s
  have hx' : cachedReply (tick t s) r = none := hx
  rw [hex, mgmtServe_of_repeated (hs.tick t) hhigh hrep, hx']
  refine ⟨_, op, rfl, ?_, logEv_sched .., logEv_slots .., logEv_clusters .., logEv_mem ..⟩
  have hlog : (logSch (tick t s) 0x7030 15 (payload [])).out = [] := logEv_out ..
  rw [mgmtSend, emit_out, hlog]
  rfl

end

/-- A bundle that fails its check is answered FAILED and dropped: its staged bytes and the event logged are all that sets the next state apart
from the one that only answers. -/
theorem exec_fwCommit_of_rejected (hn : NewRequest s r) {n : Nat} (htotal : s.sched.fwTotal = some n) (hcommit : s.sched.fwCommit = false)
    (hbad : bundleCheck (staged s n) v (fwFloor s) ≠ 0) :
    let y := mgmtAnswer (noted (tick t s) r) r 0x0012 stFailed (0x0600 + bundleCheck (staged s n) v (fwFloor s)) []
    ∃ x, exec (.fwCommit t r v) s = .next x ∧ x.sched.fwTotal = none ∧ x.out = y.out ∧ x.slots = y.slots ∧ x.clusters = y.clusters ∧
      x.mem = y.mem ∧ x.sec = s.sec := by
  intro y
  have hreplies : (bundleDropped (noted (tick t s) r)).sched.replies = (noted (tick t s) r).sched.replies := by rw [bundleDropped_sched]
  have hsame := (bundleDropped_sameStores (noted (tick t s) r)).mgmtAnswer hreplies r 0x0012 stFailed
    (0x0600 + bundleCheck (staged s n) v (fwFloor s)) []
  refine ⟨_, by rw [exec_fwCommit_of_new hn htotal hcommit, if_neg hbad], ?_, ?_, ?_, hsame.clusters, hsame.mem, ?_⟩
  · rw [mgmtAnswer_fwTotal, bundleDropped_sched]
  · rw [mgmtAnswer_out, mgmtAnswer_out, bundleDropped_out]
  · rw [mgmtAnswer_slots, mgmtAnswer_slots, bundleDropped_slots]
  · rw [mgmtAnswer_sec, bundleDropped_sec]
    rfl

end

/-- Settles O40: every request goes through mgmtServe, whose three outcomes are the three parts of the statement; a new request is noted and
does what its operation says. -/
theorem requestsAreServedOnce : Obligations.RequestsAreServedOnce := by
  intro t r s a b c m w f v d i hi
  refine ⟨exec_unserved hi, fun halive hsampling hsession => ?_⟩
  have hs : Served s r := ⟨halive, hsampling, hsession⟩
  refine ⟨fun h hhigh hrep => ⟨fun x => exec_repeated_of_cached hi hs hhigh hrep, exec_repeated_of_stale hi hs hhigh hrep⟩, fun habove => ?_⟩
  have hn : NewRequest s r := ⟨hs, habove⟩
  refine ⟨?status, ?logRead, ?packageMask, ?clusterMask, ?slotCounters, ?packageCounters, ?scrub, ?deferred,
    ?fwBegin, ?fwData, ?fwCommit, ?fwAbort, ?clusterRestart, ?schedRestart⟩
  case status => rintro rfl; exact exec_status_of_new hn
  case logRead => rintro rfl h1 h40; exact exec_logRead_of_new hn h1 h40
  case packageMask => rintro k rfl rfl; exact exec_traceSet_of_mask hn (setMask_of_package ..)
  case clusterMask => rintro e rfl rfl hon; exact exec_traceSet_of_mask hn (setMask_of_cluster (s := noted (tick t s) r) hon m)
  case slotCounters =>
    rintro p rfl rfl hc hbc
    refine (exec_cntRead_of_new hn (Nat.le_of_lt p.isLt) hc hbc).trans ?_
    rw [dif_pos p.isLt]
    rfl
  case packageCounters =>
    rintro rfl rfl hc hbc
    refine (exec_cntRead_of_new hn (Nat.le_refl 8) hc hbc).trans ?_
    rw [dif_neg (by decide)]
    rfl
  case scrub =>
    rintro g rfl rfl rfl h1 h2
    rw [exec_mgmtSelftest_scrub hn g h1 h2]
    exact ⟨fun hon ht => congrArg _ (scrubTest_of_trained (s := noted (tick t s) r) hon ht ..),
      fun hoff => congrArg _ (scrubTest_of_off (s := noted (tick t s) r) hoff _)⟩
  case deferred =>
    rintro e p l rfl rfl rfl h1 h2 hclaim hst
    have hkat := deferKat_becomes (noted (tick t s) r) p (requestedTest r e e (max s.now t + c * 1000000) f) 1 w.toNat
    exact ⟨_, exec_mgmtSelftest_defer hn h1 h2 e.isLt hclaim hst, hkat.other, hkat.own⟩
  case fwBegin => rintro rfl hfree ha; exact exec_fwBegin_of_new hn hfree ha
  case fwData => rintro n rfl htotal hcommit hlen hfit; exact exec_fwData_of_new hn htotal hcommit hlen hfit
  case fwCommit =>
    rintro n rfl htotal hcommit
    exact ⟨exec_fwCommit_of_accepted hn htotal hcommit, exec_fwCommit_of_rejected hn htotal hcommit⟩
  case fwAbort => rintro n rfl htotal hcommit; exact exec_fwAbort_of_new hn htotal hcommit
  case clusterRestart => rintro e rfl rfl; exact exec_procRestart_of_cluster hn e
  case schedRestart => rintro rfl rfl h; exact exec_procRestart_of_scheduler hn h

end Sys2Proof.Machine
end

section
/-! PROOFS. Deferred known-answer tests and wake hints (R391, R392, R447, R448): the end and the refusal of a test change its own slot alone,
wanting a cluster touches what is wanted alone, and a walk that powers clusters down. -/

namespace Sys2Proof.Machine

-- The log (R516)

theorem devWrite_log (s : State) (a : Nat) (b : Bytes) (poi : Bool) : (devWrite s a b poi).log = s.log := by
  obtain ⟨_, _, h⟩ := devCommit_eq s (wbytes a b poi)
  rw [devWrite, h]

theorem putStored_log (s : State) (p : Fin 8) (e : Stored) : (putStored s p e).log = s.log := devWrite_log ..

theorem writeReply_log (s : State) (p : Fin 8) (num : Nat) (reply : Bytes) : (writeReply s p num reply).log = s.log := by
  unfold writeReply
  extract_lets l
  split
  · exact devWrite_log ..
  · rfl

theorem meterTag_log (s : State) (p : Fin 8) (k : W64) : (meterTag s p k).log = s.log := by
  unfold meterTag
  extract_lets d
  split <;> rfl

theorem answer_log (s : State) (p : Fin 8) (k : Ticket) (status detail value : Nat) : (answer s p k status detail value).log = s.log := by
  have hset : ∀ l, (setLed s p l).log = s.log := fun _ => rfl
  by_cases hrun : k.typ = 1
  · simp only [answer, hrun, if_true, meterTag_log, writeReply_log, putStored_log, hset]
  · simp only [answer, hrun, if_false, writeReply_log, putStored_log, hset]

-- CLUSTER_KAT (R391, R392)

/-- A test that passes on a cluster of a partition that awaits no test of its own for R413 has no further effect. -/
theorem katEnds_of_pass {s : State} {c : Fin 64} {p : Fin 8} {l : Nat} (hclaim : claimOf s c = some (p, l))
    (hkats : (s.slot p).twin.kats = none) : katEnds s c 0 = s := by
  simp [katEnds, hclaim, twinKat, hkats]

section
variable {s : State} {p : Fin 8} {w : KatWait} {m : Nat} {k : Ticket}

/-- Slot p once test w no longer waits and its ticket k has been answered. -/
def katAnswered (x : Slot) (w : KatWait) (k : Ticket) (status value : Nat) : Slot :=
  { x with kat := x.kat.filter (fun y => y != w), led := x.led.answered k status 0 value }

/-- A test whose ticket is answered leaves the list of its slot, and changes no other slot. -/
theorem answerKat_becomes {u : State} (hu : u.slots = (s.setSlot p { s.slot p with kat := (s.slot p).kat.filter (fun y => y != w) }).slots)
    (hw : w.ticket = some m) (hk : findTicket s p m = some k) (status value : Nat) :
    SlotBecomes p (katAnswered (s.slot p) w k status value) s (answerKat u p w status 0 value) := by
  have hown : u.slot p = { s.slot p with kat := (s.slot p).kat.filter (fun y => y != w) } := SlotBecomes.own hu
  have hk' : findTicket u p m = some k := by
    rw [findTicket, hown]
    exact hk
  have h := SlotBecomes.trans hu (.answer u p k status 0 value)
  rw [hown] at h
  rw [answerKat, hw, answerTest_of_ticket hk']
  exact h

/-- CLUSTER_KAT on a cluster whose window has opened: the test ends with its answer. -/
theorem exec_clusterKat_of_ready {t : Nat} {c : Fin 64} {l : Nat} (hup : schedUp (tick t s) = true) (hclaim : claimOf s c = some (p, l))
    (hwait : (s.slot p).kat.find? (fun x => x.ready && x.cluster == c) = some w) (hkats : (s.slot p).twin.kats = none)
    (hw : w.ticket = some m) (hk : findTicket s p m = some k) : ∃ u, exec (.clusterKat t c 0) s = .next u ∧
      SlotBecomes p (katAnswered (s.slot p) w k stDone 0) s u ∧ ((s.cl c).core.mask = 0 → u.log = s.log) := by
  let s1 := if clOn (tick t s) c then fwTracePoint (tick t s) (0x0780 + c.val) p.val (s.cl c).core.mask else tick t s
  have hs1 : s1.slots = s.slots := ite_slots (s := tick t s) (fwTracePoint_slots ..) rfl
  have hslot : s1.slot p = s.slot p := slot_congr hs1 p
  let s2 := s1.setSlot p { s1.slot p with kat := (s1.slot p).kat.filter (fun x => x != w) }
  have hs2 : s2.slots = (s.setSlot p { s.slot p with kat := (s.slot p).kat.filter (fun y => y != w) }).slots :=
    hslot ▸ SlotBecomes.after hs1 (.setSlot s1 p _)
  have h := answerKat_becomes hs2 hw hk stDone 0
  have hends : katEnds (answerKat s2 p w stDone 0 0) c 0 = answerKat s2 p w stDone 0 0 :=
    katEnds_of_pass ((h.claimOf rfl c).trans hclaim) (by rw [h.own]; exact hkats)
  have hclaim' : claimOf (tick t s) c = some (p, l) := hclaim
  have hwait' : (s1.slot p).kat.find? (fun x => x.ready && x.cluster == c) = some w := hslot ▸ hwait
  have hexec : exec (.clusterKat t c 0) s = .next (katEnds (answerKat s2 p w stDone 0 0) c 0) := by
    show execClusterKat t c 0 s = _
    simp only [execClusterKat, hup, Bool.not_true, Bool.false_eq_true, if_false, hclaim']
    show (match (s1.slot p).kat.find? (fun x => x.ready && x.cluster == c) with | some w => _ | none => _) = _
    rw [hwait']
    rfl
  refine ⟨_, hexec.trans (by rw [hends]), h, fun hmask => ?_⟩
  have hlog : s1.log = s.log := by
    simp only [s1, hmask, fwTracePoint_of_mask_zero, ite_self]
    rfl
  obtain ⟨k', hk'⟩ : ∃ k', findTicket s2 p m = some k' := ⟨k, by
    rw [findTicket, SlotBecomes.own hs2]
    exact hk⟩
  rw [answerKat, hw, answerTest_of_ticket hk', answer_log]
  exact hlog

theorem exec_clusterKat_of_unclaimed {c : Fin 64} (h : claimOf s c = none) (t : Nat) : exec (.clusterKat t c 0) s = .next (tick t s) := by
  have h' : claimOf (tick t s) c = none := h
  show execClusterKat t c 0 s = _
  simp only [execClusterKat, h']
  exact ite_self _

-- SELFTEST_TIMEOUT (R392)

theorem exec_selftestTimeout_of_late {t : Nat} (hserv : serving s = true)
    (hwait : (s.slot p).kat.find? (fun x => !x.ready && x.token.isNone && decide (x.deadline < max s.now t)) = some w) :
    exec (.selftestTimeout t p) s = .next (refuseKat (tick t s) p w) := by
  have hwait' : ((tick t s).slot p).kat.find? (fun x => !x.ready && x.token.isNone && decide (x.deadline < (tick t s).now)) = some w := hwait
  show execSelftestTimeout t p s = _
  simp only [execSelftestTimeout, serving_tick hserv, Bool.not_true, Bool.false_eq_true, if_false, hwait']

/-- A refused test is answered BUSY with its token (R392). -/
theorem refuseKat_becomes {q : Fin 8} {l : Nat} (hclaim : claimOf s w.cluster = some (q, l)) (hw : w.ticket = some m)
    (hk : findTicket s p m = some k) : SlotBecomes p
      (katAnswered (s.slot p) w k stBusy (katToken (s.slot p).img (stepNow s p) l 1 w.target)) s (refuseKat s p w) := by
  simp only [refuseKat, hclaim]
  exact answerKat_becomes (logEv_slots ..) hw hk _ _

end

-- Hints (R447, R448)

section
variable {t : Nat} {p : Fin 8} {n : Nat} {s : State} {e : Bytes}

/-- Slot x once entry n of its hints has been acted on. -/
def hintDropped (x : Slot) (n : Nat) : Slot := { x with hints := x.hints.filter (fun m => m != n) }

theorem hintDue_tick (t : Nat) (s : State) (p : Fin 8) (n kind : Nat) : hintDue (tick t s) p n kind = hintDue s p n kind := rfl

theorem exec_slack_of_not_due (h : hintDue s p n 4 = none) : exec (.slack t p n) s = .next (tick t s) := by
  show execSlack t p n s = _
  simp only [execSlack, hintDue_tick, h]

theorem exec_wakeOnPoint_of_not_due (h : hintDue s p n 2 = none) : exec (.wakeOnPoint t p n) s = .next (tick t s) := by
  show execWakeOnPoint t p n s = _
  simp only [execWakeOnPoint, hintDue_tick, h]

theorem exec_sleepOnPoint_of_not_due (h : hintDue s p n 3 = none) : exec (.sleepOnPoint t p n) s = .next (tick t s) := by
  show execSleepOnPoint t p n s = _
  simp only [execSleepOnPoint, hintDue_tick, h]

/-- The logical clusters that an entry names. -/
def hintClusters (e : Bytes) : List Nat := (List.range 64).filter (fun k => bitAt (fieldU e 8 8) k)

/-- SLACK opens the window of the clusters it names; where no test waits, it does no more. -/
theorem exec_slack_of_due {i : Img} (hdue : hintDue s p n 4 = some e) (himg : (s.slot p).img = some i) (hkat : (s.slot p).kat = []) :
    exec (.slack t p n) s = .next ((tick t s).setSlot p { hintDropped (s.slot p) n with
      slack := (hintClusters e).map (fun k => (k, max s.now t + fieldU e 4 4 * 1000)) ++
        (s.slot p).slack.filter (fun x => !(hintClusters e).contains x.1) }) := by
  show execSlack t p n s = _
  simp only [execSlack, hintDue_tick, hdue, slot_tick, himg, dropHint, slot_setSlot_same, hkat, List.map_nil, tick_now, hintDropped]
  rfl

-- WAKE_ON_POINT

/-- From s to u domains may have become wanted, and nothing else has changed. -/
def OnlyWanted (s u : State) : Prop :=
  ∃ v, u = { s with pwr := { s.pwr with want := v } } ∧ ∀ j, s.pwr.want.getLsbD j = true → v.getLsbD j = true

namespace OnlyWanted

variable {s t u : State}

theorem refl (s : State) : OnlyWanted s s := ⟨_, rfl, fun _ h => h⟩

theorem trans (h1 : OnlyWanted s t) (h2 : OnlyWanted t u) : OnlyWanted s u := by
  obtain ⟨v, rfl, hv⟩ := h1
  obtain ⟨w, rfl, hw⟩ := h2
  exact ⟨w, rfl, fun j h => hw j (hv j h)⟩

theorem wantOn (s : State) (i : Nat) : OnlyWanted s (wantOn s i) := by
  unfold Machine.wantOn
  split
  · exact refl s
  · exact ⟨_, rfl, fun j h => by simp [setDom, h]⟩

theorem wantCl (s : State) (c : Fin 64) : OnlyWanted s (wantCl s c) := (wantOn s _).trans (wantOn _ _)

theorem foldl_wantCl (l : List (Fin 64)) (s : State) : OnlyWanted s (l.foldl Machine.wantCl s) :=
  foldl_keeps (P := OnlyWanted s) (refl s) (fun u c h => h.trans (wantCl u c))

theorem clOn (h : OnlyWanted s u) (c : Fin 64) : clOn u c = clOn s c := by
  obtain ⟨v, rfl, -⟩ := h
  rfl

theorem want (h : OnlyWanted s u) {j : Nat} (hj : s.pwr.want.getLsbD j = true) : u.pwr.want.getLsbD j = true := by
  obtain ⟨v, rfl, hv⟩ := h
  exact hv j hj

end OnlyWanted

theorem wantCl_want {s : State} {c : Fin 64} (h : clOn s c = false) : (wantCl s c).pwr.want.getLsbD c.val = true := by
  have hoff : domOn (wantOn s (64 + (clDie c).val)) c.val = false := ((OnlyWanted.wantOn s _).clOn c).trans h
  have hc := c.isLt
  rw [wantCl, wantOn, if_neg (by simp [hoff])]
  simp [setDom]
  omega

/-- Every cluster of a list that is off becomes wanted. -/
theorem foldl_wantCl_want {d : Fin 64} {l : List (Fin 64)} {s : State} (hd : d ∈ l) (hoff : clOn s d = false) :
    (l.foldl wantCl s).pwr.want.getLsbD d.val = true := by
  induction l generalizing s with
  | nil => exact absurd hd List.not_mem_nil
  | cons c r ih =>
    rcases List.mem_cons.mp hd with rfl | hr
    · exact (OnlyWanted.foldl_wantCl r _).want (wantCl_want hoff)
    · exact ih hr (((OnlyWanted.wantCl s c).clOn d).trans hoff)

theorem exec_wakeOnPoint_of_due (h : hintDue s p n 2 = some e) :
    exec (.wakeOnPoint t p n) s = .next ((wakeTargets s p e).foldl wantCl (dropHint (tick t s) p n)) := by
  show execWakeOnPoint t p n s = _
  simp only [execWakeOnPoint, hintDue_tick, h]
  rfl

-- SLEEP_ON_POINT

theorem getLsbD_setDom_false {b : BitVec 96} {i j : Nat} (hj : j < 96) : (setDom b i false).getLsbD j = (b.getLsbD j && decide (i ≠ j)) := by
  have hbit : (1#96 <<< i).getLsbD j = decide (i = j) := by
    rw [Bool.eq_iff_iff]
    simp only [BitVec.getLsbD_shiftLeft, BitVec.getLsbD_one, Bool.and_eq_true, Bool.not_eq_true', decide_eq_true_eq, decide_eq_false_iff_not]
    omega
  show (b &&& ~~~(1#96 <<< i)).getLsbD j = _
  rw [BitVec.getLsbD_and, BitVec.getLsbD_not, hbit]
  simp [hj]

theorem noteIdle_keeps (s : State) (d : Fin 2) :
    (noteIdle s d).slots = s.slots ∧ (noteIdle s d).clusters = s.clusters ∧ (noteIdle s d).pwr.on = s.pwr.on := by
  unfold noteIdle
  split <;> exact ⟨rfl, rfl, rfl⟩

theorem dropPend_eq (s : State) (c : Fin 64) : ∃ k, dropPend s c = { s with sched := k } := by
  unfold dropPend settleUpdate
  extract_lets k
  split <;> exact ⟨_, rfl⟩

/-- Powering a cluster down leaves the slots and the other clusters, and takes its domain's power alone (R27, R443). -/
theorem powerDownCl_keeps (s : State) (c : Fin 64) : (powerDownCl s c).slots = s.slots ∧
    (powerDownCl s c).clusters = vset s.clusters c Cluster.reset ∧ (powerDownCl s c).pwr.on = setDom s.pwr.on c.val false := by
  obtain ⟨k, hk⟩ := dropPend_eq s c
  unfold powerDownCl
  rw [hk]
  exact noteIdle_keeps ..

/-- From s to u the clusters of a list that were on have been powered down, and the slots stay. -/
structure Slept (l : List (Fin 64)) (s u : State) : Prop where
  slots : u.slots = s.slots
  on : ∀ d, clOn u d = (clOn s d && !l.contains d)
  cl : ∀ d, u.cl d = if d ∈ l ∧ clOn s d = true then Cluster.reset else s.cl d

/-- Whether SLEEP_ON_POINT may power a cluster down: DONE or IDLE with nothing outstanding (R448). -/
def atRest (k : Cluster) : Bool := (k.seq.mode == .done || k.seq.mode == .idle) && idleUnits k && k.seq.sigOut.isEmpty

def sleepCl (u : State) (c : Fin 64) : State := if clOn u c && atRest (u.cl c) then powerDownCl u c else u

theorem sleepCl_slept {s : State} {c : Fin 64} (hrest : clOn s c = true → atRest (s.cl c) = true) : Slept [c] s (sleepCl s c) := by
  unfold sleepCl
  cases hon : clOn s c with
  | false =>
    refine ⟨rfl, fun d => ?_, fun d => ?_⟩
    · by_cases hd : d = c
      · simp [hd, hon]
      · simp [hd]
    · refine (if_neg fun h => ?_).symm
      rw [List.mem_singleton.mp h.1, hon] at h
      exact Bool.false_ne_true h.2
  | true =>
    obtain ⟨hslots, hcl, hpwr⟩ := powerDownCl_keeps s c
    rw [hrest hon, Bool.and_self, if_pos rfl]
    refine ⟨hslots, fun d => ?_, fun d => ?_⟩
    · have hd : d.val < 96 := by omega
      rw [clOn, domOn, hpwr, getLsbD_setDom_false hd]
      by_cases hdc : d = c
      · simp [hdc]
      · have hval : c.val ≠ d.val := fun h => hdc (Fin.ext h.symm)
        simp [hdc, hval, clOn, domOn]
    · rw [State.cl, hcl, vset_get]
      by_cases hdc : d = c
      · simp [hdc, hon]
      · simp [hdc, Ne.symm hdc, State.cl]

theorem Slept.cons {c : Fin 64} {r : List (Fin 64)} {s t u : State} (h1 : Slept [c] s t) (h2 : Slept r t u) : Slept (c :: r) s u := by
  refine ⟨h2.slots.trans h1.slots, fun d => ?_, fun d => ?_⟩
  · rw [h2.on, h1.on]
    simp [Bool.and_assoc]
  · rw [h2.cl, h1.cl, h1.on]
    by_cases hdc : d = c <;> simp [hdc]

/-- A walk over clusters at rest powers down each of them. -/
theorem foldl_sleepCl_slept : ∀ (l : List (Fin 64)) {s : State}, (∀ d ∈ l, clOn s d = true → atRest (s.cl d) = true) →
    Slept l s (l.foldl sleepCl s)
  | [], s, _ => ⟨rfl, fun d => by simp, fun d => by simp⟩
  | c :: r, s, hrest => by
    have h1 := sleepCl_slept (hrest c List.mem_cons_self)
    refine h1.cons (foldl_sleepCl_slept r fun d hd hon => ?_)
    rw [h1.on, Bool.and_eq_true] at hon
    have hdc : ¬ d = c := by simpa using hon.2
    rw [h1.cl, if_neg (by simp [hdc])]
    exact hrest d (List.mem_cons_of_mem _ hd) hon.1

/-- Where every target that is on is at rest, all of them sleep and the hint is done with. -/
theorem exec_sleepOnPoint_of_rest (hdue : hintDue s p n 3 = some e)
    (hrest : ∀ d ∈ wakeTargets s p e, clOn s d = true → atRest (s.cl d) = true) :
    exec (.sleepOnPoint t p n) s = .next (dropHint ((wakeTargets s p e).foldl sleepCl (tick t s)) p n) := by
  have hall : (wakeTargets s p e).any (fun c => clOn ((wakeTargets s p e).foldl sleepCl (tick t s)) c) = false := by
    rw [List.any_eq_false]
    intro d hd
    rw [(foldl_sleepCl_slept _ (s := tick t s) hrest).on]
    simp [hd]
  show execSleepOnPoint t p n s = _
  simp only [execSleepOnPoint, hintDue_tick, hdue]
  exact congrArg Host.Outcome.next (if_neg (by rw [Bool.not_eq_true]; exact hall))

theorem dropHint_becomes (s : State) (p : Fin 8) (n : Nat) : SlotBecomes p (hintDropped (s.slot p) n) s (dropHint s p n) := rfl

end

/-- Settles O42: a test ends with its answer (exec_clusterKat_of_ready) or is refused (refuseKat_becomes), a woken target is wanted
(foldl_wantCl_want), and targets at rest have Slept. -/
theorem testsAndHintsAct : Obligations.TestsAndHintsAct := by
  unfold Obligations.TestsAndHintsAct
  intro t p c l n s e i
  refine ⟨fun w m k hup hclaim hwait hkats hw hk => ?_, fun h => exec_clusterKat_of_unclaimed h t,
    fun w m k hserv hwait hw hk hclaim => ?_, fun hdue himg hkat => ?_, fun hdue => ?_, fun hdue hrest => ?_,
    exec_wakeOnPoint_of_not_due, exec_sleepOnPoint_of_not_due, exec_slack_of_not_due⟩
  · obtain ⟨u, hexec, h, hlog⟩ := exec_clusterKat_of_ready hup hclaim hwait hkats hw hk
    exact ⟨u, hexec, h.other, h.own, hlog⟩
  · have h := refuseKat_becomes (s := tick t s) hclaim hw hk
    exact ⟨_, exec_selftestTimeout_of_late hserv hwait, h.other, h.own⟩
  · refine ⟨_, exec_slack_of_due hdue himg hkat, fun q hq => slot_setSlot_other _ _ _ _ hq.symm, rfl, rfl, ?_⟩
    rw [slot_setSlot_same]
    rfl
  · have h := OnlyWanted.foldl_wantCl (wakeTargets s p e) (dropHint (tick t s) p n)
    have hbecomes := (dropHint_becomes (tick t s) p n).andThen (foldl_slots wantCl_slots (wakeTargets s p e) _)
    have hwant : ∀ d, d ∈ wakeTargets s p e → clOn s d = false → _ := fun d hd hoff => foldl_wantCl_want (s := dropHint (tick t s) p n) hd hoff
    obtain ⟨v, hv, -⟩ := h
    exact ⟨_, exec_wakeOnPoint_of_due hdue, by rw [hv]; rfl, by rw [hv]; rfl, hwant, hbecomes.own, hbecomes.other⟩
  · have hrest' : ∀ d ∈ wakeTargets s p e, clOn s d = true → atRest (s.cl d) = true := fun d hd hon => by
      obtain ⟨hmode, hunits, hsig⟩ := hrest d hd hon
      rcases hmode with hmode | hmode <;> simp [atRest, hmode, hunits, hsig]
    have h := foldl_sleepCl_slept (wakeTargets s p e) (s := tick t s) hrest'
    have hbecomes := SlotBecomes.after h.slots (dropHint_becomes ((wakeTargets s p e).foldl sleepCl (tick t s)) p n)
    rw [slot_congr h.slots] at hbecomes
    refine ⟨_, exec_sleepOnPoint_of_rest hdue hrest', fun d hd => (h.on d).trans ?_, fun d hd hon => (h.cl d).trans (if_pos ⟨hd, hon⟩),
      fun d hd => (h.cl d).trans (if_neg fun x => hd x.1), hbecomes.own, hbecomes.other⟩
    simp [hd]

end Sys2Proof.Machine
end

section
/-! PROOFS. One step of the block (log entry 1), and the authorisation of an image's key (R477). -/

namespace Sys2Proof.Machine

/-- Settles O1: a queue with a front command is the second case of step. -/
theorem stepRunsTheFrontCommand : Obligations.StepRunsTheFrontCommand := by
  unfold Obligations.StepRunsTheFrontCommand
  intro i rest s h
  rw [step, h]

/-- Settles O2: an empty queue is the first case of step. -/
theorem emptyQueueIdles : Obligations.EmptyQueueIdles := by
  unfold Obligations.EmptyQueueIdles
  intro s h
  rw [step, h]

/-- Entry i of an owner record holds a key digest with the bit of a partition (R476). -/
def entryAuthorises (o : Bytes) (i : Nat) (p : Fin 8) (key : Bytes) : Prop :=
  sliceB o (176 + 64 * i) 48 = key ∧ bitAt (fieldU o (176 + 64 * i + 48) 1) p.val = true

/-- The check passes where an owner record is accepted, is enabled, and one of its entries authorises the key. -/
theorem keyAuthorised_iff (s : State) (p : Fin 8) (key : Bytes) : keyAuthorised s p key = true ↔
    ∃ o, s.sec.owner = some o ∧ bitAt (fieldU o 12 1) 0 = true ∧ ∃ i, (i < 32 ∧ i < fieldU o 13 1) ∧ entryAuthorises o i p key := by
  cases h : s.sec.owner with
  | none => simp [keyAuthorised, h]
  | some o => simp [keyAuthorised, h, entryAuthorises]

theorem bitAt_zero (i : Nat) : bitAt 0 i = false := by simp [bitAt]

/-- Settles O52: an authorising entry is what keyAuthorised_iff finds, and an entry without bits authorises nothing. -/
theorem keysAreAuthorisedPerPartition : Obligations.KeysAreAuthorisedPerPartition := by
  unfold Obligations.KeysAreAuthorisedPerPartition
  intro s p key
  refine ⟨fun h => ?_, fun r hr hzero => ?_⟩
  · obtain ⟨o, ho, -, i, ⟨h32, hn⟩, hkey, hbit⟩ := (keyAuthorised_iff s p key).mp h
    exact ⟨o, i, ho, hn, h32, hkey, hbit⟩
  · by_contra h
    obtain ⟨o, ho, -, i, ⟨-, hn⟩, hkey, hbit⟩ := (keyAuthorised_iff s p key).mp (by simpa using h)
    obtain rfl : r = o := Option.some.inj (hr.symm.trans ho)
    rw [hzero i hn hkey, bitAt_zero] at hbit
    exact Bool.false_ne_true hbit

end Sys2Proof.Machine
end

section
/-! PROOFS. The trace drain (R511) and the delivery of a captured dump (R515). -/

namespace Sys2Proof.Machine

-- The trace drain

section
variable {t : Nat} {p : Fin 8} {c : Fin 64} {l n : Nat} {s : State}

theorem exec_traceDrain_of_off (hclaim : claimOf s c = some (p, l)) (hoff : bitAt (s.slot p).obs.drain.toNat 5 = false) :
    exec (.traceDrain t c) s = .next (tick t s) := by
  have hclaim' : claimOf (tick t s) c = some (p, l) := hclaim
  show execTraceDrain t c s = _
  simp [execTraceDrain, hclaim', hoff]

/-- The first pending record of a cluster: the trace buffer holds the last 512 (R511). -/
def firstPending (k : Cluster) : Nat := max k.trc.drained (k.trc.recno.toNat - 512)

/-- The pending records of a cluster, copied in their order. -/
def recordsDrained (s : State) (p : Fin 8) (c : Fin 64) : State :=
  (span (firstPending (s.cl c)) ((s.cl c).trc.recno.toNat - firstPending (s.cl c))).foldl (fun (u : State) n => drainOne u p c n) s

/-- The cluster has noted that its records up to number n are drained. -/
def drainNoted (s : State) (c : Fin 64) (n : Nat) : State :=
  s.setCl c { s.cl c with trc := { (s.cl c).trc with drained := n } }

theorem drainNoted_slots (s : State) (c : Fin 64) (n : Nat) : (drainNoted s c n).slots = s.slots := rfl

theorem drainNoted_mem (s : State) (c : Fin 64) (n : Nat) : (drainNoted s c n).mem = s.mem := rfl

theorem exec_traceDrain_of_on (hclaim : claimOf s c = some (p, l)) (hon : bitAt (s.slot p).obs.drain.toNat 5 = true)
    (hgate : gateOn s 5 = true) (hcl : clOn s c = true) : exec (.traceDrain t c) s =
      .next (drainNoted (recordsDrained (tick t s) p c) c (s.cl c).trc.recno.toNat) := by
  have hclaim' : claimOf (tick t s) c = some (p, l) := hclaim
  have hgate' : gateOn (tick t s) 5 = true := hgate
  show execTraceDrain t c s = _
  simp [execTraceDrain, hclaim', hon, hgate', hcl, recordsDrained, firstPending, drainNoted]

theorem recordsDrained_none (h : (s.cl c).trc.recno.toNat = (s.cl c).trc.drained) :
    recordsDrained s p c = s := by
  simp [recordsDrained, firstPending, h, span]

theorem recordsDrained_one (h : (s.cl c).trc.recno.toNat = (s.cl c).trc.drained + 1) :
    recordsDrained s p c = drainOne s p c (s.cl c).trc.drained := by
  simp [recordsDrained, firstPending, h, span]

theorem drainNoted_self (h : (s.cl c).trc.drained = n) : drainNoted s c n = s := by
  rw [← h]
  exact setCl_self s c

end

/-- A drained record goes to the ring of its partition (R511). -/
def recordCopied (s : State) (p : Fin 8) (c : Fin 64) (n : Nat) : State :=
  hostWrite s (bitsAt (s.slot p).obs.drain.toNat 12 36 * 4096 +
    32 * ((s.slot p).obs.drainHd.toNat % 2 ^ ((s.slot p).obs.drain.toNat % 32))) ((s.cl c).trace.read (n % 512 * 32) 32)

/-- The slot of a partition that has drained one record more. -/
def drainedOn (x : Slot) : Slot := { x with obs := { x.obs with drainHd := x.obs.drainHd + 1 } }

theorem drainOne_eq (s : State) (p : Fin 8) (c : Fin 64) (n : Nat) :
    drainOne s p c n = (recordCopied s p c n).setSlot p (drainedOn (s.slot p)) := by
  have h : (recordCopied s p c n).slot p = s.slot p := slot_congr (StoresOnly.hostWrite ..).slots p
  have hdef : drainOne s p c n = (recordCopied s p c n).setSlot p { (recordCopied s p c n).slot p with
      obs := { ((recordCopied s p c n).slot p).obs with drainHd := (s.slot p).obs.drainHd + 1 } } := by
    simp only [drainOne, recordCopied]
  rw [hdef, h]
  rfl

theorem drainOne_becomes (s : State) (p : Fin 8) (c : Fin 64) (n : Nat) : SlotBecomes p (drainedOn (s.slot p)) s (drainOne s p c n) := by
  rw [drainOne_eq]
  exact .after (StoresOnly.hostWrite ..).slots (.setSlot ..)

theorem drainOne_mem (s : State) (p : Fin 8) (c : Fin 64) (n : Nat) : (drainOne s p c n).mem = (recordCopied s p c n).mem := by
  rw [drainOne_eq, setSlot_mem]

-- The delivery of a dump

theorem hostWrite_log (s : State) (a : Nat) (b : Bytes) : (hostWrite s a b).log = s.log := by
  unfold hostWrite
  split
  · exact devWrite_log ..
  · rfl

theorem meterTag_ports (s : State) (p : Fin 8) (k : W64) : (meterTag s p k).ports = s.ports := by
  unfold meterTag
  extract_lets d
  split <;> rfl

theorem answer_ports (s : State) (p : Fin 8) (k : Ticket) (status detail value : Nat) : (answer s p k status detail value).ports = s.ports := by
  obtain ⟨u, hu, hans⟩ := answer_storesOnly s p k status detail value
  rw [hans]
  split
  · exact (meterTag_ports ..).trans hu.ports
  · exact hu.ports

/-- A container has been written at DBG_DUMPOUT, and the dump is disarmed (R515). -/
def containerWritten (s : State) (p : Fin 8) (b : Bytes) : State :=
  let u := hostWrite s (bitsAt (s.slot p).obs.dumpOut.toNat 12 36 * 4096) b
  u.setSlot p { u.slot p with obs := { (u.slot p).obs with dump := none } }

theorem containerWritten_becomes (s : State) (p : Fin 8) (b : Bytes) :
    SlotBecomes p { s.slot p with obs := { (s.slot p).obs with dump := none } } s (containerWritten s p b) := by
  have hu := (StoresOnly.hostWrite s (bitsAt (s.slot p).obs.dumpOut.toNat 12 36 * 4096) b).slots
  rw [← slot_congr hu]
  exact .after hu (.setSlot ..)

theorem containerWritten_ports (s : State) (p : Fin 8) (b : Bytes) : (containerWritten s p b).ports = s.ports := (StoresOnly.hostWrite ..).ports

theorem containerWritten_log (s : State) (p : Fin 8) (b : Bytes) : (containerWritten s p b).log = s.log := hostWrite_log ..

theorem dumpContainer_tick (t : Nat) (s : State) (p : Fin 8) (i : Img) (j : DumpJob) (data : Bytes) (bad : List Nat) :
    dumpContainer (tick t s) p i j data bad = dumpContainer s p i j data bad := by
  unfold dumpContainer dumpHead
  rfl

theorem exec_dumpDeliver_of_taken {t : Nat} {p : Fin 8} {s : State} {i : Img} {j : DumpJob} {data : Bytes} {bad : List Nat} {k : Ticket}
    (himg : (s.slot p).img = some i) (hdump : (s.slot p).obs.dump = some j) (htaken : j.taken = some (data, bad))
    (hfind : findTicket s p j.num = some k) (hup : schedUp (tick t s) = true) : exec (.dumpDeliver t p) s =
      .next (answer (containerWritten (tick t s) p (dumpContainer s p i j data bad)) p k stDone 0 (dumpContainer s p i j data bad).length) := by
  have hfind' : findTicket (tick t s) p j.num = some k := hfind
  show execDumpDeliver t p s = _
  unfold execDumpDeliver
  extract_lets u x
  have hx : x = s.slot p := rfl
  rw [hx, hdump, himg]
  simp only [htaken, hfind', u, hup, dumpContainer_tick, Bool.not_true, Bool.false_eq_true, if_false]
  rfl

/-- Settles O36: a record drained is drainOne_eq, after which the cluster notes it (drainNoted), and a dump delivered is containerWritten and
then the answer to its ticket. -/
theorem drainsAndDumpsReachTheHost : Obligations.DrainsAndDumpsReachTheHost := by
  unfold Obligations.DrainsAndDumpsReachTheHost
  intro t p c l s i himg
  refine ⟨fun hclaim hon hgate hcl hnone => ?_, fun hclaim hon hgate hcl hone => ?_, fun hoff hclaim => exec_traceDrain_of_off hclaim hoff,
    fun j data bad k hdump htaken hfind hup => ?_⟩
  · rw [exec_traceDrain_of_on hclaim hon hgate hcl, recordsDrained_none (s := tick t s) hnone, drainNoted_self (s := tick t s) hnone.symm]
  · have hexec := exec_traceDrain_of_on (t := t) hclaim hon hgate hcl
    rw [recordsDrained_one (s := tick t s) hone, cl_tick] at hexec
    have hslot := (drainOne_becomes (tick t s) p c (s.cl c).trc.drained).andThen (drainNoted_slots _ c (s.cl c).trc.recno.toNat)
    refine ⟨_, hexec, ?_, hslot.other, ?_, (drainNoted_mem ..).trans (drainOne_mem ..)⟩
    · rw [hslot.own, drainedOn, slot_tick]
    · rw [drainNoted, cl_setCl_same]
  · have hwritten := containerWritten_becomes (tick t s) p (dumpContainer s p i j data bad)
    have hslot := hwritten.trans (.answer _ p k stDone 0 (dumpContainer s p i j data bad).length)
    rw [hwritten.own] at hslot
    exact ⟨_, exec_dumpDeliver_of_taken himg hdump htaken hfind hup, hslot.other, hslot.own,
      (answer_ports ..).trans (containerWritten_ports ..), (answer_log ..).trans (containerWritten_log ..)⟩

end Sys2Proof.Machine
end

section
/-! PROOFS. Fields of byte strings (R6): what a patch and an append leave of the other bytes, and the bytes of a number read back. -/

namespace Sys2Proof.Machine

theorem sliceB_eq_map (b : Bytes) (off n : Nat) : sliceB b off n = (List.range n).map (fun i => b.getD (off + i) 0) := by
  apply List.ext_getElem
  · simp
  · intro i h1 h2
    simp only [sliceB, List.getElem_append, List.getElem_map, List.getElem_range, List.getD_eq_getElem?_getD]
    simp only [length_sliceB] at h1
    split
    · next h =>
      simp only [List.length_take, List.length_drop] at h
      simp [List.getElem?_eq_getElem (show off + i < b.length by omega)]
    · next h =>
      simp only [List.length_take, List.length_drop] at h
      simp [List.getElem?_eq_none (show b.length ≤ off + i by omega)]

/-- Fields are equal where their bytes are. -/
theorem sliceB_congr {b c : Bytes} {o p n : Nat} (h : ∀ i, i < n → b.getD (o + i) 0 = c.getD (p + i) 0) : sliceB b o n = sliceB c p n := by
  rw [sliceB_eq_map, sliceB_eq_map]
  exact List.map_congr_left fun i hi => h i (List.mem_range.mp hi)

theorem getD_patchB_of_lt {b : Bytes} {o i : Nat} (ho : o ≤ b.length) (h : i < o) (x : Bytes) : (patchB b o x).getD i 0 = b.getD i 0 := by
  simp only [patchB, List.getD_eq_getElem?_getD]
  rw [List.append_assoc, List.getElem?_append_left (by simp; omega), List.getElem?_take_of_lt h]

theorem getD_patchB_inside {b x : Bytes} {o i : Nat} (ho : o ≤ b.length) (h : i < x.length) : (patchB b o x).getD (o + i) 0 = x.getD i 0 := by
  simp only [patchB, List.getD_eq_getElem?_getD]
  rw [List.getElem?_append_left (by simp; omega), List.getElem?_append_right (by simp)]
  simp [Nat.min_eq_left ho]

theorem le_length_patchB {b : Bytes} {o : Nat} (ho : o ≤ b.length) (x : Bytes) : b.length ≤ (patchB b o x).length := by
  simp only [patchB, List.length_append, List.length_take, List.length_drop]
  omega

theorem sliceB_patchB_of_le {b : Bytes} {o off n : Nat} (ho : o ≤ b.length) (h : off + n ≤ o) (x : Bytes) :
    sliceB (patchB b o x) off n = sliceB b off n :=
  sliceB_congr fun _ hi => getD_patchB_of_lt ho (by omega) x

theorem sliceB_zero_length (x : Bytes) : sliceB x 0 x.length = x := by simp [sliceB]

theorem sliceB_patchB_same {b x : Bytes} {o : Nat} (ho : o ≤ b.length) : sliceB (patchB b o x) o x.length = x := by
  conv_rhs => rw [← sliceB_zero_length x]
  exact sliceB_congr fun i hi => by rw [getD_patchB_inside ho hi, Nat.zero_add]

theorem sliceB_append_of_le {b : Bytes} {off n : Nat} (h : off + n ≤ b.length) (c : Bytes) : sliceB (b ++ c) off n = sliceB b off n :=
  sliceB_congr fun i hi => by
    simp only [List.getD_eq_getElem?_getD]
    rw [List.getElem?_append_left (by omega)]

theorem leNat_natLe {n v : Nat} (h : v < 256 ^ n) : leNat (natLe n v) = v := by
  induction n generalizing v with
  | zero => simpa [natLe, leNat, eq_comm] using h
  | succ n ih =>
    have hdiv : v / 256 < 256 ^ n := Nat.div_lt_of_lt_mul (by rwa [Nat.pow_succ'] at h)
    rw [natLe, leNat, ih hdiv, BitVec.toNat_ofNat, Nat.mod_add_div]

/-- Patches behind a field leave it. -/
theorem sliceB_foldl_patchB_of_le {off n : Nat} (l : List (Nat × Bytes)) {b : Bytes} (h : ∀ x ∈ l, off + n ≤ x.1 ∧ x.1 ≤ b.length) :
    sliceB (l.foldl (fun (b : Bytes) x => patchB b x.1 x.2) b) off n = sliceB b off n := by
  induction l generalizing b with
  | nil => rfl
  | cons x r ih =>
    obtain ⟨hoff, hlen⟩ := h x List.mem_cons_self
    rw [List.foldl_cons, ih, sliceB_patchB_of_le hlen hoff]
    intro y hy
    obtain ⟨hy1, hy2⟩ := h y (List.mem_cons_of_mem _ hy)
    exact ⟨hy1, hy2.trans (le_length_patchB hlen _)⟩

theorem le_length_foldl_patchB (l : List (Nat × Bytes)) {b : Bytes} (h : ∀ x ∈ l, x.1 ≤ b.length) :
    b.length ≤ (l.foldl (fun (b : Bytes) x => patchB b x.1 x.2) b).length := by
  induction l generalizing b with
  | nil => exact le_rfl
  | cons x r ih =>
    have hx := le_length_patchB (h x List.mem_cons_self) x.2
    exact hx.trans (ih fun y hy => (h y (List.mem_cons_of_mem _ hy)).trans hx)

/-- The field that a patch writes, where the patches after it lie behind it. -/
theorem sliceB_foldl_patchB_same {o : Nat} {x b : Bytes} (pre post : List (Nat × Bytes)) (ho : o ≤ b.length) (hpre : ∀ y ∈ pre, y.1 ≤ b.length)
    (hpost : ∀ y ∈ post, o + x.length ≤ y.1 ∧ y.1 ≤ b.length) :
    sliceB ((pre ++ (o, x) :: post).foldl (fun (b : Bytes) x => patchB b x.1 x.2) b) o x.length = x := by
  have hlen := le_length_foldl_patchB pre hpre
  have ho' := ho.trans hlen
  rw [List.foldl_append, List.foldl_cons, sliceB_foldl_patchB_of_le post, sliceB_patchB_same ho']
  exact fun y hy => ⟨(hpost y hy).1, (hpost y hy).2.trans (hlen.trans (le_length_patchB ho' x))⟩

end Sys2Proof.Machine
end

section
/-! PROOFS. States that differ in the trouble log alone (R516). -/

namespace Sys2Proof.Machine

/-- u differs from s in the log at most. -/
def LogOnly (s u : State) : Prop := u = { s with log := u.log }

namespace LogOnly

theorem refl (s : State) : LogOnly s s := rfl

theorem trans {s t u : State} (h1 : LogOnly s t) (h2 : LogOnly t u) : LogOnly s u := by
  rw [LogOnly, h1] at h2
  exact h2

theorem logEv (s : State) (a b c : Nat) (l : Bytes) : LogOnly s (logEv s a b c l) := by
  obtain ⟨g, h⟩ := logEv_eq s a b c l
  rw [h]
  exact refl _

theorem setLog {s u : State} (h : LogOnly s u) (g : Log) : LogOnly s { u with log := g } := by
  rw [h]
  exact refl _

theorem ite {c : Prop} [Decidable c] {s t u : State} (ht : LogOnly s t) (hu : LogOnly s u) : LogOnly s (if c then t else u) := by
  split
  · exact ht
  · exact hu

theorem logRated (s : State) (m a b c k : Nat) (l : Bytes) : LogOnly s (logRated s m a b c k l) := by
  unfold Machine.logRated
  extract_lets again
  split
  · exact (logEv s a b c l).setLog _
  · exact (refl s).setLog _

section
variable {s u : State} (h : LogOnly s u)
include h

theorem clk : u.clk = s.clk := by rw [h]
theorem pwr : u.pwr = s.pwr := by rw [h]
theorem sec : u.sec = s.sec := by rw [h]
theorem mem : u.mem = s.mem := by rw [h]
theorem clusters : u.clusters = s.clusters := by rw [h]
theorem slots : u.slots = s.slots := by rw [h]
theorem meter : u.meter = s.meter := by rw [h]

end

end LogOnly

end Sys2Proof.Machine
end

section
/-! PROOFS. The sealed energy meter (R494 to R504): what its records hold, what a request and a self-check do, and what the window stores. -/

namespace Sys2Proof.Machine

-- Records (R494 to R497)

/-- The 128 bytes of a record before its body is written. -/
def blankRecord (kind flags seq : Nat) : Bytes :=
  natLe 4 0x524D594B ++ natLe 2 1 ++ natLe 1 kind ++ natLe 1 flags ++ natLe 8 seq ++ zeroB 112

/-- Every field of a body lies behind the header of a record. -/
def bodyFits (body : List (Nat × Bytes)) : Prop := ∀ x ∈ body, 16 ≤ x.1 ∧ x.1 ≤ 128

theorem length_blankRecord (kind flags seq : Nat) : (blankRecord kind flags seq).length = 128 := by simp [blankRecord, zeroB]

section
variable {kind flags seq : Nat} {body pre post : List (Nat × Bytes)}

theorem le_length_meterHead (h : bodyFits body) : 128 ≤ (meterHead kind flags seq body).length := by
  have hb := le_length_foldl_patchB body (b := blankRecord kind flags seq) (by rw [length_blankRecord]; exact fun x hx => (h x hx).2)
  rwa [length_blankRecord] at hb

/-- The header of a record is that of the blank record. -/
theorem sliceB_record_header (h : bodyFits body) {off n : Nat} (hoff : off + n ≤ 16) (sig : Bytes) :
    sliceB (meterHead kind flags seq body ++ sig) off n = sliceB (blankRecord kind flags seq) off n := by
  have hlen : 128 ≤ (meterHead kind flags seq body).length := le_length_meterHead h
  have hbody := sliceB_foldl_patchB_of_le (off := off) (n := n) body (b := blankRecord kind flags seq) (fun x hx => by
    rw [length_blankRecord]
    exact ⟨hoff.trans (h x hx).1, (h x hx).2⟩)
  exact (sliceB_append_of_le (by omega) sig).trans hbody

theorem record_kind (h : bodyFits body) (hk : kind < 256) (sig : Bytes) : fieldU (meterHead kind flags seq body ++ sig) 6 1 = kind := by
  rw [fieldU, sliceB_record_header h (by decide)]
  exact leNat_natLe (n := 1) hk

theorem record_seq (h : bodyFits body) (hseq : seq < 2 ^ 64) (sig : Bytes) : fieldU (meterHead kind flags seq body ++ sig) 8 8 = seq := by
  rw [fieldU, sliceB_record_header h (by decide)]
  exact leNat_natLe (n := 8) hseq

/-- A field of the body, where the fields after it lie behind it. -/
theorem record_field {o : Nat} {x : Bytes} (h : bodyFits (pre ++ (o, x) :: post)) (hpost : ∀ y ∈ post, o + x.length ≤ y.1)
    (hx : o + x.length ≤ 128) (sig : Bytes) :
    fieldU (meterHead kind flags seq (pre ++ (o, x) :: post) ++ sig) o x.length = leNat x := by
  have hlen : 128 ≤ (meterHead kind flags seq (pre ++ (o, x) :: post)).length := le_length_meterHead h
  have hfield := sliceB_foldl_patchB_same (o := o) (x := x) (b := blankRecord kind flags seq) pre post (by rw [length_blankRecord]; omega)
    (fun y hy => by rw [length_blankRecord]; exact (h y (by simp [hy])).2)
    (fun y hy => by rw [length_blankRecord]; exact ⟨hpost y hy, (h y (by simp [hy])).2⟩)
  exact congrArg leNat ((sliceB_append_of_le (by omega) sig).trans hfield)

end

-- ENERGY (R495, R496, R499)

def energyBody (d : MeterDie) (uj pk : BitVec 32) : List (Nat × Bytes) :=
  [(16, natLe 4 uj.toNat), (20, natLe 4 pk.toNat), (24, natLe 4 d.tagSeq.toNat),
    (32, d.tags.toList.flatMap (fun (x : W64) => natLe 8 x.toNat)), (96, d.prev.getD (zeroB 16))]

theorem bodyFits_energyBody (d : MeterDie) (uj pk : BitVec 32) : bodyFits (energyBody d uj pk) := by simp [bodyFits, energyBody]

/-- The record of an interval, with its flags. -/
def energyRecord (d : MeterDie) (uj pk : BitVec 32) (flags : Nat) (sig : Bytes) : Bytes :=
  meterHead 1 flags (d.seq + 1).toNat (energyBody d uj pk) ++ sliceB sig 0 96

/-- The die once the record of an interval has been sent. -/
def energySent (d : MeterDie) (r : Bytes) : MeterDie := { d with
  seq := d.seq + 1, first := false, prev := some ((sha384 r).take 16), checked := d.checking
  tags := d.newTags.foldl (fun (v : Vector W64 8) x => vset v x.1 x.2) d.tags
  tagSeq := d.tagSeq + BitVec.ofNat 32 d.newTags.length, changed := !d.newTags.isEmpty, newTags := [], sent := d.sent ++ [r] }

section
variable {t : Nat} {uj pk : BitVec 32} {fault : Bool} {sig : Bytes} {s : State}

theorem exec_energy_of_unpowered (h : s.meter.die.powered = false) : exec (.energy t uj pk fault sig) s = .next (tick t s) := by
  show execEnergy t uj pk fault sig s = _
  simp [execEnergy, h]

/-- FLAGS of the interval's record (R496). -/
def energyFlags (d : MeterDie) (uj pk : BitVec 32) (fault : Bool) : Nat :=
  let bit (x : Bool) (i : Nat) : Nat := if x then 2 ^ i else 0
  bit d.first 0 + bit (decide (3300000 < uj.toNat) || decide (3300000 < pk.toNat)) 1 + bit fault 2 + bit (d.checking || d.checked) 3 +
    bit (d.result != 0) 4 + bit d.changed 5

theorem exec_energy_of_powered (h : s.meter.die.powered = true) : exec (.energy t uj pk fault sig) s =
    .next (setDie (tick t s) (energySent s.meter.die (energyRecord s.meter.die uj pk (energyFlags s.meter.die uj pk fault) sig))) := by
  show execEnergy t uj pk fault sig s = _
  unfold execEnergy
  extract_lets u d seq b flags r d1
  have hr : r = energyRecord s.meter.die uj pk (energyFlags s.meter.die uj pk fault) sig := by
    have hbody : energyBody d uj pk = [(16, natLe 4 uj.toNat), (20, natLe 4 pk.toNat), (24, natLe 4 d.tagSeq.toNat),
        (32, d.tags.toList.flatMap (fun (x : W64) => natLe 8 x.toNat)), (96, match d.prev with | some p => p | none => zeroB 16)] := by
      unfold energyBody
      cases d.prev <;> rfl
    rw [energyRecord, show s.meter.die = d from rfl, hbody]
    rfl
  rw [if_neg (by simp [d, u, h]), ← hr]
  rfl

/-- An ENERGY record carries its number, the energy and the peak of its interval, and the number of its tags. -/
theorem energyRecord_fields (d : MeterDie) (uj pk : BitVec 32) (flags : Nat) (sig : Bytes) :
    fieldU (energyRecord d uj pk flags sig) 8 8 = (d.seq + 1).toNat ∧ fieldU (energyRecord d uj pk flags sig) 16 4 = uj.toNat ∧
      fieldU (energyRecord d uj pk flags sig) 20 4 = pk.toNat ∧ fieldU (energyRecord d uj pk flags sig) 24 4 = d.tagSeq.toNat ∧
      fieldU (energyRecord d uj pk flags sig) 6 1 = 1 := by
  have hb := bodyFits_energyBody d uj pk
  refine ⟨record_seq hb (d.seq + 1).isLt _, ?_, ?_, ?_, record_kind hb (by decide) _⟩
  · exact (record_field (pre := []) hb (by simp) (by simp) _).trans (leNat_natLe uj.isLt)
  · exact (record_field (pre := [_]) hb (by simp) (by simp) _).trans (leNat_natLe pk.isLt)
  · exact (record_field (pre := [_, _]) hb (by simp) (by simp) _).trans (leNat_natLe d.tagSeq.isLt)

theorem exec_meterPowerUp_of_powered (h : s.meter.die.powered = true) : exec (.meterPowerUp t) s = .next (tick t s) := by
  show execMeterPowerUp t s = _
  simp [execMeterPowerUp, h]

theorem exec_meterPowerUp_of_unpowered (h : s.meter.die.powered = false) : ∃ skip, exec (.meterPowerUp t) s =
    .next (setDie (tick t s).fresh.2 { MeterDie.made with
      powered := true, seq := s.meter.die.seq + skip, checking := true, checked := true, upAt := ((max s.now t : Nat) : Int) }) := by
  have hoff : ¬ s.meter.die.powered = true := by simp [h]
  exact ⟨_, if_neg hoff⟩

end

-- Requests (R499 to R504)

section
variable {s : State} {who : Requester} {p : Fin 8} {cmd : Nat}

/-- A request of one of its writers is accepted at once, and leaves the window as it was. -/
theorem meterAccept_meterReq (hpend : s.meter.win.pend = none) (hmay : meterMay who cmd = true) (hcmd : cmd < 256)
    (hon : s.meter.die.powered = true) : meterAccept (meterReq s who cmd p) cmd = meterServe s cmd p s.meter.win.arg := by
  have hwin : { s.meter.win with pend := none } = s.meter.win := by rw [← hpend]
  have hreq : meterReq s who cmd p = setWin s { s.meter.win with pend := some (BitVec.ofNat 8 cmd, p, s.meter.win.arg) } := by
    simp [meterReq, hpend, hmay]
  have hback : setWin (setWin s { s.meter.win with pend := some (BitVec.ofNat 8 cmd, p, s.meter.win.arg) }) { s.meter.win with pend := none } = s := by
    rw [hwin]
    rfl
  have hnum : (BitVec.ofNat 8 cmd).toNat = cmd := Nat.mod_eq_of_lt hcmd
  rw [hreq]
  simp only [meterAccept, setWin, hnum, hon, and_self, if_true]
  exact congrArg (meterServe · cmd p s.meter.win.arg) hback

theorem meterReq_of_not_may (h : meterMay who cmd = false) : meterReq s who cmd p = s := by simp [meterReq, h]

theorem meterAccept_of_no_request (h : s.meter.win.pend = none) : meterAccept s cmd = s := by simp [meterAccept, h]

end

/-- The record channel has taken records; nothing else of the die or of the window has changed. -/
structure RecordsSent (l : List Bytes) (s u : State) : Prop where
  die : u.meter.die = { s.meter.die with sent := s.meter.die.sent ++ l }
  win : u.meter.win = s.meter.win

namespace RecordsSent

theorem append {l m : List Bytes} {s u v : State} (h1 : RecordsSent l s u) (h2 : RecordsSent m u v) : RecordsSent (l ++ m) s v :=
  ⟨by rw [h2.die, h1.die, List.append_assoc], h2.win.trans h1.win⟩

theorem fresh (s : State) : RecordsSent [] s s.fresh.2 := ⟨by rw [List.append_nil]; rfl, rfl⟩

end RecordsSent

/-- A response is one record of its kind. -/
theorem sendResponse_sent (s : State) (kind : Nat) (body : List (Nat × Bytes)) :
    ∃ sig, RecordsSent [meterHead kind 0 s.meter.die.seq.toNat body ++ sig] s (sendResponse s kind body) := ⟨_, rfl, rfl⟩

/-- IDENT is answered by its two records (R499). -/
theorem meterServe_ident (s : State) (p : Fin 8) (k : W64) : ∃ a b, RecordsSent [a, b] s (meterServe s 1 p k) ∧ fieldU a 6 1 = 2 ∧ fieldU b 6 1 = 3 := by
  obtain ⟨x, hx⟩ := sendResponse_sent s 2 [(16, meterBytes 0 104)]
  obtain ⟨y, hy⟩ := sendResponse_sent (sendResponse s 2 [(16, meterBytes 0 104)]) 3
    [(16, swid), (28, natLe 4 0x5E1CA7D2), (32, meterBytes 104 96)]
  exact ⟨_, _, hx.append hy, record_kind (by simp [bodyFits]) (by decide) x, record_kind (by simp [bodyFits]) (by decide) y⟩

theorem meterServe_status (s : State) (p : Fin 8) (k : W64) : ∃ a, RecordsSent [a] s (meterServe s 3 p k) ∧ fieldU a 6 1 = 4 := by
  obtain ⟨x, hx⟩ := sendResponse_sent s.fresh.2 4 [(16, natLe 4 (meterSeconds s)),
    (20, [Config.responseByte s.fresh.1 0, Config.responseByte s.fresh.1 1]), (22, [s.meter.die.result]), (24, natLe 8 s.meter.die.discards.toNat)]
  exact ⟨_, (RecordsSent.fresh s).append hx, record_kind (by simp [bodyFits]) (by decide) x⟩

theorem meterServe_setTag {s : State} (h : s.meter.die.powered = true) (p : Fin 8) (k : W64) :
    meterServe s 2 p k = setDie s { s.meter.die with newTags := s.meter.die.newTags ++ [(p, k)] } := by
  show meterTag s p k = _
  simp only [meterTag, h, if_true, setDie]

/-- A self-check begins, unless another is under way or has ended a short time ago (R501). -/
theorem meterServe_selfCheck {s : State} (h : checkBusy s = false) (p : Fin 8) (k : W64) :
    meterServe s 4 p k = setDie s { s.meter.die with checking := true, checked := true } := if_neg (by simp [h])

theorem meterServe_refused {s : State} (h : checkBusy s = true) (p : Fin 8) (k : W64) :
    ∃ a, RecordsSent [a] s (meterServe s 4 p k) ∧ fieldU a 6 1 = 5 ∧ fieldU a 18 1 = 1 := by
  have hbody : bodyFits [(16, [s.meter.die.result]), (17, [s.meter.die.rails]), (18, [1])] := by simp [bodyFits]
  obtain ⟨x, hx⟩ := sendResponse_sent s 5 [(16, [s.meter.die.result]), (17, [s.meter.die.rails]), (18, [1])]
  have hserve : meterServe s 4 p k = sendResponse s 5 [(16, [s.meter.die.result]), (17, [s.meter.die.rails]), (18, [1])] := if_pos h
  rw [← hserve] at hx
  exact ⟨_, hx, record_kind hbody (by decide) x, record_field (pre := [_, _]) hbody (by simp) (by simp) x⟩

-- Self-checks (R501)

section
variable {t : Nat} {res rails : BitVec 8} {s : State}

theorem exec_periodicSelfCheck_of_idle (hon : s.meter.die.powered = true) (h : s.meter.die.checking = false) :
    exec (.periodicSelfCheck t) s = .next (setDie (tick t s) { s.meter.die with checking := true, checked := true }) := by
  show execPeriodicSelfCheck t s = _
  simp [execPeriodicSelfCheck, hon, h]

theorem exec_periodicSelfCheck_of_checking (h : s.meter.die.checking = true) : exec (.periodicSelfCheck t) s = .next (tick t s) := by
  show execPeriodicSelfCheck t s = _
  simp [execPeriodicSelfCheck, h]

theorem exec_check_of_idle (h : s.meter.die.checking = false) : exec (.check t res rails) s = .next (tick t s) := by
  show execCheck t res rails s = _
  simp [execCheck, h]

/-- The state once a self-check has ended, before its response. -/
def checkEnded (s : State) (res rails : BitVec 8) : State := setDie s { s.meter.die with
  checking := false, result := res &&& 0xF, rails := rails &&& 0x3F, checkAt := some (s.now : Int) }

theorem exec_check_of_checking (h : s.meter.die.checking = true) : ∃ u a, exec (.check t res rails) s = .next u ∧
    RecordsSent [a] (checkEnded (tick t s) res rails) u ∧ fieldU a 6 1 = 5 ∧ fieldU a 16 1 = (res &&& 0xF).toNat := by
  have hbody : bodyFits [(16, [res &&& 0xF]), (17, [rails &&& 0x3F])] := by simp [bodyFits]
  obtain ⟨x, hx⟩ := sendResponse_sent (checkEnded (tick t s) res rails) 5 [(16, [res &&& 0xF]), (17, [rails &&& 0x3F])]
  have hexec : exec (.check t res rails) s =
      .next (sendResponse (checkEnded (tick t s) res rails) 5 [(16, [res &&& 0xF]), (17, [rails &&& 0x3F])]) := by
    show execCheck t res rails s = _
    simp [execCheck, h, checkEnded]
  exact ⟨_, _, hexec, hx, record_kind hbody (by decide) x, record_field (pre := []) hbody (by simp) (by simp) x⟩

end

-- The record window (R498, R502 to R504)

/-- A record has been taken off the channel. -/
def recordTaken (s : State) (rest : List Bytes) : State := setDie s { s.meter.die with sent := rest }

/-- The window has heard of the meter now. -/
def meterHeard (s : State) : State := setWin s { s.meter.win with live := true, lastAt := s.now, silent := false }

section
variable {t : Nat} {s : State} {r : Bytes} {rest : List Bytes}

theorem exec_meterRecord_of_none (h : s.meter.die.sent = []) : exec (.meterRecord t) s = .next (tick t s) := by
  show execMeterRecord t s = _
  simp [execMeterRecord, h]

theorem exec_meterRecord_of_off (h : s.meter.die.sent = r :: rest) (hoff : domOn s 94 = false) :
    exec (.meterRecord t) s = .next (recordTaken (tick t s) rest) := by
  have hoff' : (!domOn (recordTaken (tick t s) rest) 94) = true := congrArg not hoff
  show execMeterRecord t s = _
  unfold execMeterRecord
  extract_lets u
  rw [show u.meter.die.sent = r :: rest from h]
  exact if_pos hoff'

/-- The response that a record of kind 2 to 5 leaves in the window (R504). -/
def responseStored (s : State) (n : Fin 4) (r : Bytes) : State := setWin s { s.meter.win with resp := vset s.meter.win.resp n (slotBytes s r) }

theorem exec_meterRecord_of_response (h : s.meter.die.sent = r :: rest) (hon : domOn s 94 = true) (hk : 2 ≤ fieldU r 6 1 ∧ fieldU r 6 1 < 6) :
    exec (.meterRecord t) s = .next (responseStored (meterHeard (recordTaken (tick t s) rest)) ⟨fieldU r 6 1 - 2, by omega⟩ r) := by
  have hon' : ¬ (!domOn (recordTaken (tick t s) rest) 94) = true := by rw [show domOn (recordTaken (tick t s) rest) 94 = true from hon]; decide
  show execMeterRecord t s = _
  unfold execMeterRecord
  extract_lets u
  rw [show u.meter.die.sent = r :: rest from h]
  exact (if_neg hon').trans (dif_pos hk)

theorem exec_meterRecord_of_energy (h : s.meter.die.sent = r :: rest) (hon : domOn s 94 = true) (hk : ¬ (2 ≤ fieldU r 6 1 ∧ fieldU r 6 1 < 6)) :
    exec (.meterRecord t) s = .next (storeEnergy (meterHeard (recordTaken (tick t s) rest)) r) := by
  have hon' : ¬ (!domOn (recordTaken (tick t s) rest) 94) = true := by rw [show domOn (recordTaken (tick t s) rest) 94 = true from hon]; decide
  show execMeterRecord t s = _
  unfold execMeterRecord
  extract_lets u
  rw [show u.meter.die.sent = r :: rest from h]
  exact (if_neg hon').trans (dif_neg hk)

end

/-- GAPS after a record of number seq (R502). -/
def gapsAfter (w : MeterWin) (seq : Nat) : W64 :=
  if w.any = true ∧ seq ≠ (w.head + 1).toNat then w.gaps + (BitVec.ofNat 64 seq - (w.head + 1)) else w.gaps

/-- The window as an ENERGY record leaves it. -/
def energyWin (s : State) (r : Bytes) : MeterWin :=
  let w := s.meter.win
  { w with
    ring := alPut w.ring (fieldU r 8 8 % 32768) (some (slotBytes s r)), head := BitVec.ofNat 64 (fieldU r 8 8), any := true
    gaps := gapsAfter w (fieldU r 8 8), restart := w.restart || bitAt (fieldU r 7 1) 0, fault := bitAt (fieldU r 7 1) 4
    chk := bitAt (fieldU r 7 1) 3 }

/-- Storing an ENERGY record changes the window, and logs. -/
theorem storeEnergy_logOnly (s : State) (r : Bytes) : LogOnly (setWin s (energyWin s r)) (storeEnergy s r) := by
  have hwant : BitVec.ofNat 64 (s.meter.win.head + 1).toNat = s.meter.win.head + 1 := BitVec.ofNat_toNat ..
  have hgaps : (if (s.meter.win.any && fieldU r 8 8 != (s.meter.win.head + 1).toNat) = true then
      s.meter.win.gaps + (BitVec.ofNat 64 (fieldU r 8 8) - BitVec.ofNat 64 (s.meter.win.head + 1).toNat) else s.meter.win.gaps) =
      gapsAfter s.meter.win (fieldU r 8 8) := by
    rw [hwant, gapsAfter]
    simp only [Bool.and_eq_true, bne_iff_ne]
  unfold storeEnergy energyWin
  extract_lets w seq flags want gap w1 s1 s2 s3
  rw [← hgaps]
  have h2 : LogOnly s1 s2 := .ite (.logEv ..) (.refl _)
  have h3 : LogOnly s1 s3 := .ite (h2.trans (.logEv ..)) h2
  exact .ite (h3.trans (.logEv ..)) h3

theorem exec_meterSilent_of_due {t : Nat} {s : State} (hon : domOn s 92 = true) (hheard : s.meter.win.silent = false)
    (hlate : s.meter.win.lastAt + 10000000 ≤ max s.now t) : exec (.meterSilent t) s =
      .next (logEv (setWin (tick t s) { s.meter.win with live := false, silent := true }) 0x0500 0xA003 15 (payload [])) := by
  show execMeterSilent t s = _
  simp [execMeterSilent, hon, hheard, elapsed, hlate]

theorem exec_meterSilent_of_silent {t : Nat} {s : State} (h : s.meter.win.silent = true) : exec (.meterSilent t) s = .next (tick t s) := by
  show execMeterSilent t s = _
  simp [execMeterSilent, h]

-- The requests of the scheduler core and of other writers (R503)

section
variable {t : Nat} {p : Fin 8} {s : State} (hon : s.meter.die.powered = true) (hpend : s.meter.win.pend = none)
include hon hpend

theorem exec_ident_of_sched : exec (.ident t .sched) s = .next (meterServe (tick t s) 1 0 s.meter.win.arg) :=
  congrArg Host.Outcome.next (meterAccept_meterReq (s := tick t s) hpend rfl (by decide) hon)

theorem exec_setTag_of_sched : exec (.setTag t .sched p) s = .next (meterServe (tick t s) 2 p s.meter.win.arg) :=
  congrArg Host.Outcome.next (meterAccept_meterReq (s := tick t s) hpend rfl (by decide) hon)

theorem exec_readStatus_of_sched : exec (.readStatus t .sched) s = .next (meterServe (tick t s) 3 0 s.meter.win.arg) :=
  congrArg Host.Outcome.next (meterAccept_meterReq (s := tick t s) hpend rfl (by decide) hon)

theorem exec_selfCheck_of_sched : exec (.selfCheck t .sched) s = .next (meterServe (tick t s) 4 0 s.meter.win.arg) :=
  congrArg Host.Outcome.next (meterAccept_meterReq (s := tick t s) hpend rfl (by decide) hon)

end

theorem exec_setTag_of_pmc (t : Nat) (p : Fin 8) (s : State) : exec (.setTag t .pmc p) s = .next (meterAccept (tick t s) 2) :=
  congrArg (fun u => Host.Outcome.next (meterAccept u 2)) (meterReq_of_not_may (by decide))

/-- Settles O57: the die's records are blankRecord under their bodies (record_field), an accepted request is meterServe
(meterAccept_meterReq), and a record that arrives leaves the window energyWin or responseStored. -/
theorem theMeterMetersAndAnswers : Obligations.TheMeterMetersAndAnswers := by
  unfold Obligations.TheMeterMetersAndAnswers
  intro t uj pk fault sig who p res rails s
  refine ⟨fun hoff => ?_, fun hon => ⟨exec_meterPowerUp_of_powered hon, ?_, fun hpend hwho => ?_, fun hidle => exec_periodicSelfCheck_of_idle hon hidle,
    exec_periodicSelfCheck_of_checking⟩, fun hwho => ?_, exec_check_of_idle, fun hcheck => ?_, exec_meterRecord_of_none,
    fun r rest hsent => ⟨fun hoff => exec_meterRecord_of_off hsent hoff, fun hon => ?_⟩, exec_meterSilent_of_due, exec_meterSilent_of_silent⟩
  · obtain ⟨skip, hexec⟩ := exec_meterPowerUp_of_unpowered (t := t) hoff
    exact ⟨exec_energy_of_unpowered hoff, _, hexec, rfl, rfl, rfl, rfl, rfl, rfl, rfl⟩
  · obtain ⟨hseq, huj, hpk, htag, hkind⟩ := energyRecord_fields s.meter.die uj pk (energyFlags s.meter.die uj pk fault) sig
    exact ⟨_, _, exec_energy_of_powered hon, rfl, rfl, rfl, hseq, huj, hpk, htag, hkind, rfl, rfl, rfl, rfl, rfl, rfl⟩
  · subst hwho
    refine ⟨?_, ?_, ?_, fun hfree => ?_, fun hbusy => ?_⟩
    · rw [exec_setTag_of_sched hon hpend, meterServe_setTag (s := tick t s) hon]
      rfl
    · obtain ⟨a, b, h, ha, hb⟩ := meterServe_ident (tick t s) 0 s.meter.win.arg
      exact ⟨_, a, b, exec_ident_of_sched hon hpend, by rw [h.die]; rfl, ha, hb, h.win⟩
    · obtain ⟨a, h, ha⟩ := meterServe_status (tick t s) 0 s.meter.win.arg
      exact ⟨_, a, exec_readStatus_of_sched hon hpend, by rw [h.die]; rfl, ha, h.win⟩
    · rw [exec_selfCheck_of_sched hon hpend, meterServe_selfCheck hfree]
      rfl
    · obtain ⟨a, h, ha, hwhy⟩ := meterServe_refused hbusy 0 s.meter.win.arg
      exact ⟨_, a, exec_selfCheck_of_sched hon hpend, by rw [h.die]; rfl, ha, hwhy, by rw [h.die]; rfl⟩
  · subst hwho
    refine ⟨exec_setTag_of_pmc t p s, fun hpend => ?_⟩
    rw [exec_setTag_of_pmc, meterAccept_of_no_request (s := tick t s) hpend]
  · obtain ⟨u, a, hexec, h, hkind, hres⟩ := exec_check_of_checking (t := t) (res := res) (rails := rails) hcheck
    exact ⟨u, a, hexec, by rw [h.die]; rfl, by rw [h.die]; rfl, by rw [h.die]; rfl, by rw [h.die]; rfl, by rw [h.die]; rfl, hkind, hres⟩
  · by_cases hk : 2 ≤ fieldU r 6 1 ∧ fieldU r 6 1 < 6
    · refine ⟨_, exec_meterRecord_of_response hsent hon hk, rfl, rfl, rfl, rfl, fun h1 => by omega, fun h4 => ⟨?_, rfl⟩, rfl⟩
      have hn : (⟨fieldU r 6 1 - 2, by omega⟩ : Fin 4) = 2 := Fin.ext (by simp [h4])
      rw [hn]
      exact (vset_get _ 2 2 _).trans (if_pos rfl)
    · have h := storeEnergy_logOnly (meterHeard (recordTaken (tick t s) rest)) r
      refine ⟨_, exec_meterRecord_of_energy hsent hon hk, by rw [h.meter]; rfl, by rw [h.meter]; rfl, by rw [h.meter]; rfl, by rw [h.meter]; rfl,
        fun _ => ?_, fun h4 => absurd h4 (by omega), by rw [h.slots]; rfl⟩
      rw [h.meter]
      exact ⟨rfl, rfl, rfl, rfl⟩

end Sys2Proof.Machine
end

section
/-! PROOFS. Owner commands (R475 to R477): who may give a command, and what each one writes. -/

namespace Sys2Proof.Machine

-- Commands in a session (R475)

theorem secServes_tick (t : Nat) (s : State) : secServes (tick t s) = secServes s := rfl
theorem alarmLevel_tick (t : Nat) (s : State) : alarmLevel (tick t s) = alarmLevel s := rfl

section
variable {s : State} {role : Role} {may : Bool} {code : Nat} {f : State → State}

theorem secCommand_of_unheard (h : secServes s = false ∨ hasSession s role = false) : secCommand s role may code f = s :=
  if_pos (by rcases h with h | h <;> simp [h])

variable (hserv : secServes s = true) (hsess : hasSession s role = true)
include hserv hsess

theorem secCommand_of_alarm (h : alarmLevel s ≠ 0) : secCommand s role may code f = refuseCmd s code 1 := by
  simp [secCommand, hserv, hsess, h]

theorem secCommand_of_not_may (halarm : alarmLevel s = 0) (h : may = false) : secCommand s role may code f = refuseCmd s code 3 := by
  simp [secCommand, hserv, hsess, halarm, h]

theorem secCommand_of_may (halarm : alarmLevel s = 0) (h : may = true) : secCommand s role may code f = f s := by
  simp [secCommand, hserv, hsess, halarm, h]

end

/-- The commands that only an owner may give, but for SET_OWNER in an unowned package, with their codes. -/
def ownerCommands (t : Nat) (role : Role) (b key : Bytes) (m : BitVec 8) (p : Fin 8) (n : Nat) (ok : Bool) : List (Instr × Nat) :=
  [(.setOwner t role b ok, 1), (.authKey t role key m, 2), (.revokeKey t role key, 3), (.grantSlot t role p key, 4),
    (.raiseFloor t role n, 6), (.enableRetire t role, 8)]

section
variable {t : Nat} {role : Role} {b key : Bytes} {m : BitVec 8} {p : Fin 8} {n : Nat} {ok : Bool} {i : Instr} {code : Nat} {s : State}

/-- Each of them is a command in a session of its role. -/
theorem exec_ownerCommand (hi : (i, code) ∈ ownerCommands t role b key m p n ok) (s : State) : ∃ f,
    exec i s = .next (secCommand (tick t s) role ((code == 1 && s.sec.owner.isNone) || role == .owner) code f) := by
  simp only [ownerCommands, List.mem_cons, Prod.mk.injEq, List.not_mem_nil, or_false] at hi
  rcases hi with ⟨rfl, rfl⟩ | ⟨rfl, rfl⟩ | ⟨rfl, rfl⟩ | ⟨rfl, rfl⟩ | ⟨rfl, rfl⟩ | ⟨rfl, rfl⟩ <;> exact ⟨_, rfl⟩

/-- The code names the command. -/
theorem ownerCommand_of_code (hi : (i, code) ∈ ownerCommands t role b key m p n ok) :
    (code = 1 → i = .setOwner t role b ok) ∧ (code = 2 → i = .authKey t role key m) ∧ (code = 3 → i = .revokeKey t role key) ∧
      (code = 4 → i = .grantSlot t role p key) ∧ (code = 6 → i = .raiseFloor t role n) ∧ (code = 8 → i = .enableRetire t role) := by
  simp only [ownerCommands, List.mem_cons, Prod.mk.injEq, List.not_mem_nil, or_false] at hi
  refine ⟨?_, ?_, ?_, ?_, ?_, ?_⟩ <;> rintro rfl <;> simpa using hi

end

-- What an accepted command does (R476)

section
variable {t : Nat} {role : Role} {s : State} (hserv : secServes s = true) (hsess : hasSession s role = true) (halarm : alarmLevel s = 0)
include hserv hsess halarm

/-- A command that its role may give runs on the state at its arrival. -/
theorem secCommand_tick {may : Bool} (h : may = true) (code : Nat) (f : State → State) :
    secCommand (tick t s) role may code f = f (tick t s) := secCommand_of_may hserv hsess halarm h

theorem exec_setOwner_of_unowned {b : Bytes} (hnone : s.sec.owner = none) (hb : ownerOk b = true) (ok : Bool) :
    exec (.setOwner t role b ok) s = .next (cmdReply (writeOwner (tick t s) b) 1 0 []) := by
  show execSetOwner t role b ok s = _
  rw [execSetOwner, secCommand_tick hserv hsess halarm (by simp [hnone])]
  simp [hnone, hb]

end

section
variable {t : Nat} {s : State} (hserv : secServes s = true) (hsess : hasSession s .owner = true) (halarm : alarmLevel s = 0)
include hserv hsess halarm

theorem exec_setOwner_of_signed {b : Bytes} (hb : ownerOk b = true) :
    exec (.setOwner t .owner b true) s = .next (cmdReply (writeOwner (tick t s) b) 1 0 []) := by
  show execSetOwner t .owner b true s = _
  rw [execSetOwner, secCommand_tick hserv hsess halarm (by simp)]
  simp [hb]

theorem exec_grantSlot_of_empty {p : Fin 8} (hp : (s.slot p).st = .empty) (key : Bytes) : exec (.grantSlot t .owner p key) s =
    .next (cmdReply { tick t s with sec := { s.sec with grants := vset s.sec.grants p (some (sliceB key 0 48)) } } 4 0 []) := by
  show execGrantSlot t .owner p key s = _
  rw [execGrantSlot, secCommand_tick hserv hsess halarm (beq_self_eq_true _)]
  simp [hp]

variable {r key : Bytes} (howner : s.sec.owner = some r)
include howner

theorem exec_authKey_of_entry {e : Nat} (he : keyEntry r key = some e) (m : BitVec 8) : exec (.authKey t .owner key m) s =
    .next (cmdReply (writeOwner (tick t s) (patchB r (176 + 64 * e) (keyBytes key m))) 2 0 []) := by
  show execAuthKey t .owner key m s = _
  rw [execAuthKey, secCommand_tick hserv hsess halarm (beq_self_eq_true _)]
  simp [howner, he]

theorem exec_authKey_of_new (hnew : keyEntry r key = none) (hroom : fieldU r 13 1 < 32) (m : BitVec 8) : exec (.authKey t .owner key m) s =
    .next (cmdReply (writeOwner (tick t s)
      (patchB (patchB r (176 + 64 * fieldU r 13 1) (keyBytes key m)) 13 (natLe 1 (fieldU r 13 1 + 1)))) 2 0 []) := by
  show execAuthKey t .owner key m s = _
  rw [execAuthKey, secCommand_tick hserv hsess halarm (beq_self_eq_true _)]
  simp [howner, hnew, Nat.not_le.mpr hroom]

/-- The record without entry e: the entries after it move down. -/
def entryRemoved (r : Bytes) (e : Nat) : Bytes :=
  patchB (patchB r 176 (sliceB r 176 (64 * e) ++ sliceB r (176 + 64 * (e + 1)) (64 * (31 - e)) ++ zeroB 64)) 13 (natLe 1 (fieldU r 13 1 - 1))

theorem exec_revokeKey_of_entry {e : Nat} (he : keyEntry r key = some e) : exec (.revokeKey t .owner key) s =
    .next (cmdReply (writeOwner (tick t s) (entryRemoved r e)) 3 0 []) := by
  show execRevokeKey t .owner key s = _
  rw [execRevokeKey, secCommand_tick hserv hsess halarm (beq_self_eq_true _)]
  simp [howner, he, entryRemoved]

theorem exec_revokeKey_of_none (he : keyEntry r key = none) : exec (.revokeKey t .owner key) s = .next (cmdReply (tick t s) 3 0 []) := by
  show execRevokeKey t .owner key s = _
  rw [execRevokeKey, secCommand_tick hserv hsess halarm (beq_self_eq_true _)]
  simp [howner, he]

theorem exec_raiseFloor_of_higher {n : Nat} (h : fieldU r 8 4 < n) (hn : n < 2 ^ 32) : exec (.raiseFloor t .owner n) s =
    .next (cmdReply (writeOwner (tick t s) (patchB r 8 (natLe 4 n))) 6 0 []) := by
  show execRaiseFloor t .owner n s = _
  rw [execRaiseFloor, secCommand_tick hserv hsess halarm (beq_self_eq_true _)]
  simp only [tick_sec, howner]
  rw [if_neg (by omega)]

theorem exec_raiseFloor_of_not_higher {n : Nat} (h : n ≤ fieldU r 8 4) : exec (.raiseFloor t .owner n) s = .next (refuseCmd (tick t s) 6 3) := by
  show execRaiseFloor t .owner n s = _
  rw [execRaiseFloor, secCommand_tick hserv hsess halarm (beq_self_eq_true _)]
  simp only [tick_sec, howner]
  rw [if_pos (.inl h)]

theorem exec_enableRetire_of_clear (h : bitAt (fieldU r 12 1) 1 = false) : exec (.enableRetire t .owner) s =
    .next (cmdReply (writeOwner (tick t s) (patchB r 12 (natLe 1 (fieldU r 12 1 + 2)))) 8 0 []) := by
  show execEnableRetire t .owner s = _
  rw [execEnableRetire, secCommand_tick hserv hsess halarm (beq_self_eq_true _)]
  simp [howner, h]

end

-- Writing the record (R476)

/-- A record under the version that follows the flash's counter. -/
def versioned (s : State) (b : Bytes) : Bytes := patchB b 4 (natLe 4 (s.sec.flash.rpmc1 + 1).toNat)

theorem writeOwner_logOnly (s : State) (b : Bytes) : LogOnly { s with sec := { s.sec with
    owner := some (versioned s b)
    flash := { s.sec.flash with
      ownerA := some (ownerRecord (versioned s b)), ownerB := some (ownerRecord (versioned s b)), rpmc1 := s.sec.flash.rpmc1 + 1 } } }
    (writeOwner s b) := .logEv ..

theorem cmdReply_sec (s : State) (code st : Nat) (data : Bytes) : (cmdReply s code st data).sec = s.sec := rfl

/-- Settles O51: each command is secCommand with the right that its role has (exec_ownerCommand), and what an accepted one writes is
writeOwner. -/
theorem ownerCommandsWriteTheRecord : Obligations.OwnerCommandsWriteTheRecord := by
  unfold Obligations.OwnerCommandsWriteTheRecord
  intro t role s b key m p n ok i code hi
  obtain ⟨f, hexec⟩ := exec_ownerCommand hi s
  obtain ⟨hset, hauth, hrevoke, hgrant, hfloor, hretire⟩ := ownerCommand_of_code hi
  have hw := (writeOwner_logOnly (tick t s) b).sec
  refine ⟨fun h => ?_, fun hserv hsess halarm => ?_, fun hserv hsess halarm hrole hmay => ?_, fun hserv hsess halarm => ⟨?_, ?_, ?_, ?_⟩,
    ⟨by rw [hw]; rfl, by rw [hw]; rfl⟩, by rw [hw], by rw [hw]; rfl⟩
  · rw [hexec, secCommand_of_unheard (s := tick t s) h]
  · rw [hexec, secCommand_of_alarm (s := tick t s) hserv hsess halarm]
  · have hno : ((code == 1 && s.sec.owner.isNone) || role == .owner) = false := by
      rcases hmay with h | h
      · simp [h, hrole]
      · simp [Option.isSome_iff_ne_none.mpr h, hrole]
    rw [hexec, secCommand_of_not_may (s := tick t s) hserv hsess halarm hno]
  · rintro hcode hnone hb
    rw [hset hcode, exec_setOwner_of_unowned hserv hsess halarm hnone hb]
  · rintro hcode rfl - hb rfl
    rw [hset hcode, exec_setOwner_of_signed hserv hsess halarm hb]
  · rintro r rfl howner
    refine ⟨fun e he => ⟨fun hcode => ?_, fun hcode => ?_⟩, fun he hcode => ?_, fun he hcode hroom => ?_, fun hcode hlt hn => ?_,
      fun hcode hle => ?_, fun hcode hclear => ?_⟩
    · rw [hauth hcode, exec_authKey_of_entry hserv hsess halarm howner he]
    · have hw' := writeOwner_logOnly (tick t s) (entryRemoved r e)
      refine ⟨_, (congrArg (exec · s) (hrevoke hcode)).trans (exec_revokeKey_of_entry hserv hsess halarm howner he), ?_, ?_, ?_,
        hw'.mem, hw'.clusters, hw'.slots⟩ <;> rw [cmdReply_sec, hw'.sec] <;> rfl
    · rw [hrevoke hcode, exec_revokeKey_of_none hserv hsess halarm howner he]
    · rw [hauth hcode, exec_authKey_of_new hserv hsess halarm howner he hroom]
    · rw [hfloor hcode, exec_raiseFloor_of_higher hserv hsess halarm howner hlt hn]
    · rw [hfloor hcode, exec_raiseFloor_of_not_higher hserv hsess halarm howner hle]
    · rw [hretire hcode, exec_enableRetire_of_clear hserv hsess halarm howner hclear]
  · rintro hcode rfl hp
    rw [hgrant hcode, exec_grantSlot_of_empty hserv hsess halarm hp]

end Sys2Proof.Machine
end

section
/-! PROOFS. Tenants, debug tokens and SPDM (R468 to R474, R478, R480, R481). -/

namespace Sys2Proof.Machine

/-- The security core's state becomes k; no slot and no memory changes. -/
structure SecBecomes (k : Sec) (s u : State) : Prop where
  sec : u.sec = k
  slots : u.slots = s.slots
  mem : u.mem = s.mem

namespace SecBecomes

theorem andThen {j k : Sec} {s t u : State} (h1 : SecBecomes j s t) (h2 : SecBecomes k t u) : SecBecomes k s u :=
  ⟨h2.sec, h2.slots.trans h1.slots, h2.mem.trans h1.mem⟩

theorem setSec (s : State) (k : Sec) : SecBecomes k s { s with sec := k } := ⟨rfl, rfl, rfl⟩

theorem tick (t : Nat) (s : State) : SecBecomes s.sec s (tick t s) := ⟨rfl, rfl, rfl⟩

theorem fresh (s : State) : SecBecomes s.sec s s.fresh.2 := ⟨rfl, rfl, rfl⟩

theorem freeBytes (s : State) (n : Nat) : SecBecomes s.sec s (freeBytes s n).1 := ⟨rfl, rfl, rfl⟩

theorem log {k : Sec} {s t u : State} (h1 : SecBecomes k s t) (h2 : LogOnly t u) : SecBecomes k s u :=
  ⟨h2.sec.trans h1.sec, h2.slots.trans h1.slots, h2.mem.trans h1.mem⟩

theorem fwTracePoint (s : State) (source part : Nat) (mask : BitVec 256) : SecBecomes s.sec s (fwTracePoint s source part mask) := by
  unfold Machine.fwTracePoint
  extract_lets f n
  split
  · exact ⟨rfl, rfl, rfl⟩
  · split
    · exact (fresh s).log (.logEv ..)
    · exact fresh s

theorem spdmSend (s : State) (via : Option (Fin 16)) (b : Bytes) : SecBecomes s.sec s (spdmSend s via b) := by
  cases via <;> exact ⟨rfl, rfl, rfl⟩

end SecBecomes

theorem length_freeBytes (s : State) (n : Nat) : (freeBytes s n).2.length = n := by simp [freeBytes]

-- Signatures (R468, R472)

/-- BAK-H has signed once more. -/
def bakSigned (s : State) : State := { s with sec := { s.sec with bakUsed := s.sec.bakUsed + 1 } }

theorem signOnce_of_room {s : State} (hbak : s.sec.bak = true) (hroom : s.sec.bakUsed < bakLimit) : signOnce s = some (bakSigned s) :=
  if_pos (by simp [hbak, hroom])

-- Tenants (R478)

theorem exec_bindTenant_of_not_granted {t : Nat} {s : State} {p : Fin 8} {key req qd ct s1 s2 pub : Bytes} (hserv : secServes s = true)
    (hsess : s.sec.sessions ≠ []) (halarm : alarmLevel s = 0) (hgrant : s.sec.grants.get p ≠ some (sliceB key 0 48)) :
    exec (.bindTenant t key p req qd ct s1 s2 pub) s = .next (refuseCmd (tick t s) 5 3) := by
  show execBindTenant t key p req qd ct s1 s2 pub s = _
  simp [execBindTenant, secServes_tick, hserv, hsess, alarmLevel_tick, halarm, hgrant]

/-- A slot bound to a tenant under one more signature, before its answer. -/
def tenantBound (s : State) (p : Fin 8) (x : Tenant) : State :=
  logEv { bakSigned s with sec := { (bakSigned s).sec with tenants := vset s.sec.tenants p (some x) } } 0x0700 0x9007 p.val (payload [])

theorem tenantBound_becomes (s : State) (p : Fin 8) (x : Tenant) : SecBecomes { s.sec with
    bakUsed := s.sec.bakUsed + 1, tenants := vset s.sec.tenants p (some x) } s (tenantBound s p x) :=
  (SecBecomes.setSec s _).log (.logEv ..)

theorem exec_bindTenant_of_granted {t : Nat} {s : State} {p : Fin 8} {key req qd ct s1 s2 pub : Bytes} (hserv : secServes s = true)
    (hsess : s.sec.sessions ≠ []) (halarm : alarmLevel s = 0) (hgrant : s.sec.grants.get p = some (sliceB key 0 48))
    (hempty : (s.slot p).st = .empty) (hbak : s.sec.bak = true) (hroom : s.sec.bakUsed < bakLimit) :
    exec (.bindTenant t key p req qd ct s1 s2 pub) s =
      (let g := freeBytes (tenantBound (tick t s) p (tenantOf key req qd ct s1 s2 pub)) 96
       .next (cmdReply g.1 5 0 (qd ++ ct ++ g.2))) := by
  have hsign : signOnce (tick t s) = some (bakSigned (tick t s)) := signOnce_of_room hbak hroom
  show execBindTenant t key p req qd ct s1 s2 pub s = _
  simp only [execBindTenant, secServes_tick, hserv, alarmLevel_tick, halarm, tick_sec, hgrant, slot_tick, hempty, hsign, List.isEmpty_eq_false_iff.mpr hsess,
    Bool.not_true, Bool.or_self, Bool.false_eq_true, ne_eq, not_true_eq_false, if_false]
  rfl

-- Debug tokens (R480, R481)

/-- Debug opened by a token, before its log entry. -/
def debugOpened (s : State) (k : Token) (dg : Bytes) : State := newNonce { s with
  sec := { s.sec with
    dbg := s.sec.dbg ++ [{ slot := if k.issuer = 2 then tokenSlot k else none, scope := k.scope.setWidth 4, endAt := s.now + k.life * 1000000000 }]
    meas14 := extend s.sec.meas14 (sliceB dg 0 48) }
  clk := { s.clk with en := s.clk.en ||| 0x40 } }

theorem debugOpened_fields {s u : State} {k : Token} {dg : Bytes} (h : LogOnly (debugOpened s k dg) u) :
    u.sec.dbg = s.sec.dbg ++
      [{ slot := if k.issuer = 2 then tokenSlot k else none, scope := k.scope.setWidth 4, endAt := s.now + k.life * 1000000000 }] ∧
    u.sec.meas14 = extend s.sec.meas14 (sliceB dg 0 48) ∧ u.clk.en = s.clk.en ||| 0x40 ∧ u.sec.nonce = (newNonce s).sec.nonce ∧
    u.sec.flash = s.sec.flash ∧ u.slots = s.slots ∧ u.mem = s.mem ∧ u.clusters = s.clusters := by
  rw [h.sec, h.clk, h.slots, h.mem, h.clusters]
  exact ⟨rfl, rfl, rfl, rfl, rfl, rfl, rfl, rfl⟩

theorem presentToken_of_ok {s : State} {k : Token} {ok : Bool} (h : tokenOk s k ok = true) (dg : Bytes) :
    ∃ u, presentToken s k dg ok = (u, true) ∧ LogOnly (debugOpened s k dg) u := by
  refine ⟨(presentToken s k dg ok).1, ?_, ?_⟩ <;> simp only [presentToken, h, if_true]
  exact .logEv ..

theorem presentToken_of_not_ok {s : State} {k : Token} {ok : Bool} (h : tokenOk s k ok = false) (dg : Bytes) :
    presentToken s k dg ok = (authFailure (logEv s 0x0700 0x900A 15 (payload [])), false) := by
  simp [presentToken, h]

section
variable {t : Nat} {s : State} {k : Token} {dg : Bytes} {ok : Bool}

theorem exec_tokenLoad_of_alarm (h : alarmLevel s ≠ 0) : exec (.tokenLoad t k dg ok) s = .next (tick t s) := by
  show execTokenLoad t k dg ok s = _
  simp [execTokenLoad, alarmLevel_tick, h]

variable (hserv : secServes s = true) (halarm : alarmLevel s = 0)
include hserv halarm

theorem exec_tokenLoad_of_no_alarm : exec (.tokenLoad t k dg ok) s = .next (presentToken (tick t s) k dg ok).1 := by
  show execTokenLoad t k dg ok s = _
  simp [execTokenLoad, secServes_tick, hserv, alarmLevel_tick, halarm]

theorem exec_debugOpen_of_role {role : Role} (hsess : hasSession s role = true) (hrole : role ≠ .relying) : exec (.debugOpen t role k dg ok) s =
    .next (cmdReply (presentToken (tick t s) k dg ok).1 7 (if (presentToken (tick t s) k dg ok).2 then 0 else 3) []) := by
  show execDebugOpen t role k dg ok s = _
  rw [execDebugOpen, secCommand_tick hserv hsess halarm (bne_iff_ne.mpr hrole)]

end

theorem closeDebug_becomes (s : State) (f : DbgOpen → Bool) : ∃ n, SecBecomes { s.sec with dbg := s.sec.dbg.filter (fun d => !f d), nonce := n } s
    (closeDebug s f) := by
  unfold closeDebug
  split
  · exact ⟨_, rfl, rfl, rfl⟩
  · next h =>
    refine ⟨s.sec.nonce, ?_, rfl, rfl⟩
    rw [List.filter_eq_self.mpr]
    exact fun d hd => by simpa using fun hf => h (List.any_eq_true.mpr ⟨d, hd, hf⟩)

-- PQ_SIG (R472)

/-- The sessions with the mark of a session's latest response set or cleared. -/
def marked (l : List Session) (session : Option Nat) (b : Bool) : List Session :=
  l.map (fun (y : Session) => if some y.id = session then { y with signed := b } else y)

theorem marked_some (l : List Session) (n : Nat) (b : Bool) :
    marked l (some n) b = l.map (fun (y : Session) => if y.id = n then { y with signed := b } else y) := by
  simp only [marked, Option.some.injEq]

theorem marked_none (l : List Session) (b : Bool) : marked l none b = l := by simp [marked]

/-- The later mark counts. -/
theorem marked_marked (l : List Session) (session : Option Nat) (a b : Bool) : marked (marked l session a) session b = marked l session b := by
  rw [marked, marked, marked, List.map_map]
  refine List.map_congr_left fun y _ => ?_
  by_cases h : some y.id = session <;> simp [h]

theorem any_marked (l : List Session) (session : Option Nat) (b : Bool) (n : Nat) :
    (marked l session b).any (fun x => x.id == n) = l.any (fun x => x.id == n) := by
  rw [marked, List.any_map]
  refine congrArg (List.any l) (funext fun y => ?_)
  by_cases h : some y.id = session <;> simp [h]

/-- A session that is taken away takes its mark along. -/
theorem filter_marked (l : List Session) (n : Nat) (b : Bool) :
    (marked l (some n) b).filter (fun x => x.id != n) = l.filter (fun x => x.id != n) := by
  induction l with
  | nil => rfl
  | cons y r ih =>
    rw [marked_some] at ih ⊢
    by_cases h : y.id = n <;> simp [h, ih]

theorem exec_pqSig_of_signed {t : Nat} {s : State} {role : Role} {x : Session} (hserv : secServes s = true) (halarm : alarmLevel s = 0)
    (hx : s.sec.sessions.find? (fun y => y.role == role && y.signed) = some x) : exec (.pqSig t role) s =
      (let g := freeBytes { tick t s with sec := { s.sec with sessions := marked s.sec.sessions (some x.id) false } } 96
       .next (cmdReply g.1 9 0 g.2)) := by
  show execPqSig t role s = _
  simp only [execPqSig, secServes_tick, hserv, alarmLevel_tick, halarm, tick_sec, hx, marked_some, Bool.not_true, Bool.false_eq_true,
    ne_eq, not_true_eq_false, if_false]

-- SPDM requests (R469 to R474)

/-- A request clears the mark of its session. -/
theorem spdmHeard_becomes (s : State) (session : Option Nat) :
    SecBecomes { s.sec with sessions := marked s.sec.sessions session false } s (spdmHeard s session) := by
  have h := SecBecomes.fwTracePoint s 0x0700 15 (s.sched.masks.get 0)
  have hsec : (spdmHeard s session).sec = { (fwTracePoint s 0x0700 15 (s.sched.masks.get 0)).sec with
      sessions := marked (fwTracePoint s 0x0700 15 (s.sched.masks.get 0)).sec.sessions session false } := rfl
  refine ⟨?_, h.slots, h.mem⟩
  rw [hsec, h.sec]

theorem spdmHeard_of_no_session (s : State) : SecBecomes s.sec s (spdmHeard s none) := by
  have h := spdmHeard_becomes s none
  rwa [marked_none] at h

theorem alarmLevel_congr {s u : State} (h : u.sec.alarms = s.sec.alarms) : alarmLevel u = alarmLevel s := by rw [alarmLevel, h, alarmLevel]

/-- A signed response counts one signature and marks its session (R468, R472). -/
theorem spdmSigned_becomes {s : State} (halarm : alarmLevel s = 0) (hbak : s.sec.bak = true) (hroom : s.sec.bakUsed < bakLimit)
    (via : Option (Fin 16)) (session : Option Nat) (b : Bytes) :
    SecBecomes { s.sec with bakUsed := s.sec.bakUsed + 1, sessions := marked s.sec.sessions session true } s (spdmSigned s via session b) := by
  unfold spdmSigned
  rw [if_neg (by simp [halarm]), signOnce_of_room hbak hroom]
  have h := SecBecomes.spdmSend (freeBytes { bakSigned s with
    sec := { (bakSigned s).sec with sessions := marked s.sec.sessions session true } } 96).1 via
    (b ++ (freeBytes { bakSigned s with sec := { (bakSigned s).sec with sessions := marked s.sec.sessions session true } } 96).2)
  exact ⟨h.sec, h.slots, h.mem⟩

theorem measurement_keeps (s : State) (i : Nat) : SecBecomes s.sec s (measurement s i).1 := by
  unfold measurement
  extract_lets k
  repeat' split
  all_goals exact ⟨rfl, rfl, rfl⟩

theorem chainPortion_congr {s u : State} (h : u.sec = s.sec) (off len : Nat) : chainPortion u off len = chainPortion s off len := by
  have hchain : chainBytes u = chainBytes s := by rw [chainBytes, slotZero, h, chainBytes, slotZero]
  rw [chainPortion, hchain, chainPortion]

theorem roleFor_congr {s u : State} (h : u.sec = s.sec) (want : Role) : roleFor u want = roleFor s want := by
  cases want <;> simp only [roleFor, h]

section
variable {t : Nat} {s : State} {via : Option (Fin 16)}

theorem exec_spdmMessage_of_unreached (h : spdmReaches s via = false) (session : Option Nat) (m : SpdmReq) :
    exec (.spdmMessage t via session m) s = .next (tick t s) := by
  have h' : spdmReaches (tick t s) via = false := by cases via <;> exact h
  show execSpdmMessage t via session m s = _
  simp [execSpdmMessage, h']

theorem spdm_live {n : Nat} (h : s.sec.sessions.any (fun x => x.id == n) = true) :
    ¬ (!(spdmHeard (tick t s) (some n)).sec.sessions.any (fun x => x.id == n)) = true := by
  rw [(spdmHeard_becomes ..).sec, any_marked, tick_sec, h]
  decide

variable (hserv : secServes s = true) (hreach : spdmReaches s via = true)
include hserv hreach

theorem spdm_heard : ¬ (!secServes (tick t s) || !spdmReaches (tick t s) via) = true := by
  have h' : spdmReaches (tick t s) via = true := by cases via <;> exact hreach
  simp [secServes_tick, hserv, h']

theorem exec_spdmMessage_of_unknown {n : Nat} (h : s.sec.sessions.any (fun x => x.id == n) = false) (m : SpdmReq) :
    exec (.spdmMessage t via (some n) m) s = .next (authFailure (spdmHeard (tick t s) (some n))) := by
  have hunknown : (spdmHeard (tick t s) (some n)).sec.sessions.any (fun x => x.id == n) = false := by
    rw [(spdmHeard_becomes ..).sec]
    exact (any_marked ..).trans h
  show execSpdmMessage t via (some n) m s = _
  unfold execSpdmMessage
  extract_lets u v live
  rw [if_neg (spdm_heard hserv hreach)]
  exact if_pos (by simpa [live, v, u] using hunknown)

/-- In a session that exists, an end of the session answers and takes it away. -/
theorem exec_spdmMessage_endSession {n : Nat} (h : s.sec.sessions.any (fun x => x.id == n) = true) :
    exec (.spdmMessage t via (some n) .endSession) s = .next (spdmSend { spdmHeard (tick t s) (some n) with
      sec := { (spdmHeard (tick t s) (some n)).sec with
        sessions := (spdmHeard (tick t s) (some n)).sec.sessions.filter (fun x => x.id != n) } } via []) := by
  show execSpdmMessage t via (some n) .endSession s = _
  unfold execSpdmMessage
  extract_lets u v live
  rw [if_neg (spdm_heard hserv hreach), if_neg (spdm_live h)]

theorem exec_spdmMessage_challenge {n : Nat} (h : s.sec.sessions.any (fun x => x.id == n) = true) :
    exec (.spdmMessage t via (some n) .challenge) s = .next (spdmSigned (spdmHeard (tick t s) (some n)) via (some n) []) := by
  show execSpdmMessage t via (some n) .challenge s = _
  unfold execSpdmMessage
  extract_lets u v live
  rw [if_neg (spdm_heard hserv hreach), if_neg (spdm_live h)]

theorem exec_spdmMessage_other {n : Nat} (h : s.sec.sessions.any (fun x => x.id == n) = true) :
    exec (.spdmMessage t via (some n) .other) s = .next (spdmSend (freeBytes (spdmHeard (tick t s) (some n)) 32).1 via
      (freeBytes (spdmHeard (tick t s) (some n)) 32).2) := by
  show execSpdmMessage t via (some n) .other s = _
  unfold execSpdmMessage
  extract_lets u v live
  rw [if_neg (spdm_heard hserv hreach), if_neg (spdm_live h)]

theorem exec_spdmMessage_getCertificate (off len : Nat) : exec (.spdmMessage t via none (.getCertificate 0 off len)) s =
    .next (spdmSend (spdmHeard (tick t s) none) via (chainPortion s off len)) := by
  have hchain : chainPortion (spdmHeard (tick t s) none) off len = chainPortion s off len :=
    chainPortion_congr (spdmHeard_of_no_session (tick t s)).sec off len
  rw [← hchain]
  show execSpdmMessage t via none (.getCertificate 0 off len) s = _
  unfold execSpdmMessage
  extract_lets u v live
  rw [if_neg (spdm_heard hserv hreach)]
  rfl

theorem exec_spdmMessage_getMeasurements_refused {m : Nat} (h : mayMeasure .relying m = false) :
    exec (.spdmMessage t via none (.getMeasurements m)) s = .next (spdmError (spdmHeard (tick t s) none) via 5) := by
  have hno : (!mayMeasure .relying m) = true := by rw [h]; rfl
  show execSpdmMessage t via none (.getMeasurements m) s = _
  unfold execSpdmMessage
  extract_lets u v live
  rw [if_neg (spdm_heard hserv hreach)]
  exact if_pos hno

theorem exec_spdmMessage_getMeasurements {m : Nat} (h : mayMeasure .relying m = true) :
    exec (.spdmMessage t via none (.getMeasurements m)) s = .next (spdmSigned (measurement (spdmHeard (tick t s) none) m).1 via none
      (natLe 1 m ++ (measurement (spdmHeard (tick t s) none) m).2)) := by
  have hyes : ¬ (!mayMeasure .relying m) = true := by rw [h]; decide
  show execSpdmMessage t via none (.getMeasurements m) s = _
  unfold execSpdmMessage
  extract_lets u v live
  rw [if_neg (spdm_heard hserv hreach)]
  exact if_neg hyes

/-- The signed response to a key exchange has left: it carries the number of the session that opens. -/
def keyExchanged (t : Nat) (s : State) (via : Option (Fin 16)) : State :=
  spdmSigned (spdmHeard (tick t s) none) via none (natLe 4 s.sec.nextSess)

/-- The session that a key exchange opens, with fresh keys. -/
def newSession (s u : State) (want : Role) (via : Option (Fin 16)) : Session :=
  { id := s.sec.nextSess, role := roleFor s want, port := via, signed := true, txKey := newFlitKey u.free, rxKey := newFlitKey (u.free + 1) }

/-- It opens after the response to its exchange. -/
def sessionOpened (s u : State) (want : Role) (via : Option (Fin 16)) : State := { u with
  free := u.free + 2
  sec := { u.sec with sessions := u.sec.sessions ++ [newSession s u want via], nextSess := s.sec.nextSess + 1 } }

theorem exec_spdmMessage_keyExchange (hfew : s.sec.sessions.length < 16) (want : Role)
    (hsigned : (keyExchanged t s via).sec.bakUsed ≠ s.sec.bakUsed) :
    exec (.spdmMessage t via none (.keyExchange want true true)) s =
      .next (sessionOpened s (keyExchanged t s via) want via) := by
  have hsec : (spdmHeard (tick t s) none).sec = s.sec := (spdmHeard_of_no_session (tick t s)).sec
  have hok : ¬ (!true) = true := by decide
  have hroom : ¬ 16 ≤ (spdmHeard (tick t s) none).sec.sessions.length := by rw [hsec]; omega
  have hsigned' : ¬ (spdmSigned (spdmHeard (tick t s) none) via none (natLe 4 (spdmHeard (tick t s) none).sec.nextSess)).sec.bakUsed =
      (spdmHeard (tick t s) none).sec.bakUsed := by rwa [hsec, ← keyExchanged]
  have hrole : roleFor (spdmHeard (tick t s) none) want = roleFor s want := roleFor_congr hsec want
  have hopened : sessionOpened s (keyExchanged t s via) want via =
      sessionOpened (spdmHeard (tick t s) none) (spdmSigned (spdmHeard (tick t s) none) via none
        (natLe 4 (spdmHeard (tick t s) none).sec.nextSess)) want via := by
    rw [keyExchanged, sessionOpened, sessionOpened, newSession, newSession, hrole, hsec]
  rw [hopened]
  show execSpdmMessage t via none (.keyExchange want true true) s = _
  unfold execSpdmMessage
  extract_lets u v live role num x f g
  rw [if_neg (spdm_heard hserv hreach)]
  refine (if_neg hok).trans ((if_neg hroom).trans ((if_neg hok).trans ?_))
  extract_lets y
  have hx : spdmSigned (spdmHeard (tick t s) none) via none (natLe 4 (spdmHeard (tick t s) none).sec.nextSess) = x := rfl
  rw [hx] at hsigned' ⊢
  rw [if_neg hsigned']
  clear_value x
  rfl

end

/-- Settles O53: each command is one equation (exec_bindTenant_of_granted, exec_pqSig_of_signed, exec_spdmMessage_…), whose state changes
the security core alone (SecBecomes); a token is presentToken. -/
theorem sessionsAndTokens : Obligations.SessionsAndTokens := by
  unfold Obligations.SessionsAndTokens
  intro t s p role k dg key req qd ct s1 s2 pub ok hserv
  refine ⟨fun hsess halarm hgrant hempty hbak hroom => ?_, fun hsess halarm hgrant => exec_bindTenant_of_not_granted hserv hsess halarm hgrant,
    fun halarm hok => ?_, fun halarm hbad => ⟨?_, fun hsess hrole => ?_⟩, exec_tokenLoad_of_alarm, ?_, fun x hx halarm => ?_,
    fun via hvia n m => exec_spdmMessage_of_unreached hvia n m, fun via hvia => ⟨fun n m hn => exec_spdmMessage_of_unknown hserv hvia hn m,
      fun n hn => ⟨?_, fun halarm hbak hroom => ?_, ?_⟩, fun hfew halarm hbak hroom want => ?_,
      exec_spdmMessage_getCertificate hserv hvia, fun m hm => exec_spdmMessage_getMeasurements_refused hserv hvia hm,
      fun m hm halarm hbak hroom => ?_⟩⟩
  · have h := tenantBound_becomes (tick t s) p (tenantOf key req qd ct s1 s2 pub)
    have hout : (tenantBound (tick t s) p (tenantOf key req qd ct s1 s2 pub)).out = [] := logEv_out ..
    refine ⟨_, (freeBytes (tenantBound (tick t s) p (tenantOf key req qd ct s1 s2 pub)) 96).2, exec_bindTenant_of_granted hserv hsess halarm hgrant hempty hbak
      hroom, congrArg Sec.tenants h.sec, congrArg Sec.bakUsed h.sec, ?_, length_freeBytes .., (congrArg Sec.flash h.sec :), (congrArg Sec.sessions h.sec :), h.slots, h.mem⟩
    rw [cmdReply, emit_out, show (freeBytes (tenantBound (tick t s) p _) 96).1.out = [] from hout]
    rfl
  · obtain ⟨u, hu, h⟩ := presentToken_of_ok (s := tick t s) hok dg
    refine ⟨⟨u, ?_, debugOpened_fields h⟩, fun hsess hrole => ⟨cmdReply u 7 0 [], ?_, debugOpened_fields h⟩⟩
    · rw [exec_tokenLoad_of_no_alarm hserv halarm, hu]
    · rw [exec_debugOpen_of_role hserv halarm hsess hrole, hu]
      rfl
  · rw [exec_tokenLoad_of_no_alarm hserv halarm, presentToken_of_not_ok (s := tick t s) hbad]
  · rw [exec_debugOpen_of_role hserv halarm hsess hrole, presentToken_of_not_ok (s := tick t s) hbad]
    rfl
  · obtain ⟨n, h⟩ := closeDebug_becomes (tick t s) (fun d => decide (d.endAt ≤ (tick t s).now))
    exact ⟨_, rfl, congrArg Sec.dbg h.sec, (congrArg Sec.flash h.sec :), h.slots, h.mem⟩
  · exact ⟨_, _, exec_pqSig_of_signed hserv halarm hx, marked_some .., rfl, rfl⟩
  · have hheard := spdmHeard_becomes (tick t s) (some n)
    refine ⟨_, exec_spdmMessage_endSession hserv hvia hn, ?_, (SecBecomes.spdmSend ..).slots.trans hheard.slots,
      (SecBecomes.spdmSend ..).mem.trans hheard.mem⟩
    rw [(SecBecomes.spdmSend ..).sec, hheard.sec]
    exact filter_marked ..
  · have hheard := spdmHeard_becomes (tick t s) (some n)
    have hal : alarmLevel (spdmHeard (tick t s) (some n)) = 0 := (alarmLevel_congr (by rw [hheard.sec]; rfl)).trans halarm
    have h := spdmSigned_becomes hal (by rw [hheard.sec]; exact hbak) (by rw [hheard.sec]; exact hroom) via (some n) []
    refine ⟨_, exec_spdmMessage_challenge hserv hvia hn, ?_, ?_, h.slots.trans hheard.slots, h.mem.trans hheard.mem⟩
    · rw [h.sec, hheard.sec]
      rfl
    · rw [h.sec, hheard.sec]
      exact (marked_marked ..).trans (marked_some ..)
  · have hheard := spdmHeard_becomes (tick t s) (some n)
    refine ⟨_, exec_spdmMessage_other hserv hvia hn, ?_, (SecBecomes.spdmSend ..).slots.trans hheard.slots,
      (SecBecomes.spdmSend ..).mem.trans hheard.mem⟩
    rw [(SecBecomes.spdmSend ..).sec, (SecBecomes.freeBytes ..).sec, hheard.sec]
    exact marked_some ..
  · have hheard := spdmHeard_of_no_session (tick t s)
    have hal : alarmLevel (spdmHeard (tick t s) none) = 0 := (alarmLevel_congr (by rw [hheard.sec]; rfl)).trans halarm
    have h := spdmSigned_becomes hal (by rw [hheard.sec]; exact hbak) (by rw [hheard.sec]; exact hroom) via none (natLe 4 s.sec.nextSess)
    rw [hheard.sec, marked_none, ← keyExchanged] at h
    have hused : (keyExchanged t s via).sec.bakUsed ≠ s.sec.bakUsed := by
      rw [h.sec]
      exact Nat.succ_ne_self _
    refine ⟨_, newFlitKey (keyExchanged t s via).free, newFlitKey ((keyExchanged t s via).free + 1),
      exec_spdmMessage_keyExchange hserv hvia hfew want hused, rfl, ?_, length_newFlitKey_key _, length_newFlitKey_salt _,
      length_newFlitKey_key _, length_newFlitKey_salt _, ?_, h.slots.trans hheard.slots, h.mem.trans hheard.mem⟩
    · rw [sessionOpened, h.sec]
      rfl
    · rw [sessionOpened, h.sec]
      rfl
  · have hheard := spdmHeard_of_no_session (tick t s)
    have hm' := hheard.andThen (measurement_keeps (spdmHeard (tick t s) none) m)
    have hsec := hm'.sec.trans hheard.sec
    have hal : alarmLevel (measurement (spdmHeard (tick t s) none) m).1 = 0 := (alarmLevel_congr (by rw [hsec]; rfl)).trans halarm
    have h := spdmSigned_becomes hal (by rw [hsec]; exact hbak) (by rw [hsec]; exact hroom) via none
      (natLe 1 m ++ (measurement (spdmHeard (tick t s) none) m).2)
    rw [hsec, marked_none] at h
    exact ⟨_, exec_spdmMessage_getMeasurements hserv hvia hm, by rw [h.sec]; rfl, by rw [h.sec]; rfl, h.slots.trans hm'.slots, h.mem.trans hm'.mem⟩

end Sys2Proof.Machine
end

section
/-! PROOFS. Changes of one cluster, and what a run over the clusters leaves of each (R114, R211, R456): freezes and releases. -/

namespace Sys2Proof.Machine

/-- u differs from s in cluster c at most. -/
def OnlyCl (c : Fin 64) (s u : State) : Prop := u = s.setCl c (u.cl c)

namespace OnlyCl

theorem refl (c : Fin 64) (s : State) : OnlyCl c s s := (setCl_self s c).symm

theorem setCl (s : State) (c : Fin 64) (k : Cluster) : OnlyCl c s (s.setCl c k) := by rw [OnlyCl, cl_setCl_same]

theorem trans {c : Fin 64} {s t u : State} (h1 : OnlyCl c s t) (h2 : OnlyCl c t u) : OnlyCl c s u := by
  have h : t.setCl c (u.cl c) = s.setCl c (u.cl c) := by
    rw [h1, setCl_setCl]
  exact Eq.trans h2 h

theorem ite {c : Fin 64} {p : Prop} [Decidable p] {s t u : State} (ht : OnlyCl c s t) (hu : OnlyCl c s u) : OnlyCl c s (if p then t else u) := by
  split
  · exact ht
  · exact hu

theorem cl_other {c d : Fin 64} {s u : State} (h : OnlyCl c s u) (hd : d ≠ c) : u.cl d = s.cl d := by
  rw [h]
  exact cl_setCl_other _ _ _ _ hd.symm

end OnlyCl

/-- u differs from s in its clusters at most. -/
def ClustersOnly (s u : State) : Prop := u = { s with clusters := u.clusters }

namespace ClustersOnly

theorem refl (s : State) : ClustersOnly s s := rfl

theorem trans {s t u : State} (h1 : ClustersOnly s t) (h2 : ClustersOnly t u) : ClustersOnly s u := by
  rw [ClustersOnly, h1] at h2
  exact h2

theorem of_onlyCl {c : Fin 64} {s u : State} (h : OnlyCl c s u) : ClustersOnly s u := by
  rw [h]
  rfl

theorem pwr {s u : State} (h : ClustersOnly s u) : u.pwr = s.pwr := by rw [h]
theorem mem {s u : State} (h : ClustersOnly s u) : u.mem = s.mem := by rw [h]
theorem slots {s u : State} (h : ClustersOnly s u) : u.slots = s.slots := by rw [h]

theorem clOn {s u : State} (h : ClustersOnly s u) (d : Fin 64) : clOn u d = clOn s d := by
  rw [h]
  rfl

end ClustersOnly

section
variable {f : State → Fin 64 → State} (hf : ∀ u c, OnlyCl c u (f u c))
include hf

/-- A run over clusters changes clusters alone. -/
theorem foldl_clustersOnly (l : List (Fin 64)) (s : State) : ClustersOnly s (l.foldl f s) :=
  foldl_keeps (P := ClustersOnly s) (.refl s) fun u c h => h.trans (.of_onlyCl (hf u c))

theorem foldl_cl_of_not_mem {d : Fin 64} : ∀ {l : List (Fin 64)}, d ∉ l → ∀ s, (l.foldl f s).cl d = s.cl d
  | [], _, _ => rfl
  | c :: r, hd, s => by
    obtain ⟨hdc, hr⟩ := not_or.mp (mt List.mem_cons.mpr hd)
    exact (foldl_cl_of_not_mem hr (f s c)).trans ((hf s c).cl_other hdc)

/-- What a run over clusters leaves of one of them is its own turn's doing. -/
theorem foldl_cl_of_mem {d : Fin 64} : ∀ {l : List (Fin 64)}, l.Nodup → d ∈ l → ∀ s,
    ∃ u, ClustersOnly s u ∧ u.cl d = s.cl d ∧ (l.foldl f s).cl d = (f u d).cl d
  | c :: r, hnd, hd, s => by
    obtain ⟨hc, hr⟩ := List.nodup_cons.mp hnd
    rcases List.mem_cons.mp hd with rfl | hdr
    · exact ⟨s, .refl s, rfl, foldl_cl_of_not_mem hf hc (f s d)⟩
    · have hdc : d ≠ c := fun h => hc (h ▸ hdr)
      obtain ⟨u, hu, hcl, hres⟩ := foldl_cl_of_mem hr hdr (f s c)
      exact ⟨u, (ClustersOnly.of_onlyCl (hf s c)).trans hu, hcl.trans ((hf s c).cl_other hdc), hres⟩

end

-- The units of a cluster that a freeze touches

theorem traceRec_onlyCl (s : State) (c : Fin 64) (kind point value : Nat) : OnlyCl c s (traceRec s c kind point value) := .setCl ..

theorem rowsNow_onlyCl (s : State) (c : Fin 64) : OnlyCl c s (rowsNow s c) := by
  obtain ⟨k, h⟩ := rowsNow_eq s c
  rw [h]
  exact .setCl ..

theorem traceRec_cl_frz (s : State) (c : Fin 64) (kind point value : Nat) : ((traceRec s c kind point value).cl c).frz = (s.cl c).frz := by
  simp only [traceRec, cl_setCl_same]

theorem rowsNow_cl_frz (s : State) (c : Fin 64) : ((rowsNow s c).cl c).frz = (s.cl c).frz :=
  (congrArg Cluster.frz (rowsNow_rowsOnly s c)).trans rfl

/-- A start of the vector engine changes its cluster, and no freeze. -/
theorem startVec_keeps (s : State) (c : Fin 64) : OnlyCl c s (startVec s c) ∧ ((startVec s c).cl c).frz = (s.cl c).frz := by
  unfold startVec
  extract_lets k0
  split
  · exact ⟨.refl c s, rfl⟩
  · split
    · exact ⟨.refl c s, rfl⟩
    · split
      · exact ⟨.refl c s, rfl⟩
      · refine ⟨(rowsNow_onlyCl s c).trans (.setCl ..), ?_⟩
        rw [cl_setCl_same]
        exact rowsNow_cl_frz s c

-- Freezes (R114, R211)

theorem freezeCl_onlyCl (s : State) (c : Fin 64) (why : FreezeCause) : OnlyCl c s (freezeCl s c why) := by
  unfold freezeCl
  extract_lets k k1 plk k2 s1
  exact .ite (.refl c s) (.ite ((OnlyCl.setCl s c k2).trans (traceRec_onlyCl ..)) (.setCl s c k2))

theorem freezeCl_of_off {s : State} {c : Fin 64} (h : clOn s c = false) (why : FreezeCause) : freezeCl s c why = s := if_pos (by simp [h])

/-- The cause holds the cluster then. -/
theorem freezeCl_holds {s : State} {c : Fin 64} (h : clOn s c = true) (why : FreezeCause) :
    ((freezeCl s c why).cl c).frz.contains why = true := by
  unfold freezeCl
  extract_lets k k1 plk k2 s1
  have hs1 : (s1.cl c).frz = why :: k.frz := by rw [cl_setCl_same]
  split
  · next hheld => simpa [h] using hheld
  · have hfrz : ((if (k.trc.freeze && k1.frozen && !k.frozen) = true then traceRec s1 c 4 0 0 else s1).cl c).frz = why :: k.frz := by
      split
      · rw [traceRec_cl_frz, hs1]
      · exact hs1
    rw [hfrz]
    simp

theorem releaseCl_onlyCl (s : State) (c : Fin 64) (why : FreezeCause) : OnlyCl c s (releaseCl s c why) := by
  unfold releaseCl
  extract_lets k k1 lost plankGo engGo cnt vec k2 s1 s2
  have h2 : OnlyCl c s s2 := .ite ((OnlyCl.setCl s c k2).trans (traceRec_onlyCl ..)) (.setCl s c k2)
  exact .ite (.refl c s) (.ite (h2.trans (startVec_keeps s2 c).1) h2)

/-- The cause holds a powered cluster no more. -/
theorem releaseCl_frees {s : State} {c : Fin 64} (h : clOn s c = true) (why : FreezeCause) :
    ((releaseCl s c why).cl c).frz.contains why = false := by
  unfold releaseCl
  extract_lets k k1 lost plankGo engGo cnt vec k2 s1 s2
  have hs1 : (s1.cl c).frz = k.frz.filter (· != why) := by rw [cl_setCl_same]
  have hs2 : (s2.cl c).frz = k.frz.filter (· != why) := by
    simp only [s2]
    split
    · rw [traceRec_cl_frz, hs1]
    · exact hs1
  split
  · next hfree => simpa [h] using hfree
  · have hfrz : ((if engGo = true then startVec s2 c else s2).cl c).frz = k.frz.filter (· != why) := by
      split
      · rw [(startVec_keeps s2 c).2, hs2]
      · exact hs2
    rw [hfrz]
    simp

end Sys2Proof.Machine
end

section
/-! PROOFS. Clock switches, lost references and fallback (R434, R437 to R440, R457). -/

namespace Sys2Proof.Machine

theorem refReady_tick (t : Nat) (s : State) (code : BitVec 2) : refReady (tick t s) code = refReady s code := rfl

-- CLK_SEL (R438, R457)

theorem clkSel_of_current {s : State} {k : Clock} {code : BitVec 2} (h : s.clk.src.get (clockIdx k) = code) : clkSel s k code = s := if_pos h

section
variable {s : State} {k : Clock} {code : BitVec 2} (hnew : s.clk.src.get (clockIdx k) ≠ code)
include hnew

theorem clkSel_of_ready (hfree : s.clk.switching = none) (hready : refReady s code = true) :
    clkSel s k code = { s with clk := { s.clk with switching := some (k, code) } } := by
  simp [clkSel, hnew, hfree, hready]

theorem clkSel_of_refused (h : s.clk.switching ≠ none ∨ refReady s code = false) :
    LogOnly { s with clk := { s.clk with refused := true } } (clkSel s k code) := by
  have hno : (s.clk.switching.isSome || !refReady s code) = true := by
    rcases h with h | h
    · simp [Option.isSome_iff_ne_none.mpr h]
    · simp [h]
  rw [clkSel, if_neg hnew, if_pos hno]
  exact .logEv ..

end

/-- The four writes of CLK_SEL, with the clock that each one names. -/
def clkSelWrites (t : Nat) (who : Requester) (code : BitVec 2) : List (Instr × Clock) :=
  [(.clkSelArr t who code, .arr), (.clkSelFab t who code, .fab), (.clkSelCtl t who code, .ctl), (.clkSelApp t who code, .app)]

theorem exec_clkSelWrite {t : Nat} {who : Requester} {code : BitVec 2} {i : Instr} {k : Clock} (hi : (i, k) ∈ clkSelWrites t who code) (s : State) :
    exec i s = .next (if clkWriter who then clkSel (tick t s) k code else tick t s) := by
  simp only [clkSelWrites, List.mem_cons, Prod.mk.injEq, List.not_mem_nil, or_false] at hi
  rcases hi with ⟨rfl, rfl⟩ | ⟨rfl, rfl⟩ | ⟨rfl, rfl⟩ | ⟨rfl, rfl⟩ <;> rfl

-- Handovers (R439)

theorem handoverCl_onlyCl (s : State) (c : Fin 64) : OnlyCl c s (handoverCl s c) := by
  unfold handoverCl
  extract_lets k cnt vec
  exact .ite (.refl c s) (.setCl s c _)

/-- A cluster that nothing freezes loses 48 cycles. -/
theorem handoverCl_costs {s : State} {c : Fin 64} (hon : clOn s c = true) (hfrz : (s.cl c).frz = []) :
    ((handoverCl s c).cl c).cnt.frozen = (s.cl c).cnt.frozen + 48 ∧ ((handoverCl s c).cl c).vec.stall = (s.cl c).vec.stall + 48 := by
  have hfrozen : (s.cl c).frozen = false := by simp [Cluster.frozen, hfrz]
  have hstalled : (s.cl c).stalled = false := by simp [Cluster.stalled, hfrz]
  simp [handoverCl, hon, hfrozen, hstalled]

/-- A handover costs the clusters their cycles, or the leases their time; nothing else changes. -/
theorem handover_eq (s : State) (k : Clock) : ∃ cl sl, handover s k = { s with clusters := cl, slots := sl } ∧
    (k ≠ .arr → cl = s.clusters) ∧ (k ≠ .ctl → sl = s.slots) := by
  cases k with
  | arr => exact ⟨_, s.slots, foldl_clustersOnly handoverCl_onlyCl _ s, fun h => absurd rfl h, fun _ => rfl⟩
  | fab => exact ⟨_, _, rfl, fun _ => rfl, fun _ => rfl⟩
  | ctl =>
    have h : ∃ sl, handover s .ctl = { s with slots := sl } :=
      foldl_keeps (P := fun u : State => ∃ sl, u = { s with slots := sl }) ⟨s.slots, rfl⟩ (fun u p ⟨sl, hu⟩ => by
        rw [hu]
        exact ⟨_, rfl⟩)
    obtain ⟨sl, h⟩ := h
    exact ⟨s.clusters, sl, h, fun _ => rfl, fun h => absurd rfl h⟩
  | app => exact ⟨_, _, rfl, fun _ => rfl, fun _ => rfl⟩

theorem handover_arr_costs {s : State} {c : Fin 64} (hon : clOn s c = true) (hfrz : (s.cl c).frz = []) :
    ((handover s .arr).cl c).cnt.frozen = (s.cl c).cnt.frozen + 48 ∧ ((handover s .arr).cl c).vec.stall = (s.cl c).vec.stall + 48 := by
  obtain ⟨u, hu, hcl, hres⟩ := foldl_cl_of_mem handoverCl_onlyCl (List.nodup_finRange 64) (List.mem_finRange c) s
  have h := handoverCl_costs (s := u) (c := c) ((hu.clOn c).trans hon) (by rw [hcl, hfrz])
  rw [hcl] at h
  rw [show (handover s .arr).cl c = (handoverCl u c).cl c from hres]
  exact h

-- Fallback (R440)

theorem autoFall_of_manual {s : State} (h : s.clk.auto = false ∨ s.clk.switching ≠ none) : autoFall s = s := by
  refine if_pos ?_
  rcases h with h | h
  · simp [h]
  · simp [Option.isSome_iff_ne_none.mpr h]

/-- CTL is the first clock that falls back, to REC_A where it is READY. -/
theorem autoFall_of_ctl {s : State} (hauto : s.clk.auto = true) (hfree : s.clk.switching = none) (hhold : s.clk.holdover.get 2 = true)
    (hsrc : s.clk.src.get 2 = 1) (hready : refReady s 2 = true) : autoFall s = { s with clk := { s.clk with switching := some (.ctl, 2) } } := by
  have hto : fallbackTo s (s.clk.src.get (clockIdx .ctl)) = some 2 := if_pos ⟨by rw [show clockIdx .ctl = 2 from rfl, hsrc]; decide, hready⟩
  have hsel : clkSel s .ctl 2 = _ := clkSel_of_ready (by rw [show clockIdx .ctl = 2 from rfl, hsrc]; decide) hfree hready
  rw [autoFall, if_neg (by simp [hauto, hfree]), List.findSome?_cons, if_pos (show s.clk.holdover.get (clockIdx .ctl) = true from hhold), hto]
  exact hsel

-- CLK_SWITCH (R438, R439)

/-- A clock has taken its new reference. -/
def switched (s : State) (k : Clock) (code : BitVec 2) : State := { s with clk := { s.clk with
  switching := none, src := vset s.clk.src (clockIdx k) code, holdover := vset s.clk.holdover (clockIdx k) false
  switches := s.clk.switches + 1 } }

section
variable {t : Nat} {k : Clock} {s : State}

theorem exec_clkSwitch_of_other (h : ∀ x, s.clk.switching = some x → x.1 ≠ k) : exec (.clkSwitch t k) s = .next (tick t s) := by
  show execClkSwitch t k s = _
  unfold execClkSwitch
  extract_lets u
  cases hsw : s.clk.switching with
  | none => rw [show u.clk.switching = none from hsw]
  | some x =>
    rw [show u.clk.switching = some x from hsw]
    exact if_pos (h x hsw)

theorem exec_clkSwitch_of_ready {code : BitVec 2} (hsw : s.clk.switching = some (k, code)) (hready : refReady s code = true)
    (hauto : s.clk.auto = false) : ∃ u, exec (.clkSwitch t k) s = .next u ∧ LogOnly (handover (switched (tick t s) k code) k) u := by
  have hlog := LogOnly.logEv (handover (switched (tick t s) k code) k) 0x0400 0x8002 15 (payload [(0, 1, (clockIdx k).val), (1, 1, code.toNat)])
  refine ⟨_, ?_, hlog⟩
  obtain ⟨cl, sl, hand, -, -⟩ := handover_eq (switched (tick t s) k code) k
  have hmanual : (logEv (handover (switched (tick t s) k code) k) 0x0400 0x8002 15
      (payload [(0, 1, (clockIdx k).val), (1, 1, code.toNat)])).clk.auto = false := by
    rw [hlog.clk, hand]
    exact hauto
  have hready' : ¬ (!refReady (tick t s) code) = true := by rw [refReady_tick, hready]; decide
  show execClkSwitch t k s = _
  unfold execClkSwitch
  extract_lets u
  rw [show u.clk.switching = some (k, code) from hsw]
  refine (if_neg (not_not.mpr rfl)).trans ((if_neg hready').trans (congrArg Host.Outcome.next ?_))
  exact autoFall_of_manual (.inl hmanual)

end

-- REF_LOST (R438, R440)

/-- REC_P is lost: its clocks are in holdover. -/
def recPLost (s : State) : State := { s with clk := { s.clk with
  readyP := false, holdover := Vector.ofFn (fun i => s.clk.holdover.get i || s.clk.src.get i == 1)
  lost := s.clk.lost || s.clk.src.toList.any (fun c => c == 1) } }

theorem loseRef_recP {s : State} (hauto : s.clk.auto = false) (hfree : s.clk.switching = none) : LogOnly (recPLost s) (loseRef s 1) := by
  have hto : switchTo s 1 = false := by simp [switchTo, hfree]
  unfold loseRef
  extract_lets k used gone k1 s1
  have hs1 : s1 = recPLost s := by
    simp [s1, k1, recPLost, k, used, gone, hto, hfree]
  have hlog : LogOnly s1 (if (used || gone) = true then logEv s1 0x0400 0x8004 15 (payload [(0, 1, (1 : BitVec 2).toNat)]) else s1) :=
    .ite (.logEv ..) (.refl s1)
  rw [autoFall_of_manual (.inl (by rw [hlog.clk]; exact hauto)), ← hs1]
  exact hlog

section
variable {t : Nat} {s : State}

theorem exec_refLost_of_not_ready (h : s.clk.readyP = false) : exec (.refLost t .recP) s = .next (tick t s) :=
  have hno : ¬ (tick t s).clk.readyP = true := by
    rw [show (tick t s).clk.readyP = false from h]; exact Bool.false_ne_true
  congrArg Host.Outcome.next (if_neg hno)

theorem exec_refLost_of_ready (h : s.clk.readyP = true) : exec (.refLost t .recP) s = .next (loseRef (tick t s) 1) :=
  congrArg Host.Outcome.next (if_pos (show (tick t s).clk.readyP = true from h))

-- ARR_PLL_STOP (R437)

variable {die : Fin 2} {x : Nat} (hidle : s.pwr.idleAt.get die = some x)
include hidle

theorem exec_arrPllStop_of_not_due (h : dieBusy s die = true ∨ max s.now t < x + 1000000) : exec (.arrPllStop t die) s = .next (tick t s) := by
  have hno : (dieBusy (tick t s) die || !elapsed (tick t s).now x 1000000) = true := by
    rcases h with h | h
    · rw [show dieBusy (tick t s) die = true from h, Bool.true_or]
    · rw [show elapsed (tick t s).now x 1000000 = false from decide_eq_false (Nat.not_le.mpr h), Bool.not_false, Bool.or_true]
  show execArrPllStop t die s = _
  unfold execArrPllStop
  extract_lets u
  rw [show u.pwr.idleAt.get die = some x from hidle]
  exact if_pos hno

theorem exec_arrPllStop_of_due (hrest : dieBusy s die = false) (hlate : x + 1000000 ≤ max s.now t) : exec (.arrPllStop t die) s =
    .next { tick t s with
      clk := { (tick t s).clk with run := vset s.clk.run (arrRun die) false }
      pwr := { s.pwr with idleAt := vset s.pwr.idleAt die none } } := by
  have hyes : ¬ (dieBusy (tick t s) die || !elapsed (tick t s).now x 1000000) = true := by
    rw [show dieBusy (tick t s) die = false from hrest]
    simp [elapsed, hlate]
  show execArrPllStop t die s = _
  unfold execArrPllStop
  extract_lets u
  rw [show u.pwr.idleAt.get die = some x from hidle]
  exact if_neg hyes

end

/-- Settles O47: a write of CLK_SEL is clkSel (exec_clkSelWrite), a completed switch is a handover of the switched state, a lost REC_P leaves
recPLost, and fallback begins with CTL (autoFall_of_ctl). -/
theorem clocksSwitch : Obligations.ClocksSwitch := by
  unfold Obligations.ClocksSwitch
  intro t who code k die s i hi
  have hexec := exec_clkSelWrite hi s
  refine ⟨fun h => ?_, fun hw hnew => ⟨fun hfree hready => ?_, fun h => ?_⟩, fun hsw hready hauto => ?_, exec_clkSwitch_of_other,
    exec_refLost_of_not_ready, fun hready hauto hfree => ?_, fun h => congrArg Host.Outcome.next (autoFall_of_manual (s := tick t s) h),
    fun hauto hfree hhold hsrc hready => congrArg Host.Outcome.next (autoFall_of_ctl (s := tick t s) hauto hfree hhold hsrc hready),
    fun x hidle => ⟨exec_arrPllStop_of_not_due hidle, exec_arrPllStop_of_due hidle⟩⟩
  · rw [hexec]
    rcases h with h | h
    · rw [h]
      rfl
    · rw [clkSel_of_current (s := tick t s) h, ite_self]
  · rw [hexec, hw, if_pos rfl, clkSel_of_ready (s := tick t s) hnew hfree hready]
  · have hlog := clkSel_of_refused (s := tick t s) hnew h
    refine ⟨_, hexec.trans (congrArg Host.Outcome.next (if_pos hw)), hlog.clk, hlog.pwr, hlog.slots, hlog.clusters⟩
  · obtain ⟨u, hu, hlog⟩ := exec_clkSwitch_of_ready (t := t) hsw hready hauto
    obtain ⟨cl, sl, hand, hcl, hsl⟩ := handover_eq (switched (tick t s) k code) k
    refine ⟨u, hu, by rw [hlog.clk, hand]; rfl, by rw [hlog.mem, hand]; rfl, fun hk => by rw [hlog.clusters, hand]; exact hcl hk,
      fun hk => by rw [hlog.slots, hand]; exact hsl hk, fun hk c hon hfrz => ?_⟩
    subst hk
    rw [show u.cl c = (handover (switched (tick t s) .arr code) .arr).cl c from congrArg (·.get c) hlog.clusters]
    exact handover_arr_costs (s := switched (tick t s) .arr code) hon hfrz
  · have hlog := loseRef_recP (s := tick t s) hauto hfree
    refine ⟨_, exec_refLost_of_ready hready, ?_⟩
    rw [hlog.clk, hlog.clusters, hlog.slots]
    exact ⟨rfl, rfl, rfl, rfl, fun x => get_vectorOfFn _ x, rfl, rfl, rfl⟩

end Sys2Proof.Machine
end

section
/-! PROOFS. The power cap, the hardware limit and thermal trips (R450 to R456). -/

namespace Sys2Proof.Machine

-- A decision below the target (R451, R453)

theorem bucketStep_eq (s : State) (p1 : Nat) : ∃ b g, bucketStep s p1 = { s with
    log := g, pwr := { s.pwr with p1 := p1, bucket := min (fullBucket s) (s.pwr.bucket + capMw s - p1), throttle := b } } := by
  unfold bucketStep
  extract_lets cap b cls s1
  split
  · exact ⟨s.pwr.throttle, s.log, rfl⟩
  · split
    · exact ⟨true, _, LogOnly.logRated ..⟩
    · split
      · exact ⟨false, _, LogOnly.logRated ..⟩
      · exact ⟨s.pwr.throttle, s.log, rfl⟩

theorem capMw_le_targetMw (s : State) : capMw s ≤ targetMw s := by
  unfold targetMw
  split
  · exact Nat.le_refl _
  · unfold capMw
    split <;> omega

theorem throttleMore_of_none (s : State) (n : Nat) (l : List (Fin 64)) : throttleMore s 0 0 n l = s := by
  unfold throttleMore
  split
  · rfl
  · split
    · rfl
    · exact if_pos rfl

theorem toggleHot_of_none {s : State} (h : s.pwr.hot = []) (n : Nat) : toggleHot s n = (s, n) := by
  unfold toggleHot
  rw [h, List.foldl_nil]

/-- Nothing is held, nothing is hot, and the power is below the target: the decision notes what it was given, and counts. -/
theorem exec_powerDecision_of_below {t p1 : Nat} {dyn : List (Fin 64 × Nat)} {s : State} (hheld : s.pwr.held = []) (hhot : s.pwr.hot = [])
    (hcap : p1 ≤ capMw s) : ∃ n, exec (.powerDecision t p1 dyn) s = .next (
      let s1 := noteDyn (bucketStep (tick t s) p1) dyn
      { s1 with pwr := { s1.pwr with throttled := n } }) := by
  show ∃ n, execPowerDecision t p1 dyn s = _
  unfold execPowerDecision
  extract_lets s1 target due out rot s2 h s3 free swap s5 left s4 n
  obtain ⟨b, g, hs1⟩ : ∃ b g, s1 = noteDyn { tick t s with log := g, pwr := { s.pwr with p1 := p1, bucket := _, throttle := b } } dyn := by
    obtain ⟨b, g, hb⟩ := bucketStep_eq (tick t s) p1
    exact ⟨b, g, congrArg (noteDyn · dyn) hb⟩
  have hheld1 : s1.pwr.held = [] := by rw [hs1]; exact hheld
  have hhot1 : s1.pwr.hot = [] := by rw [hs1]; exact hhot
  have hcap1 : capMw s1 = capMw s := by rw [hs1]; rfl
  have hbelow : ¬ target < p1 := Nat.not_lt.mpr ((hcap.trans_eq hcap1.symm).trans (capMw_le_targetMw s1))
  have hout : out = [] := by simp [out, due, hheld1]
  have hs2 : s2 = s1 := by simp [s2, hout]
  have hs3 : s3 = s1 := by simp [s3, h, hs2, toggleHot_of_none hhot1]
  have hswap : swap = 0 := by simp [swap, hout]
  have hs5 : s5 = s1 := by simp [s5, hswap, hs3, throttleMore_of_none]
  have hs4 : s4 = s1 := (if_neg hbelow).trans (by simp [hs5, hheld1])
  exact ⟨s4.pwr.throttled + BitVec.ofNat 64 n, congrArg (fun x : State => Host.Outcome.next
    { x with pwr := { x.pwr with throttled := s4.pwr.throttled + BitVec.ofNat 64 n } }) hs4⟩

-- The hardware limit (R454)

/-- A freeze of every cluster holds those that have power, and changes no other. -/
theorem freezeAll_cl {s : State} {why : FreezeCause} {P : Fin 64 → Bool} {f : State → Fin 64 → State}
    (hf : ∀ x c, f x c = if P c = true then freezeCl x c why else x) :
    ClustersOnly s ((List.finRange 64).foldl f s) ∧
    (∀ c, clOn s c = true → P c = true → (((List.finRange 64).foldl f s).cl c).frz.contains why = true) ∧
    (∀ c, clOn s c = false ∨ P c = false → ((List.finRange 64).foldl f s).cl c = s.cl c) := by
  have hone : ∀ x c, OnlyCl c x (f x c) := fun x c => by
    rw [hf]
    exact .ite (freezeCl_onlyCl x c why) (.refl c x)
  have hturn := fun c => foldl_cl_of_mem hone (List.nodup_finRange 64) (List.mem_finRange c) s
  refine ⟨foldl_clustersOnly hone _ s, fun c hon hP => ?_, fun c h => ?_⟩ <;> obtain ⟨u, hu, hcl, hres⟩ := hturn c <;> rw [hres, hf]
  · rw [if_pos hP]
    exact freezeCl_holds ((hu.clOn c).trans hon) why
  · split
    · next hP =>
      have hoff : clOn s c = false := h.resolve_right (by simp [hP])
      rw [freezeCl_of_off ((hu.clOn c).trans hoff), hcl]
    · exact hcl

theorem exec_hwIlimit (t : Nat) (s : State) : ∃ u, exec (.hwIlimit t) s = .next u ∧ u.pwr = { s.pwr with hwActive := true, hwLim := true } ∧
    u.mem = s.mem ∧ u.slots = s.slots ∧ (∀ c, clOn s c = true → (u.cl c).frz.contains .hwLimit = true) ∧
    (∀ c, clOn s c = false → u.cl c = s.cl c) := by
  show ∃ u, execHwIlimit t s = _ ∧ _
  unfold execHwIlimit
  extract_lets s0 pw s1
  obtain ⟨hkeep, hheld, hsame⟩ := freezeAll_cl (s := { s0 with pwr := { s0.pwr with hwActive := true, hwLim := true } })
    (P := fun _ => true) (f := fun (x : State) c => freezeCl x c .hwLimit) fun _ _ => (if_pos rfl).symm
  have hlog := LogOnly.logRated s1 100 0x0400 0x8007 15 0 (payload [])
  have hcl : ∀ c, (logRated s1 100 0x0400 0x8007 15 0 (payload [])).cl c = s1.cl c := fun c => congrArg (fun l : Vector Cluster 64 => l.get c) hlog.clusters
  refine ⟨_, rfl, hlog.pwr.trans hkeep.pwr, hlog.mem.trans hkeep.mem,
    hlog.slots.trans hkeep.slots, fun c hon => ?_, fun c hoff => (hcl c).trans (hsame c (.inl hoff))⟩
  rw [hcl]
  exact hheld c hon rfl

/-- At most sixteen clusters that the limit holds: all are released at once. -/
theorem exec_hwLimitRelease_of_few (t : Nat) {s : State}
    (hfew : ((List.finRange 64).filter (fun c => clOn s c && (s.cl c).frz.contains .hwLimit)).length ≤ 16) :
    ∃ u, exec (.hwLimitRelease t) s = .next u ∧ u.pwr = { s.pwr with hwActive := false } ∧ u.slots = s.slots ∧
      (∀ c, clOn s c = true → (u.cl c).frz.contains .hwLimit = false) := by
  show ∃ u, execHwLimitRelease t s = _ ∧ _
  unfold execHwLimitRelease
  extract_lets s0 l s1
  have hlen : l.length ≤ 16 := hfew
  have htake : l.take 16 = l := List.take_of_length_le hlen
  have hone : ∀ (x : State) c, OnlyCl c x (releaseCl x c .hwLimit) := fun x c => releaseCl_onlyCl x c .hwLimit
  have hkeep : ClustersOnly s0 s1 := foldl_clustersOnly hone _ s0
  have hpwr : s1.pwr = s.pwr := hkeep.pwr
  have hlast : decide (16 < l.length) = false := decide_eq_false (Nat.not_lt.mpr hlen)
  refine ⟨{ s1 with pwr := { s1.pwr with hwActive := decide (16 < l.length) } }, rfl, ?_, hkeep.slots, fun c hon => ?_⟩
  · show { s1.pwr with hwActive := decide (16 < l.length) } = _
    rw [hpwr, hlast]
  · show (s1.cl c).frz.contains .hwLimit = false
    by_cases hc : c ∈ l
    · obtain ⟨u, hu, -, hres⟩ := foldl_cl_of_mem hone ((List.nodup_finRange 64).filter _) hc s0
      rw [show s1.cl c = _ from (congrArg (fun m => (List.foldl (fun (x : State) c => releaseCl x c .hwLimit) s0 m).cl c) htake).trans hres]
      exact releaseCl_frees ((hu.clOn c).trans hon) .hwLimit
    · have hfree : ¬ (clOn s0 c && (s0.cl c).frz.contains .hwLimit) = true := fun h => hc (List.mem_filter.mpr ⟨List.mem_finRange c, h⟩)
      rw [show s1.cl c = s0.cl c from foldl_cl_of_not_mem hone (mt List.mem_of_mem_take hc) s0]
      rw [show clOn s0 c = true from hon, Bool.true_and] at hfree
      exact Bool.eq_false_iff.mpr hfree

-- Thermal sensors (R455)

/-- u has the memory, the slots and the readings of s. -/
structure HeatKept (s u : State) : Prop where
  mem : u.mem = s.mem
  slots : u.slots = s.slots
  sensors : u.pwr.sensors = s.pwr.sensors

namespace HeatKept

theorem refl (s : State) : HeatKept s s := ⟨rfl, rfl, rfl⟩

theorem trans {s u v : State} (h1 : HeatKept s u) (h2 : HeatKept u v) : HeatKept s v :=
  ⟨h2.mem.trans h1.mem, h2.slots.trans h1.slots, h2.sensors.trans h1.sensors⟩

theorem ite {p : Prop} [Decidable p] {s u v : State} (hu : HeatKept s u) (hv : HeatKept s v) : HeatKept s (if p then u else v) := by
  split
  · exact hu
  · exact hv

theorem of_clusters {s u : State} (h : ClustersOnly s u) : HeatKept s u := by
  rw [h]
  exact ⟨rfl, rfl, rfl⟩

theorem of_log {s u : State} (h : LogOnly s u) : HeatKept s u := by
  rw [h]
  exact ⟨rfl, rfl, rfl⟩

theorem freeze (s : State) (c : Fin 64) (why : FreezeCause) : HeatKept s (freezeCl s c why) := of_clusters (.of_onlyCl (freezeCl_onlyCl s c why))

theorem release (s : State) (c : Fin 64) (why : FreezeCause) : HeatKept s (releaseCl s c why) := of_clusters (.of_onlyCl (releaseCl_onlyCl s c why))

/-- A change of the hot clusters is none of the readings. -/
theorem setHot {s u : State} (h : HeatKept s u) (l : List (Fin 64 × Nat)) : HeatKept s { u with pwr := { u.pwr with hot := l } } := ⟨h.mem, h.slots, h.sensors⟩

theorem foldl {α : Type} {f : State → α → State} (hf : ∀ u x, HeatKept u (f u x)) (l : List α) (s : State) : HeatKept s (l.foldl f s) :=
  foldl_keeps (P := HeatKept s) (.refl s) fun u x h => h.trans (hf u x)

end HeatKept

theorem noteHottest_heatKept (s : State) : HeatKept s (noteHottest s) := by
  unfold noteHottest
  extract_lets rd
  split
  · exact .refl s
  · exact ⟨rfl, rfl, rfl⟩

theorem hotStep_heatKept (s : State) (rs : List (Sensor × Int)) : HeatKept s (hotStep s rs) := by
  unfold hotStep
  extract_lets cool off s1 fresh s2
  have h1 : HeatKept s s1 := .foldl (fun u c => (HeatKept.release u c .hot).setHot _) off s
  have h2 : HeatKept s1 s2 := .foldl (fun u (x : Fin 64 × Int) => (HeatKept.freeze u x.1 .hot).setHot _) _ s1
  refine (h1.trans h2).trans (.foldl (fun u x => ?_) rs s2)
  split
  · exact .ite (.of_log (.logRated ..)) (.refl u)
  · exact .refl u

theorem untrip_heatKept (s : State) : HeatKept s (untrip s) := by
  unfold untrip
  extract_lets keep pw s1
  have h1 : HeatKept s s1 := ⟨rfl, rfl, rfl⟩
  exact h1.trans (.foldl (fun u c => .ite (.release u c .trip) (.refl u)) _ s1)

theorem holdTemp_heatKept (s : State) : HeatKept s (holdTemp s) := ⟨rfl, rfl, rfl⟩

theorem fwTracePoint_heatKept (s : State) (a b : Nat) (m : BitVec 256) : HeatKept s (fwTracePoint s a b m) := by
  unfold fwTracePoint
  extract_lets f n
  have hf : HeatKept s f.2 := ⟨rfl, rfl, rfl⟩
  exact .ite (.refl s) (.ite (hf.trans (.of_log (.logEv ..))) hf)

/-- Readings are kept, the newest of a sensor in front. -/
theorem noteReadings_eq (rs : List (Sensor × Int)) (s : State) : rs.foldl noteReading s = { s with pwr := { s.pwr with
    sensors := rs.foldl (fun l y => y :: l.filter (fun z => z.1 != y.1)) s.pwr.sensors } } := by
  induction rs generalizing s with
  | nil => rfl
  | cons x r ih =>
    rw [List.foldl_cons, ih]
    rfl

theorem exec_thermalRead (t : Nat) (rs : List (Sensor × Int)) (s : State) : ∃ u, exec (.thermalRead t rs) s = .next u ∧ u.mem = s.mem ∧
    u.slots = s.slots ∧ u.pwr.sensors = rs.foldl (fun l y => y :: l.filter (fun z => z.1 != y.1)) s.pwr.sensors := by
  show ∃ u, execThermalRead t rs s = _ ∧ _
  unfold execThermalRead
  extract_lets s1 s2
  have h1 : HeatKept (rs.foldl noteReading (tick t s)) s1 := noteHottest_heatKept _
  have h2 : HeatKept s1 s2 := (hotStep_heatKept s1 rs).trans (untrip_heatKept _)
  have h3 : HeatKept s2 (fwTracePoint (if (tempOut s || tempOut s2) = true then holdTemp s2 else s2) 0x0701 15 (s.sched.masks.get 1)) :=
    HeatKept.trans (.ite (holdTemp_heatKept s2) (.refl s2)) (fwTracePoint_heatKept ..)
  obtain ⟨hmem, hslots, hsensors⟩ := (h1.trans h2).trans h3
  rw [noteReadings_eq] at hmem hslots hsensors
  exact ⟨_, rfl, hmem, hslots, hsensors⟩

section
variable {t : Nat} {x : Sensor} {v : Int} {s : State}

theorem exec_thermTrip_of_not (h : v < 864 ∨ s.pwr.scopes.contains (sensorScope x) = true) : exec (.thermTrip t x v) s = .next (tick t s) := by
  have hno : (decide (v < 864) || (tick t s).pwr.scopes.contains (sensorScope x)) = true := by
    rw [Bool.or_eq_true, decide_eq_true_eq]
    exact h
  exact if_pos hno

theorem exec_thermTrip_of_trip (hv : 864 ≤ v) (hnew : s.pwr.scopes.contains (sensorScope x) = false) : ∃ u, exec (.thermTrip t x v) s = .next u ∧
    u.pwr.scopes = sensorScope x :: s.pwr.scopes ∧ u.pwr.trip = true ∧ u.mem = s.mem ∧ u.slots = s.slots ∧
    (∀ c, clOn s c = true → tripHolds [sensorScope x] c = true → (u.cl c).frz.contains .trip = true) ∧
    (∀ c, tripHolds [sensorScope x] c = false → u.cl c = s.cl c) := by
  show ∃ u, execThermTrip t x v s = _ ∧ _
  unfold execThermTrip
  extract_lets s0 k s1 pw s2 s3 s4
  have hgo : ¬ (decide (v < 864) || s0.pwr.scopes.contains k) = true := by
    rw [show s0.pwr.scopes.contains k = false from hnew, decide_eq_false (not_lt.mpr hv)]
    exact Bool.false_ne_true
  obtain ⟨hkeep, hheld, hsame⟩ := freezeAll_cl (s := s2) (why := .trip) (P := fun c => tripHolds [k] c) fun x c => rfl
  have hlog : LogOnly s3 s4 := .logEv ..
  obtain ⟨o, ho⟩ := alertEdge_eq s0 s4
  have hcl : ∀ c, (alertEdge s0 s4).cl c = s3.cl c := fun c => by
    rw [ho]
    exact congrArg (fun l : Vector Cluster 64 => l.get c) hlog.clusters
  have hpwr : (alertEdge s0 s4).pwr = s2.pwr := by rw [ho]; exact hlog.pwr.trans hkeep.pwr
  refine ⟨alertEdge s0 s4, if_neg hgo, congrArg Pwr.scopes hpwr, congrArg Pwr.trip hpwr, ?_, ?_, fun c hon hc => ?_, fun c hc => ?_⟩
  · rw [ho]; exact hlog.mem.trans hkeep.mem
  · rw [ho]; exact hlog.slots.trans hkeep.slots
  · rw [hcl]; exact hheld c hon hc
  · rw [hcl]; exact hsame c (.inr hc)

end

/-- Settles O49: a decision with nothing held below the target leaves bucketStep's values (exec_powerDecision_of_below); freezes and releases
run over the clusters one by one (freezeAll_cl); readings are kept by every step of THERMAL_READ (HeatKept). -/
theorem powerAndHeatFreezeClusters : Obligations.PowerAndHeatFreezeClusters := by
  unfold Obligations.PowerAndHeatFreezeClusters
  intro t p1 dyn rs x v s
  refine ⟨fun hheld hhot hcap => ?_, exec_hwIlimit t s, exec_hwLimitRelease_of_few t, exec_thermalRead t rs s, exec_thermTrip_of_not,
    exec_thermTrip_of_trip⟩
  obtain ⟨n, hexec⟩ := exec_powerDecision_of_below (t := t) (dyn := dyn) hheld hhot hcap
  obtain ⟨b, g, hb⟩ := bucketStep_eq (tick t s) p1
  rw [hb] at hexec
  exact ⟨_, hexec, rfl, rfl, rfl, rfl, rfl⟩

end Sys2Proof.Machine
end

section
/-! PROOFS. What the messages of a twin do (R399 to R403, R410, R415, R416). -/

namespace Sys2Proof.Machine

-- Messages leave the slots (R400)

theorem logTwin_slots (s : State) (p : Fin 8) (e : Nat) (l : Bytes) : (logTwin s p e l).slots = s.slots := logEv_slots ..
theorem sendJoin_slots (s : State) (p : Fin 8) (j : Nat) : (sendJoin s p j).slots = s.slots := sendTwin_slots ..
theorem sendRecover_slots (s : State) (p : Fin 8) : (sendRecover s p).slots = s.slots := sendTwin_slots ..
theorem forwardRecover_slots (s : State) (p : Fin 8) (a b c d : Nat) : (forwardRecover s p a b c d).slots = s.slots := sendTwin_slots ..

/-- A change of the twin alone. -/
theorem SlotBecomes.setTwin (s : State) (p : Fin 8) (w : Twin) : SlotBecomes p { s.slot p with twin := w } s (setTwin s p w) := rfl

theorem SlotBecomes.thenDropStream {p : Fin 8} {x : Slot} {s u : State} (h : SlotBecomes p x s u) :
    SlotBecomes p { x with ck := { x.ck with stream := none } } s (dropStream u p) := by
  have h2 : SlotBecomes p { u.slot p with ck := { (u.slot p).ck with stream := none } } u (dropStream u p) := rfl
  rw [h.own] at h2
  exact h.trans h2

theorem SlotBecomes.thenPState {p : Fin 8} {x : Slot} {s u : State} (h : SlotBecomes p x s u) (st : PState) :
    SlotBecomes p { x with st := st } s (Machine.setPState u p st) := by
  have h2 := SlotBecomes.setPState u p st
  rw [h.own] at h2
  exact h.trans h2

/-- What a slot becomes, as the statements of chapter 15 name it. -/
theorem SlotBecomes.next {p : Fin 8} {x : Slot} {s u : State} {j : Instr} {t : Nat} (h : SlotBecomes p x (tick t s) u) (hj : exec j s = .next u) :
    ∃ u, exec j s = .next u ∧ u.slot p = x ∧ ∀ o, o ≠ p → u.slot o = s.slot o :=
  ⟨u, hj, h.own, h.other⟩

/-- A PAIRED half goes SOLO (R403). -/
theorem goSolo_of_paired {s : State} {p : Fin 8} (h : (s.slot p).twin.st = .paired) : goSolo s p =
    logTwin (s.setSlot p { s.slot p with twin := { (s.slot p).twin with st := .solo } }) p 0xB004 (payload []) := if_pos h

section
variable {t n : Nat} {q : Fin 16} {p : Fin 8} {s : State} {i : Img} {v : W64}

-- Off the twin ports nothing counts (R400)

theorem exec_twin_of_off (hi : (s.slot p).img = some i) (hoff : onTwin s q p = false) (f : Bytes) (n : Nat) (v : W64) :
    exec (.hello t q p f) s = .next (tick t s) ∧ exec (.digest t q p n v) s = .next (tick t s) ∧
    exec (.parked t q p) s = .next (tick t s) ∧ exec (.fenced t q p) s = .next (tick t s) ∧ exec (.rebuild t q p) s = .next (tick t s) := by
  have hoff' : onTwin (tick t s) q p = false := hoff
  have hno : ¬ onTwin (tick t s) q p = true := by rw [hoff']; exact Bool.false_ne_true
  refine ⟨?_, if_neg ?_, if_neg hno, if_neg hno, if_pos ?_⟩
  · show execHello t q p f s = _
    unfold execHello
    extract_lets s1 w
    rw [show (s1.slot p).img = some i from hi]
    exact if_pos (by rw [hoff', Bool.not_false, Bool.true_or])
  · rw [hoff', Bool.false_and]
    exact Bool.false_ne_true
  · rw [hoff', Bool.not_false, Bool.true_or]

section
variable (hon : onTwin s q p = true)
include hon

-- HELLO (R399)

theorem exec_hello_of_unpaired (hi : (s.slot p).img = some i) (hst : (s.slot p).twin.st = .unpaired) (f : Bytes) : exec (.hello t q p f) s =
    if f = i.finger then .next (logTwin (setTwin (tick t s) p { (s.slot p).twin with st := .paired, pairStep := none }) p 0xB001 (payload []))
    else .next (logTwin (tick t s) p 0xB002 (payload [])) := by
  have hgo : ¬ (!onTwin (tick t s) q p || ((tick t s).slot p).twin.st != .unpaired) = true := by
    rw [show onTwin (tick t s) q p = true from hon, show ((tick t s).slot p).twin.st = .unpaired from hst]
    exact Bool.false_ne_true
  show execHello t q p f s = _
  unfold execHello
  extract_lets s1 w
  rw [show (s1.slot p).img = some i from hi]
  exact if_neg hgo

-- DIGEST (R401)

theorem exec_digest_of_paired (hst : (s.slot p).twin.st = .paired) : exec (.digest t q p n v) s = .next (theirDigest (tick t s) p n v) :=
  if_pos (by rw [show onTwin (tick t s) q p = true from hon, show ((tick t s).slot p).twin.st = .paired from hst]; rfl)

-- PARKED and FENCED of the partner (R403)

theorem exec_gone_of_paired (hst : (s.slot p).twin.st = .paired) {j : Instr} (hj : j = .parked t q p ∨ j = .fenced t q p) : exec j s =
    .next (logTwin ((tick t s).setSlot p { s.slot p with twin := { (s.slot p).twin with st := .solo } }) p 0xB004 (payload [])) := by
  have hsolo : exec j s = .next (goSolo (tick t s) p) := by
    rcases hj with rfl | rfl
    · exact if_pos hon
    · exact if_pos hon
  exact hsolo.trans (congrArg Host.Outcome.next (goSolo_of_paired (s := tick t s) hst))

-- REBUILD (R415)

theorem exec_rebuild_of_solo {r : Run} (hst : (s.slot p).twin.st = .solo) (hrun : (s.slot p).run = some r) (hj : standingJ s p = none) :
    exec (.rebuild t q p) s = .next (sendJoin (setTwin (tick t s) p { (s.slot p).twin with st := .rebuild, j := some (r.step + 16) }) p (r.step + 16)) := by
  have hgo : ¬ (!onTwin (tick t s) q p || ((tick t s).slot p).twin.st != .solo) = true := by
    rw [show onTwin (tick t s) q p = true from hon, show ((tick t s).slot p).twin.st = .solo from hst]
    exact Bool.false_ne_true
  have hcur : currentStep (tick t s) p = r.step := by
    unfold currentStep
    rw [show ((tick t s).slot p).run = some r from hrun]
  show execRebuild t q p s = _
  unfold execRebuild
  extract_lets s1 k cur j
  have hcur' : cur = r.step := hcur
  have hj' : j = r.step + 16 := by
    simp only [j, hcur', show standingJ s1 p = none from hj]
  rw [hj']
  exact if_neg hgo

end

-- The partner's digest of a step (R401, R402)

theorem digestOf_newest (n : Nat) (v : W64) (l : List (Nat × W64)) : digestOf (((n, v) :: l).take 8) n = some v := by
  simp [digestOf]

theorem theirDigest_of_known (h : (digestOf (s.slot p).twin.theirs n).isSome = true) : theirDigest s p n v = s := if_pos h

theorem theirDigest_of_new (h : digestOf (s.slot p).twin.theirs n = none) : theirDigest s p n v =
    compareStep (setTwin s p { (s.slot p).twin with theirs := ((n, v) :: (s.slot p).twin.theirs).take 8 }) p n :=
  if_neg (by rw [h]; exact Bool.false_ne_true)

theorem compareStep_of_unknown (h : digestOf (s.slot p).twin.own n = none) : compareStep s p n = s := by
  simp only [compareStep, h]

section
variable {d : W64} (hst : (s.slot p).twin.st = .paired) (hown : digestOf (s.slot p).twin.own n = some d)
  (htheirs : digestOf (s.slot p).twin.theirs n = some v)
include hst hown htheirs

theorem compareStep_of_differ (hd : d ≠ v) : compareStep s p n = mismatch s p n d v := by
  simp only [compareStep, hown, htheirs, hst, ne_eq, not_true_eq_false, if_false, hd, not_false_eq_true, if_true]

theorem compareStep_of_agree (hd : d = v) (hpair : (s.slot p).twin.pairStep ≠ none) : compareStep s p n = agreeCkpts (setTwin s p
    { (s.slot p).twin with v := advanceV (s.slot p).twin.own (s.slot p).twin.theirs 8 (s.slot p).twin.v }) p := by
  obtain ⟨x, hx⟩ := Option.ne_none_iff_exists'.mp hpair
  simp only [compareStep, hown, htheirs, hst, hd, hx, ne_eq, not_true_eq_false, if_false]

end

/-- The first digest of a step that arrives in PAIRED: kept, and compared once the own one is known. -/
theorem theirDigest_of_first (hst : (s.slot p).twin.st = .paired) (hnew : digestOf (s.slot p).twin.theirs n = none) :
    let w := (s.slot p).twin
    let kept := s.setSlot p { s.slot p with twin := { w with theirs := ((n, v) :: w.theirs).take 8 } }
    (digestOf w.own n = none → theirDigest s p n v = kept) ∧
    (∀ d, digestOf w.own n = some d → d ≠ v → theirDigest s p n v = mismatch kept p n d v) ∧
    (digestOf w.own n = some v → w.pairStep ≠ none → theirDigest s p n v =
      agreeCkpts (setTwin kept p { (kept.slot p).twin with v := advanceV w.own (((n, v) :: w.theirs).take 8) 8 w.v }) p) := by
  intro w kept
  have hkept : (kept.slot p).twin = { w with theirs := ((n, v) :: w.theirs).take 8 } := congrArg Slot.twin (slot_setSlot_same ..)
  have hpaired : (kept.slot p).twin.st = .paired := by rw [hkept]; exact hst
  have htheirs : digestOf (kept.slot p).twin.theirs n = some v := by rw [hkept]; exact digestOf_newest n v w.theirs
  have hown : digestOf (kept.slot p).twin.own n = digestOf w.own n := by rw [hkept]
  have hdig : theirDigest s p n v = compareStep kept p n := theirDigest_of_new hnew
  refine ⟨fun h => ?_, fun d h hd => ?_, fun h hpair => ?_⟩
  · exact hdig.trans (compareStep_of_unknown (hown.trans h))
  · exact hdig.trans (compareStep_of_differ hpaired (hown.trans h) htheirs hd)
  · rw [hdig, compareStep_of_agree hpaired (hown.trans h) htheirs rfl (by rw [hkept]; exact hpair)]
    simp only [hkept]

-- JOIN (R415)

section
variable (hheard : heardOn s q p (fun r => r == 1 || r == 4) = true)
include hheard

theorem exec_join_of_later {x : Nat} (hx : standingJ s p = some x) (hle : x ≤ n) : exec (.join t q p n) s = .next (tick t s) := by
  have hgo : ¬ (!heardOn (tick t s) q p (fun r => r == 1 || r == 4)) = true := by
    rw [show heardOn (tick t s) q p (fun r => r == 1 || r == 4) = true from hheard]
    exact Bool.false_ne_true
  show execJoin t q p n s = _
  unfold execJoin
  extract_lets s1 w
  rw [show standingJ s1 p = some x from hx]
  exact (if_neg hgo).trans (if_neg (Nat.not_lt.mpr hle))

theorem exec_join_of_earlier (hx : ∀ x, standingJ s p = some x → n < x) :
    exec (.join t q p n) s = .next (sendJoin (setTwin (tick t s) p { (s.slot p).twin with j := some n }) p n) := by
  have hgo : ¬ (!heardOn (tick t s) q p (fun r => r == 1 || r == 4)) = true := by
    rw [show heardOn (tick t s) q p (fun r => r == 1 || r == 4) = true from hheard]
    exact Bool.false_ne_true
  show execJoin t q p n s = _
  unfold execJoin
  extract_lets s1 w
  refine (if_neg hgo).trans ?_
  cases hj : standingJ s1 p with
  | none => rfl
  | some x => exact if_pos (hx x hj)

end

-- RECOVER (R410)

section
variable {why r gen tgt : Nat}

/-- A newer generation while no RUN is in progress. -/
theorem adoptRecover_of_idle (hrun : (s.slot p).run = none) :
    SlotBecomes p { s.slot p with twin := { (s.slot p).twin with gen := gen } } s (adoptRecover s p why r gen tgt) := by
  have h : adoptRecover s p why r gen tgt = forwardRecover (setTwin s p { (s.slot p).twin with gen := gen }) p why r gen tgt :=
    if_pos (by rw [hrun]; rfl)
  rw [h]
  exact (SlotBecomes.setTwin ..).andThen (forwardRecover_slots ..)

/-- A newer generation in a step: the partition recovers from the smaller of both targets. -/
theorem adoptRecover_of_step {x : Run} {c : Nat} (hrun : (s.slot p).run = some x) (hstage : x.stage = .inStep) (hnew : newestBelow s p r = some c) :
    SlotBecomes p { s.slot p with
      st := .recovering, ck := { (s.slot p).ck with stream := none }
      twin := { (s.slot p).twin with
        recov := true, cause := BitVec.ofNat 4 why, r := r, gen := gen, target := some (min tgt c), changed := s.now } }
      s (adoptRecover s p why r gen tgt) := by
  have hinStep : (Stage.inStep == Stage.atB5) = false := rfl
  unfold adoptRecover
  simp only [hrun, hnew, hstage, hinStep, Option.isNone_some, Bool.false_eq_true, if_false, Bool.or_false]
  generalize hw : ({ (s.slot p).twin with
    recov := true, cause := BitVec.ofNat 4 why, r := r, gen := gen, target := some (min tgt c), changed := s.now } : Twin) = w
  rw [← hrun]
  have h1 := (SlotBecomes.setTwin s p w).thenDropStream.thenPState .recovering
  exact (h1.andThen (sendRecover_slots ..)).andThen (logEv_slots ..)

theorem exec_recover_of_older (hheard : heardOn s q p (fun x => x != 0) = true) (hgen : gen < (s.slot p).twin.gen) :
    exec (.recover t q p why r gen tgt) s = .next (tick t s) := by
  have hgo : ¬ (!heardOn (tick t s) q p (fun x => x != 0)) = true := by
    rw [show heardOn (tick t s) q p (fun x => x != 0) = true from hheard]
    exact Bool.false_ne_true
  have hnew : ¬ ((tick t s).slot p).twin.gen < gen := Nat.not_lt.mpr (Nat.le_of_lt hgen)
  have hsame : ¬ (((tick t s).slot p).twin.gen = gen ∧ ((tick t s).slot p).twin.recov = true) := fun h => Nat.ne_of_gt hgen h.1
  exact (if_neg hgo).trans ((if_neg hnew).trans (if_neg hsame))

theorem exec_recover_of_newer (hheard : heardOn s q p (fun x => x != 0) = true) (hgen : (s.slot p).twin.gen < gen) :
    exec (.recover t q p why r gen tgt) s = .next (adoptRecover (tick t s) p why r gen tgt) := by
  have hgo : ¬ (!heardOn (tick t s) q p (fun x => x != 0)) = true := by
    rw [show heardOn (tick t s) q p (fun x => x != 0) = true from hheard]
    exact Bool.false_ne_true
  exact (if_neg hgo).trans (if_pos hgen)

/-- The generation in force, and a smaller target: the target is adopted. -/
theorem exec_recover_of_same {x : Nat} (hheard : heardOn s q p (fun x => x != 0) = true) (hgen : gen = (s.slot p).twin.gen)
    (hrec : (s.slot p).twin.recov = true) (hx : (s.slot p).twin.target = some x) (hlt : tgt < x) : exec (.recover t q p why r gen tgt) s =
      .next (sendRecover (setTwin (tick t s) p { (s.slot p).twin with target := some tgt, changed := max s.now t }) p) := by
  have hgo : ¬ (!heardOn (tick t s) q p (fun x => x != 0)) = true := by
    rw [show heardOn (tick t s) q p (fun x => x != 0) = true from hheard]
    exact Bool.false_ne_true
  have hnew : ¬ ((tick t s).slot p).twin.gen < gen := Nat.not_lt.mpr (Nat.le_of_eq hgen)
  show execRecover t q p why r gen tgt s = _
  unfold execRecover
  extract_lets s1 w
  rw [show w.target = some x from hx]
  exact (if_neg hgo).trans ((if_neg hnew).trans ((if_pos ⟨hgen.symm, hrec⟩).trans (if_pos hlt)))

end

end

/-- Settles O43: off the twin ports nothing counts; else each message is its equation, with the comparison of digests in theirDigest_of_first and the
adopted recovery in adoptRecover_of_step. -/
theorem twinMessagesAct : Obligations.TwinMessagesAct := by
  unfold Obligations.TwinMessagesAct
  intro t q p s i hi w
  refine ⟨fun hoff f n v => exec_twin_of_off hi hoff f n v, fun hon => ⟨fun hst => ⟨?_, fun f hf => ?_⟩, fun hst n v => ⟨fun hknown => ?_, fun hnew => ?_⟩,
    fun hst j hj => exec_gone_of_paired hon hst hj, fun r hst hrun hj => ?_⟩, fun hheard n => ⟨?_, fun hx => ?_⟩,
    fun hheard why r gen tgt => ⟨exec_recover_of_older hheard, fun hgen hrun => ?_, fun x n hgen hrun hstage hnew => ?_,
      fun x hgen hrec hx hlt => ?_⟩⟩
  case refine_1 => exact (exec_hello_of_unpaired hon hi hst i.finger).trans (if_pos rfl)
  case refine_2 => exact (exec_hello_of_unpaired hon hi hst f).trans (if_neg hf)
  case refine_3 => exact (exec_digest_of_paired hon hst).trans (congrArg Host.Outcome.next (theirDigest_of_known hknown))
  case refine_4 =>
    obtain ⟨hunknown, hdiffer, hagree⟩ := theirDigest_of_first (s := tick t s) (v := v) hst hnew
    have hexec := exec_digest_of_paired (t := t) (n := n) (v := v) hon hst
    exact ⟨fun h => hexec.trans (congrArg Host.Outcome.next (hunknown h)), fun d h hd => hexec.trans (congrArg Host.Outcome.next (hdiffer d h hd)),
      fun h hpair => hexec.trans (congrArg Host.Outcome.next (hagree h hpair))⟩
  case refine_5 => exact ((SlotBecomes.setTwin ..).andThen (sendJoin_slots ..)).next (exec_rebuild_of_solo hon hst hrun hj)
  case refine_6 =>
    rintro ⟨x, hx, hle⟩
    exact exec_join_of_later hheard hx hle
  case refine_7 => exact ((SlotBecomes.setTwin ..).andThen (sendJoin_slots ..)).next (exec_join_of_earlier hheard hx)
  case refine_8 => exact (adoptRecover_of_idle (s := tick t s) hrun).next (exec_recover_of_newer hheard hgen)
  case refine_9 =>
    obtain ⟨u, hu, hslot, hother⟩ := (adoptRecover_of_step (s := tick t s) hrun hstage hnew).next (exec_recover_of_newer hheard hgen)
    exact ⟨u, hu, hother, hslot⟩
  case refine_10 => exact ((SlotBecomes.setTwin ..).andThen (sendRecover_slots ..)).next (exec_recover_of_same hheard hgen hrec hx hlt)

end Sys2Proof.Machine
end

section
/-! PROOFS. A twin goes SOLO, waits to rejoin, and pairs again after step J (R403, R415, R416). -/

namespace Sys2Proof.Machine

theorem sendMsg_slots (s : State) (q : Fin 16) (typ : BitVec 4) (vc : BitVec 2) (b : Bytes) (l : List Nat) : (sendMsg s q typ vc b l).slots = s.slots :=
  foldl_slots (fun u _ => (FlitsSent.sendFlit u q _).slots) _ s

/-- Which ports a slot has stands in its image. -/
theorem portsWith_congr {s u : State} {p : Fin 8} (h : (u.slot p).img = (s.slot p).img) (f : Nat → Bool) : portsWith u p f = portsWith s p f := by
  simp only [portsWith, roleOf, h]

theorem SlotBecomes.thenTwin {p : Fin 8} {x : Slot} {s u : State} (h : SlotBecomes p x s u) (w : Twin) :
    SlotBecomes p { x with twin := w } s (Machine.setTwin u p w) := by
  have h2 := SlotBecomes.setTwin u p w
  rw [h.own] at h2
  exact h.trans h2

section
variable {t : Nat} {p : Fin 8} {s : State} {i : Img}

-- TWIN_SOLO (R403)

theorem exec_twinSolo_of_other (h : (s.slot p).twin.st ≠ .paired) : exec (.twinSolo t p) s = .next (tick t s) := if_neg fun hgo => h hgo.1

/-- B5 has waited for the silence time. -/
theorem exec_twinSolo_of_wait {r : Run} (hst : (s.slot p).twin.st = .paired) (hup : schedUp (tick t s) = true) (hrun : (s.slot p).run = some r)
    (hstage : r.stage = .atB5) (hlets : twinLets (s.slot p).twin r.step = false)
    (hlate : r.dueAt + (s.slot p).twin.silence.toNat * 1000000 ≤ max s.now t) : exec (.twinSolo t p) s =
    .next (logTwin ((tick t s).setSlot p { s.slot p with twin := { (s.slot p).twin with st := .solo } }) p 0xB004 (payload [])) := by
  show execTwinSolo t p s = _
  unfold execTwinSolo
  extract_lets s1 k ns waits quiet
  have hwaits : waits = true := by
    have hlate' : elapsed s1.now r.dueAt ns = true := decide_eq_true hlate
    simp only [waits, show k.run = some r from hrun, hstage, show twinLets k.twin r.step = false from hlets, hlate']
    rfl
  exact (if_pos ⟨hst, hup, .inl hwaits⟩).trans (congrArg Host.Outcome.next (goSolo_of_paired (s := s1) hst))

-- WAIT_REJOIN (R415)

section
variable (htwin : twinned s p = true) (hup : schedUp (tick t s) = true) (hrun : (s.slot p).run = none)
  (hst : (s.slot p).twin.st = .fenced ∨ (s.slot p).twin.st = .unpaired)
include htwin hup hrun hst

/-- An idle fenced or new half waits to rejoin; it asks at once where its ring ports are UP. -/
theorem exec_waitRejoin_of_idle : exec (.waitRejoin t p) s =
    (let s2 := waitRejoin (tick t s) p
     if (ringPorts s p).all (fun q => (s.port q).state == 3) = true then
       .next (sendTwin (setTwin s2 p { (s.slot p).twin with st := .waitRejoin, rebuiltAt := some (max s.now t) }) (twinPorts s2 p) (twinData 6 p [] []))
     else .next s2) := by
  have hgo : ¬ (!twinned (tick t s) p || !schedUp (tick t s)) = true := by
    rw [show twinned (tick t s) p = true from htwin, hup]
    exact Bool.false_ne_true
  have hidle : ((tick t s).slot p).run.isNone = true ∧ (((tick t s).slot p).twin.st = .fenced ∨ ((tick t s).slot p).twin.st = .unpaired) :=
    ⟨by rw [show ((tick t s).slot p).run = none from hrun]; rfl, hst⟩
  have hbecomes : SlotBecomes p { s.slot p with twin := { (s.slot p).twin with st := .waitRejoin, rebuiltAt := none } } (tick t s)
      (waitRejoin (tick t s) p) := .setTwin ..
  have htw : ((waitRejoin (tick t s) p).slot p).twin = { (s.slot p).twin with st := .waitRejoin, rebuiltAt := none } := by rw [hbecomes.own]
  have hring : ringPorts (waitRejoin (tick t s) p) p = ringPorts s p := portsWith_congr (by rw [hbecomes.own]) _
  show execWaitRejoin t p s = _
  unfold execWaitRejoin
  simp only [if_neg hgo, if_pos hidle, htw, hring, true_and]
  rfl

theorem exec_waitRejoin_of_down (hdown : (ringPorts s p).any (fun q => (s.port q).state != 3) = true) : exec (.waitRejoin t p) s =
    .next ((tick t s).setSlot p { s.slot p with twin := { (s.slot p).twin with st := .waitRejoin, rebuiltAt := none } }) := by
  refine (exec_waitRejoin_of_idle htwin hup hrun hst).trans (if_neg fun hall => ?_)
  obtain ⟨q, hq, hne⟩ := List.any_eq_true.mp hdown
  have heq := List.all_eq_true.mp hall q hq
  rw [bne, heq] at hne
  exact Bool.false_ne_true hne

theorem exec_waitRejoin_of_ups (hups : (ringPorts s p).all (fun q => (s.port q).state == 3) = true) : ∃ u, exec (.waitRejoin t p) s = .next u ∧
    u.slot p = { s.slot p with twin := { (s.slot p).twin with st := .waitRejoin, rebuiltAt := some (max s.now t) } } ∧
    ∀ o, o ≠ p → u.slot o = s.slot o := by
  have h1 : SlotBecomes p _ (tick t s) (waitRejoin (tick t s) p) := .setTwin ..
  have h2 := h1.thenTwin { (s.slot p).twin with st := .waitRejoin, rebuiltAt := some (max s.now t) }
  exact (h2.andThen (sendTwin_slots ..)).next ((exec_waitRejoin_of_idle htwin hup hrun hst).trans (if_pos hups))

end

-- TWIN_REBUILD_DONE (R416)

theorem rejoin_becomes (s : State) (p : Fin 8) (j : Nat) : SlotBecomes p { s.slot p with twin := { (s.slot p).twin with
    st := .paired, pairStep := some (j + 1), v := j, j := none, own := [], theirs := [], first := none } } s (rejoin s p j) :=
  (SlotBecomes.setTwin ..).andThen (logTwin_slots ..)

/-- The survivor has streamed the state after step J. -/
theorem exec_twinRebuildDone_of_survivor {r : Run} {j : Nat} {b : Option Marked} (hi : (s.slot p).img = some i) (hst : (s.slot p).twin.st = .rebuild)
    (hup : schedUp (tick t s) = true) (hrun : (s.slot p).run = some r) (hj : (s.slot p).twin.j = some j) (hstage : r.stage = .atB5)
    (hstep : r.step = j + 1) : ∃ u, exec (.twinRebuildDone t p b) s = .next u ∧ u.slot p = { s.slot p with twin := { (s.slot p).twin with
      st := .paired, pairStep := some (j + 1), v := j, j := none, own := [], theirs := [], first := none } } ∧ ∀ o, o ≠ p → u.slot o = s.slot o := by
  show ∃ u, execTwinRebuildDone t p b s = _ ∧ _
  unfold execTwinRebuildDone
  extract_lets s1 k b0 js
  rw [show k.img = some i from hi, show k.twin.st = .rebuild from hst, show k.run = some r from hrun, show k.twin.j = some j from hj]
  have hsent : ((twinPorts s1 p).foldl (fun (u : State) q => sendMsg u q 6 2 (ckptOf i p 1 j (readShard s1 p i)).bytes
      (ckptOf i p 1 j (readShard s1 p i)).poison) s1).slots = s1.slots := foldl_slots (fun u q => sendMsg_slots ..) _ s1
  have hdone := rejoin_becomes ((twinPorts s1 p).foldl (fun (u : State) q => sendMsg u q 6 2 (ckptOf i p 1 j (readShard s1 p i)).bytes
      (ckptOf i p 1 j (readShard s1 p i)).poison) s1) p j
  rw [slot_congr hsent] at hdone
  have h := hdone.after hsent
  exact ⟨_, if_pos ⟨hstage, hstep, hup⟩, h.own, h.other⟩

section
variable {b : Marked} (hi : (s.slot p).img = some i) (hst : (s.slot p).twin.st = .waitRejoin) (hup : schedUp (tick t s) = true)
  (hmagic : fieldU b.bytes 0 4 = 0x4B43594B) (hsize : fieldU b.bytes 16 8 = shardSize i) (hlen : 4096 + shardSize i ≤ b.bytes.length)
include hi hst hup hmagic hsize hlen

/-- The partner has received the state after step J with no RUN in progress. -/
theorem exec_twinRebuildDone_of_idle (hrun : (s.slot p).run = none) (hnone : noneRuns s p = true) : exec (.twinRebuildDone t p (some b)) s =
    .next (rejoin (restoreCkpt (tick t s) p i b) p (fieldU b.bytes 8 4)) := by
  show execTwinRebuildDone t p (some b) s = _
  unfold execTwinRebuildDone
  extract_lets s1 k
  rw [show k.img = some i from hi, show k.twin.st = .waitRejoin from hst, show k.run = none from hrun]
  exact (if_pos ⟨hmagic, hsize, hlen, hup⟩).trans (if_pos hnone)

/-- A RUN that could not advance goes on from that state. -/
theorem exec_twinRebuildDone_of_run {r : Run} (hrun : (s.slot p).run = some r) : exec (.twinRebuildDone t p (some b)) s =
    .next (runOn (rejoin (restoreCkpt (haltClusters (tick t s) p) p i b) p (fieldU b.bytes 8 4)) p i r (fieldU b.bytes 8 4)) := by
  show execTwinRebuildDone t p (some b) s = _
  unfold execTwinRebuildDone
  extract_lets s1 k
  rw [show k.img = some i from hi, show k.twin.st = .waitRejoin from hst, show k.run = some r from hrun]
  exact if_pos ⟨hmagic, hsize, hlen, hup⟩

end

end

/-- Settles O44: each command is its equation; the received state is restored and the RUN goes on in exec_twinRebuildDone_of_run. -/
theorem twinsPartAndRejoin : Obligations.TwinsPartAndRejoin := by
  unfold Obligations.TwinsPartAndRejoin
  intro t p s i hi w ns
  refine ⟨exec_twinSolo_of_other, fun r hst hup hrun hstage hlets hlate => exec_twinSolo_of_wait hst hup hrun hstage hlets hlate,
    fun htwin hup hrun hst => ⟨exec_waitRejoin_of_down htwin hup hrun hst, exec_waitRejoin_of_ups htwin hup hrun hst⟩,
    fun r j b hst hup hrun hj hstage hstep => ?_,
    fun b hst hup hrun hmagic hsize hlen hnone => exec_twinRebuildDone_of_idle hi hst hup hmagic hsize hlen hrun hnone,
    fun r b hst hup hrun hmagic hsize hlen => exec_twinRebuildDone_of_run hi hst hup hmagic hsize hlen hrun⟩
  obtain ⟨u, hu, hslot, hother⟩ := exec_twinRebuildDone_of_survivor (b := b) hi hst hup hrun hj hstage hstep
  exact ⟨u, hu, hother, hslot⟩

end Sys2Proof.Machine
end

section
/-! PROOFS. Buddy regions, the close of a checkpoint, and RESTORE (R406 to R412). -/

namespace Sys2Proof.Machine

theorem SlotBecomes.thenAnswer {p : Fin 8} {x : Slot} {s u : State} (h : SlotBecomes p x s u) (k : Ticket) (status detail value : Nat) :
    SlotBecomes p { x with led := x.led.answered k status detail value } s (Machine.answer u p k status detail value) := by
  have h2 := SlotBecomes.answer u p k status detail value
  rw [h.own] at h2
  exact h.trans h2

section
variable {t : Nat} {p : Fin 8} {q : Fin 16} {s : State} {i : Img}

-- BUDDY_REQUEST (R406)

section
variable (hi : (s.slot p).img = some i) (hport : (s.port q).state = 3) (hrole : roleOf s p q ≠ 0) (hsched : s.sched.failed = false)
include hport hrole hsched

/-- The port carries messages of the partition, and the scheduler core runs. -/
theorem not_buddyOff (t : Nat) : ¬ (((tick t s).port q).state ≠ 3 ∨ roleOf (tick t s) p q = 0 ∨ (tick t s).sched.failed = true) := by
  rintro (h | h | h)
  · exact h hport
  · exact hrole h
  · exact Bool.false_ne_true (hsched.symm.trans h)

include hi

/-- The peer's answer to the own request, once. -/
theorem exec_buddyRequest_of_answer {ok : Bool} (hbuddy : buddyPort s p = some q) (hasked : (s.slot p).ck.asked = false) :
    exec (.buddyRequest t q p (.answered ok)) s =
    (let s2 := (tick t s).setSlot p { s.slot p with ck := { (s.slot p).ck with asked := true, hosted := ok } }
     .next (if ok = true then s2 else logSch s2 0xB00B p.val (payload []))) := by
  have hnew : ¬ (buddyPort (tick t s) p ≠ some q ∨ ((tick t s).slot p).ck.asked = true) := by
    rintro (h | h)
    · exact h hbuddy
    · exact Bool.false_ne_true (hasked.symm.trans h)
  show execBuddyRequest t q p (.answered ok) s = _
  unfold execBuddyRequest
  extract_lets s1 k
  split
  · next h => exact absurd (h.symm.trans hi) (Option.some_ne_none i).symm
  · exact (if_neg (not_buddyOff hport hrole hsched t)).trans (if_neg hnew)

/-- The request of a peer: two slots at the top of the owner range, or a refusal. -/
theorem exec_buddyRequest_of_request (n : Nat) : exec (.buddyRequest t q p (.received n)) s =
    (let size := 2 * roundMiB n
     if regionRefused s p i (partSize s p - size) size = true then .next (emit (tick t s) .bulk q.val [0])
     else .next (emit ((tick t s).setSlot p { s.slot p with
       ck := { (s.slot p).ck with hosts := (s.slot p).ck.hosts ++ [(q.val, partSize s p - size, size)] } }) .bulk q.val [1])) := by
  show execBuddyRequest t q p (.received n) s = _
  unfold execBuddyRequest
  extract_lets s1 k
  split
  · next h => exact absurd (h.symm.trans hi) (Option.some_ne_none i).symm
  · next i' h =>
    obtain rfl : i' = i := Option.some.inj (h.symm.trans hi)
    exact if_neg (not_buddyOff hport hrole hsched t)

end

-- CKPT_DONE (R407, R408)

theorem exec_ckptDone_of_none (h : (s.slot p).ck.stream = none) : exec (.ckptDone t p) s = .next (tick t s) := by
  have hclose : closeCkpt (tick t s) p = tick t s := by
    unfold closeCkpt
    rw [show ((tick t s).slot p).ck.stream = none from h]
    split
    · next hx => exact absurd hx.symm (Option.some_ne_none _)
    · rfl
  show execCkptDone t p s = _
  unfold execCkptDone
  extract_lets s1
  rw [hclose, ite_self]

/-- A stream that a ticket sent to memory has completed while the half is UNPAIRED: the checkpoint is AGREED at once, and the ticket is
answered with its handle. -/
theorem closeCkpt_of_memory {x : CkStream} {a n : Nat} {k : Ticket} (hi : (s.slot p).img = some i) (hx : (s.slot p).ck.stream = some x)
    (ha : x.memory = some a) (hn : x.ticket = some n) (hk : findTicket s p n = some k) (hst : (s.slot p).twin.st = .unpaired) :
    ∃ h, SlotBecomes p { s.slot p with
      ck := { (s.slot p).ck with mems := (a, x.step, true) :: (s.slot p).ck.mems.filter (fun m => m.1 != a), stream := none, handle := h }
      led := (s.slot p).led.answered k stDone 0 (memHandle a) } s (closeCkpt s p) := by
  unfold closeCkpt
  split
  case h_2 hne => exact (hne i x hi hx).elim
  next i' x' hi' hx' =>
  obtain rfl : x' = x := Option.some.inj (hx'.symm.trans hx)
  extract_lets x0 ck0 w alone agreed flags b s1 ck bs k1 x1 s2
  have hagreed : agreed = true := by
    simp only [agreed, alone, w, hst]
    rfl
  have hs1 : s1.slots = s.slots := by
    simp only [s1, ha]
    exact pCommit_slots ..
  have hk1 : k1 = { (s.slot p).ck with mems := (a, x'.step, true) :: (s.slot p).ck.mems.filter (fun m => m.1 != a), stream := none } := by
    simp only [k1, ha, hagreed, ck, slot_congr hs1]
  have hs2 : SlotBecomes p { s.slot p with ck := { k1 with handle := agreedHandle k1 } } s s2 := by
    have h : SlotBecomes p { s1.slot p with ck := { k1 with handle := agreedHandle k1 } } s1 s2 := (SlotBecomes.setSlot ..).andThen (logEv_slots ..)
    rw [slot_congr hs1] at h
    exact h.after hs1
  have hfound : findTicket s2 p n = some k := by
    unfold findTicket
    rw [hs2.own]
    exact hk
  have hdone := hs2.thenAnswer k stDone 0 (memHandle a)
  rw [hk1] at hdone
  refine ⟨agreedHandle k1, ?_⟩
  rw [hn]
  simp only [hfound, ha]
  rw [hk1]
  exact hdone

theorem exec_ckptDone_of_up (h : schedUp (tick t s) = true) : exec (.ckptDone t p) s = .next (closeCkpt (tick t s) p) := if_pos h

-- RESTORE (R411, R412)

theorem exec_restore_of_early {b : Option Marked}
    (h : (s.slot p).twin.recov = false ∨ max s.now t < (s.slot p).twin.changed + 10000000) :
    exec (.restore t p b) s = .next (tick t s) := by
  have hearly : ((tick t s).slot p).twin.recov = false ∨ elapsed (tick t s).now ((tick t s).slot p).twin.changed 10000000 = false :=
    h.imp id fun hlt => decide_eq_false (Nat.not_le.mpr hlt)
  show execRestore t p b s = _
  unfold execRestore
  extract_lets s1 k
  split
  · refine if_pos ?_
    rcases hearly with hrec | hnow
    · rw [hrec, Bool.not_false, Bool.true_or, Bool.true_or, Bool.true_or]
    · rw [hnow, Bool.not_false, Bool.or_true]
  · rfl

section
variable {r : Run} {x : Nat} {b : Option Marked} (hi : (s.slot p).img = some i) (hrun : (s.slot p).run = some r) (hx : (s.slot p).twin.target = some x)
include hi hrun hx

/-- The partition has stopped and nothing changed for 10 ms: the target is read, and restored or missed. -/
theorem exec_restore_of_due (hrec : (s.slot p).twin.recov = true) (hup : schedUp (tick t s) = true) (hstop : (s.slot p).twin.stopped = true)
    (hlate : (s.slot p).twin.changed + 10000000 ≤ max s.now t) (hlost : lostGroups s i = [])
    (htrained : (pkgGroups (claimPkgs i.part)).all (fun g => mgOn s g && (s.mg g).trained) = true) : exec (.restore t p b) s =
      .next (match targetBytes s p i x b with
        | none => noCheckpoint (tick t s) p 2 (s.slot p).twin.r (some x)
        | some b => restoreTo (tick t s) p i r x b) := by
  have hnow : elapsed (tick t s).now ((tick t s).slot p).twin.changed 10000000 = true := decide_eq_true hlate
  have hrec' : ((tick t s).slot p).twin.recov = true := hrec
  have hstop' : ((tick t s).slot p).twin.stopped = true := hstop
  show execRestore t p b s = _
  unfold execRestore
  extract_lets s1 k
  split
  case h_2 hne => exact (hne r i x hrun hi hx).elim
  next r' i' x' hrun' hi' hx' =>
  obtain rfl : r' = r := Option.some.inj (hrun'.symm.trans hrun)
  obtain rfl : i' = i := Option.some.inj (hi'.symm.trans hi)
  obtain rfl : x' = x := Option.some.inj (hx'.symm.trans hx)
  extract_lets stopped lost
  have hgo : ¬ (!k.twin.recov || !schedUp s1 || !stopped || !elapsed s1.now k.twin.changed 10000000) = true := by
    simp only [stopped, k, s1, hrec', hup, hstop', hnow]
    exact Bool.false_ne_true
  have hkept : ¬ (!lost.isEmpty) = true := by
    rw [show lost = [] from hlost]
    exact Bool.false_ne_true
  have hready : ¬ (!(pkgGroups (claimPkgs i'.part)).all (fun g => mgOn s1 g && (s1.mg g).trained)) = true := by
    rw [show (pkgGroups (claimPkgs i'.part)).all (fun g => mgOn s1 g && (s1.mg g).trained) = true from htrained]
    exact Bool.false_ne_true
  refine (if_neg hgo).trans ((if_neg hkept).trans ((if_neg hready).trans ?_))
  rw [show targetBytes s1 p i' x' b = targetBytes s p i' x' b from rfl]
  cases targetBytes s p i' x' b <;> rfl

end

end

/-- Settles O45: BUDDY_REQUEST and RESTORE are their equations; the checkpoint that closes is closeCkpt_of_memory's. -/
theorem checkpointsCloseAndRestore : Obligations.CheckpointsCloseAndRestore := by
  unfold Obligations.CheckpointsCloseAndRestore
  intro t p q s i hi
  refine ⟨fun hport hrole hsched => ⟨fun ok hbuddy hasked => ?_, fun n => ⟨fun hfree => ?_, fun hrefused => ?_⟩⟩,
    fun x a n k hup hx ha hn hk hst => ?_, exec_ckptDone_of_none, fun r x b hrun hx => ⟨exec_restore_of_early,
      fun hrec hup hstop hlate hlost htrained => ⟨fun hmiss => ?_, fun b' hread => ?_⟩⟩⟩
  case refine_1 =>
    have hset : SlotBecomes p _ (tick t s) ((tick t s).setSlot p { s.slot p with ck := { (s.slot p).ck with asked := true, hosted := ok } }) := .setSlot ..
    have hexec := exec_buddyRequest_of_answer (t := t) (ok := ok) hi hport hrole hsched hbuddy hasked
    cases ok with
    | true => exact ⟨_, hexec, hset.own, hset.other, fun _ => rfl⟩
    | false =>
      have hlogged := hset.andThen (logEv_slots _ 0x0702 0xB00B p.val (payload []))
      exact ⟨_, hexec, hlogged.own, hlogged.other, fun h => absurd h Bool.false_ne_true⟩
  case refine_2 => exact (exec_buddyRequest_of_request hi hport hrole hsched n).trans (if_neg (by rw [hfree]; exact Bool.false_ne_true))
  case refine_3 => exact (exec_buddyRequest_of_request hi hport hrole hsched n).trans (if_pos hrefused)
  case refine_4 =>
    obtain ⟨h, hclosed⟩ := closeCkpt_of_memory (s := tick t s) hi hx ha hn hk hst
    refine ⟨_, exec_ckptDone_of_up hup, hclosed.other, ?_⟩
    rw [hclosed.own]
    exact ⟨rfl, rfl, rfl, rfl⟩
  case refine_5 =>
    rw [exec_restore_of_due hi hrun hx hrec hup hstop hlate hlost htrained, hmiss]
  case refine_6 =>
    rw [exec_restore_of_due hi hrun hx hrec hup hstop hlate hlost htrained, hread]

end Sys2Proof.Machine
end

section
/-! PROOFS. NO_CHECKPOINT in a partition whose lease has lapsed: it parks (R379, R412). -/

namespace Sys2Proof.Machine

section
variable {s : State} {p : Fin 8} {r : Run}

theorem answer_parking (s : State) (p : Fin 8) (k : Ticket) (status detail value : Nat) :
    ((answer s p k status detail value).slot p).parking = (s.slot p).parking := by
  rw [(SlotBecomes.answer ..).own]

/-- A RUN that ends while a lapse waits for the boundary leaves the partition PARKED, not IDLE. -/
theorem endRun_parks (hrun : (s.slot p).run = some r) (hpark : (s.slot p).parking = true) (status detail : Nat) :
    ((endRun s p status detail .idle).slot p).st = .parked := by
  unfold endRun
  split
  · next h => exact absurd (h.symm.trans hrun) (Option.some_ne_none r).symm
  extract_lets s1 s2 x2 s3
  have h1 : (s1.slot p).parking = true := by
    simp only [s1]
    split
    · exact (answer_parking ..).trans hpark
    · exact hpark
  have h2 : (s2.slot p).parking = true := by
    simp only [s2]
    split
    · split
      · exact (answer_parking ..).trans h1
      · exact h1
    · exact h1
  have h3 : SlotBecomes p { x2 with run := none, pauseNum := none, st := .idle } s2 s3 := (SlotBecomes.setSlot ..).thenPState .idle
  have hgo : PState.idle = .idle ∧ (s3.slot p).parking = true := ⟨rfl, by rw [h3.own]; exact h2⟩
  rw [if_pos hgo]
  have hidle : (s3.slot p).st ≠ .paused := by
    rw [h3.own]
    exact PState.noConfusion
  obtain ⟨y, hy, hparked⟩ := park_becomes hidle
  rw [hy.own]
  exact hparked.st

theorem noCheckpoint_parks (hrun : (s.slot p).run = some r) (hpark : (s.slot p).parking = true) (why from0 : Nat) (tgt : Option Nat) :
    ((noCheckpoint s p why from0 tgt).slot p).st = .parked := by
  unfold noCheckpoint
  extract_lets s1 tw s2
  have h2 : SlotBecomes p { s.slot p with twin := { tw with recov := false, target := none, stopped := false } } s s2 := by
    have hlog : s1.slots = s.slots := logEv_slots ..
    have h := SlotBecomes.setTwin s1 p { tw with recov := false, target := none, stopped := false }
    rw [slot_congr hlog] at h
    exact h.after hlog
  have hrun2 : (s2.slot p).run = some r := by rw [h2.own]; exact hrun
  have hsome : ¬ (s2.slot p).run.isNone = true := by rw [hrun2]; exact Bool.false_ne_true
  rw [failRun, if_neg hsome]
  exact endRun_parks hrun2 (by rw [h2.own]; exact hpark) ..

/-- A RECOVER of a newer generation finds no usable checkpoint of a partition whose lease has lapsed. -/
theorem exec_recover_parks {t why from0 gen tgt : Nat} {q : Fin 16} (hheard : heardOn s q p (fun x => x != 0) = true)
    (hgen : (s.slot p).twin.gen < gen) (hrun : (s.slot p).run = some r) (hnone : newestBelow s p from0 = none)
    (hpark : (s.slot p).parking = true) : ∃ u, exec (.recover t q p why from0 gen tgt) s = .next u ∧ (u.slot p).st = .parked := by
  have hsome : ¬ ((tick t s).slot p).run.isNone = true := by
    rw [show ((tick t s).slot p).run = some r from hrun]
    exact Bool.false_ne_true
  have hadopt : adoptRecover (tick t s) p why from0 gen tgt = noCheckpoint
      (forwardRecover (setTwin (tick t s) p { (s.slot p).twin with gen := gen }) p why from0 gen tgt) p 1 from0 none := by
    unfold adoptRecover
    extract_lets k w
    rw [if_neg hsome, show newestBelow (tick t s) p from0 = none from hnone]
    rfl
  have hset : SlotBecomes p { s.slot p with twin := { (s.slot p).twin with gen := gen } } (tick t s)
      (forwardRecover (setTwin (tick t s) p { (s.slot p).twin with gen := gen }) p why from0 gen tgt) :=
    (SlotBecomes.setTwin ..).andThen (forwardRecover_slots ..)
  refine ⟨_, exec_recover_of_newer hheard hgen, ?_⟩
  rw [hadopt]
  exact noCheckpoint_parks (by rw [hset.own]; exact hrun) (by rw [hset.own]; exact hpark) ..

end

/-- An image whose port 0 is a ring port. -/
def ringImg : Img := { packageImg with links := List.replicate 17 1 }

/-- The RUN of ticket 8, in its first step. -/
def openRun : Run := { num := 8, left := 1, step := 0, stage := .inStep, fresh := true, started := true, dueAt := 0, applied := false }

/-- Partition 0 executes it, without a checkpoint, and its lease has lapsed; port 0 is UP. -/
def lapsedInStep : State :=
  (({ State.reset with boot := { State.reset.boot with stage := 6 } }).setPort 0 { Port.reset with state := 3 }).setSlot 0 { Slot.reset with
    st := .running, img := some ringImg, run := some openRun, parking := true, led := { Ledger.reset with queue := [runBefore] } }

/-- Refutes O46: a partition whose lease lapsed in the step is PARKED when its RUN fails (exec_recover_parks, R379), where the statement says IDLE. -/
theorem not_noCheckpointFailsTheRun : ¬ Obligations.NoCheckpointFailsTheRun := by
  unfold Obligations.NoCheckpointFailsTheRun
  intro h
  obtain ⟨hrecover, -⟩ := h 0 0 lapsedInStep ringImg openRun runBefore 0 1 0 1 0 none rfl rfl rfl (by decide)
  obtain ⟨u, b, hexec, hidle, -⟩ := hrecover rfl Nat.zero_lt_one rfl rfl
  obtain ⟨v, hv, hparked⟩ := exec_recover_parks (t := 0) (why := 1) (from0 := 0) (gen := 1) (tgt := 0) (s := lapsedInStep) (p := 0) (q := 0)
    (r := openRun) rfl Nat.zero_lt_one rfl rfl rfl
  obtain rfl := Host.Outcome.next.inj (hexec.symm.trans hv)
  exact PState.noConfusion (hidle.symm.trans hparked)

end Sys2Proof.Machine
end
